-- ==== Sys2Proof/Word.lean ====
section
/-! DEFINITION. The word types of the part (00 R10, 06 R180): plain abbreviations. -/

namespace Sys2Proof

/-- One byte of memory. -/
abbrev Byte := BitVec 8
/-- A 32-bit register or word. -/
abbrev Word := BitVec 32
/-- A 64-bit register pair. -/
abbrev DWord := BitVec 64
/-- An instruction word (06 R188). -/
abbrev IWord := BitVec 96
/-- A set of lanes: bit l is lane l (05 R157). -/
abbrev Mask := BitVec 32
/-- The four record slots of a format-X instruction (06 R186, 12 R330). -/
abbrev Record := BitVec 384
/-- One 32-byte beat of a packet (16 R413). -/
abbrev Beat := BitVec 256

end Sys2Proof
end

