-- ==== Sys2Proof/Syntax.lean ====
section
/-! DEFINITION. Syntax of the part's steps: operand forms, instruction formats, packets and commands, and
`Instr`, one constructor for each row of spec/opcode_table.json (instructions first, then the module's events). -/

namespace Sys2Proof

/-! ### Operand forms -/

/-- Operand descriptor, Table 6.5 (06 R189). -/
inductive Opd where
  | v (n : BitVec 8)
  | d (n : BitVec 7)
  | t (n : BitVec 3)
  | a (n : BitVec 5)
  | zero
  | p (n : BitVec 3)
  | c (n : BitVec 3)
  deriving DecidableEq, Repr

/-- Permutation of the first source, Table 6.6 (06 R190). -/
inductive Perm where
  | none
  | butterfly (q : Fin 5)
  | rotate (q : BitVec 3)
  | reverse
  | broadcast (q : BitVec 5)
  deriving DecidableEq, Repr

/-- Type codes, Table 6.8 (06 R192). -/
inductive Ty where
  | i32 | n32 | i64 | n64 | i16 | n16 | i8 | n8 | f32 | f16 | bf16 | e4m3 | e5m2 | q8 | q4
  deriving DecidableEq, Repr

/-- Rounding field, Table 6.7 (06 R191). -/
inductive Rm where
  | rne | rz | ru | rd
  deriving DecidableEq, Repr

/-- Scopes, Table 4.1 (04 R116). -/
inductive Scope where
  | team | cluster | die | device | pod | system
  deriving DecidableEq, Repr

/-- Orders, Table 4.2 (04 R118). -/
inductive Ord where
  | weak | acq | rel | ar | sc
  deriving DecidableEq, Repr

/-- Address spaces, Table 1.1 (01 R16). -/
inductive Asp where
  | global | spad | window | pod | acc
  deriving DecidableEq, Repr

/-- Access size of a load (10 R282). -/
inductive LdSize where
  | b8 | b16 | b32 | b64 | b128 | s8 | s16
  deriving DecidableEq, Repr

/-- Access size of a store (10 R282). -/
inductive StSize where
  | b8 | b16 | b32 | b64 | b128
  deriving DecidableEq, Repr

/-- Atomic operations, Table 6.14 (06 R202). -/
inductive AtomOp where
  | addN32 | addN64 | minI32 | maxI32 | minN32 | maxN32 | andB32 | orB32 | xorB32
  | exchB32 | exchB64 | casB32 | casB64 | addF32
  deriving DecidableEq, Repr

/-- Operations of LDX (12 R357). -/
inductive LdxOp where
  | addF32 | maxF32 | minF32 | addI32 | addBf16x2
  deriving DecidableEq, Repr

/-- Special functions, Table 8.6 (08 R245). -/
inductive Sfu where
  | rcp | rsq | sqrt | ex2 | lg2 | sin | cos | tanh
  deriving DecidableEq, Repr

/-! ### Instruction formats -/

/-- The scheduling and guard fields that every instruction carries, Table 6.4 (06 R188). `set = 7` is no counter. -/
structure Sched where
  stall : BitVec 4
  fin : Bool
  pg : BitVec 3
  pn : Bool
  set : BitVec 3
  wait : BitVec 6
  deriving DecidableEq, Repr

/-- Format R (06 R191). -/
structure FmtR where
  sched : Sched
  dst : Opd
  sa : Opd
  perm : Perm
  sb : Opd
  sc : Opd
  ty : Ty
  rm : Rm
  sat : Bool
  mod : BitVec 11
  deriving DecidableEq, Repr

/-- Format I (06 R193). -/
structure FmtI where
  sched : Sched
  dst : Opd
  sa : Opd
  perm : Perm
  imm : Word
  ty : Ty
  rm : Rm
  deriving DecidableEq, Repr

/-- Format M (06 R194). -/
structure FmtM where
  sched : Sched
  dst : Opd
  sa : Opd
  scope : Scope
  ord : Ord
  ch : BitVec 2
  sb : Opd
  ofs : BitVec 24
  asp : Asp
  deriving DecidableEq, Repr

/-- Tensor shape record, Table 12.1 (12 R330). -/
structure Shape where
  mark : BitVec 8
  swz : BitVec 3
  bar : BitVec 16
  dst : BitVec 20
  org3 : BitVec 8
  org2 : BitVec 8
  org1 : BitVec 8
  org0 : BitVec 8
  box3 : BitVec 10
  box2 : BitVec 10
  box1 : BitVec 10
  box0 : BitVec 10
  stride3 : BitVec 36
  extent3 : BitVec 20
  stride2 : BitVec 36
  extent2 : BitVec 20
  stride1 : BitVec 36
  extent1 : BitVec 20
  extent0 : BitVec 20
  rank : BitVec 2
  dtype : BitVec 5
  base : BitVec 57
  deriving DecidableEq, Repr

/-- Format X: a format-R word and its record (06 R195). -/
structure FmtX where
  r : FmtR
  shape : Shape
  deriving DecidableEq, Repr

/-! ### What the events carry -/

/-- A PCIe function of the module (18 R454). -/
inductive Fn where
  | pf
  | vf (lci : BitVec 8)
  deriving DecidableEq, Repr

/-- A queue of a function: its command queue or a logical launch queue (18 R455). -/
inductive QSel where
  | cmd
  | launch (lq : BitVec 8)
  deriving DecidableEq, Repr

/-- What a completed command needs of its packet header (18 R457, R459). -/
structure CmdHdr where
  fn : Fn
  slot : BitVec 32
  tag : BitVec 16
  evt : Bool
  cpla : DWord
  deriving DecidableEq, Repr

/-- A team by its chip, launch handle and linear index (04 R117). -/
structure TeamId where
  lci : Nat
  handle : Nat
  index : Nat
  deriving DecidableEq, Repr

/-- A fabric packet: the header beat of Table 16.1 and its payload beats (16 R416). `authentic` is the outcome of the
check of ATAG under the link's key, which the model does not compute. -/
structure Packet where
  atag : BitVec 128
  addr : BitVec 48
  src : BitVec 10
  dst : BitVec 10
  route : BitVec 12
  lseq : BitVec 12
  msgid : BitVec 16
  prio : BitVec 2
  cls : BitVec 2
  scope : BitVec 3
  epoch : Bool
  strand : BitVec 3
  len : BitVec 4
  type : BitVec 5
  beats : List Beat
  authentic : Bool
  deriving DecidableEq, Repr

/-- What the debugger's register window names (17 R445). -/
inductive WinTarget where
  | reg (lane : BitVec 5) (addr : BitVec 20)
  | pred (lane : BitVec 5) (p : BitVec 3)
  | pc (lane : BitVec 5)
  | tcause | tpc | tlanes | taddr
  deriving DecidableEq, Repr

/-- Power states a power command names (18 R472). -/
inductive PowerState where
  | p0 | p1 | p2 | off
  deriving DecidableEq, Repr

/-- TDISP requests that move an interface between its states (15 R409, R411). -/
inductive TdispMsg where
  | lock | start | stop | error
  deriving DecidableEq, Repr

/-- One step of the part: the rows of the opcode table, in its order. -/
inductive Instr where
  -- family 0x0: control
  | nop (f : FmtR)
  | bra (f : FmtI)
  | brx (f : FmtR)
  | call (f : FmtI)
  | callx (f : FmtR)
  | ret (f : FmtR)
  | exit (f : FmtR)
  | trapSvc (f : FmtI)
  | trapBkpt (f : FmtI)
  | trapSys (f : FmtI)
  | rtt (f : FmtR)
  | region (f : FmtR)
  | yield (f : FmtR)
  | sleept (f : FmtR)
  -- family 0x1: integer and address
  | iadd (f : FmtR)
  | iaddI (f : FmtI)
  | iadd3 (f : FmtR)
  | isub (f : FmtR)
  | isubI (f : FmtI)
  | imul (f : FmtR)
  | imulI (f : FmtI)
  | imulh (f : FmtR)
  | imulhI (f : FmtI)
  | imad (f : FmtR)
  | imadw (f : FmtR)
  | imin (f : FmtR)
  | iminI (f : FmtI)
  | imax (f : FmtR)
  | imaxI (f : FmtI)
  | iabs (f : FmtR)
  | ineg (f : FmtR)
  | lea (f : FmtR)
  | leaI (f : FmtI)
  | leaw (f : FmtR)
  | leawI (f : FmtI)
  -- family 0x2: logic, shifts, bits
  | and (f : FmtR)
  | andI (f : FmtI)
  | or (f : FmtR)
  | orI (f : FmtI)
  | xor (f : FmtR)
  | xorI (f : FmtI)
  | lut3 (f : FmtR)
  | shl (f : FmtR)
  | shlI (f : FmtI)
  | shr (f : FmtR)
  | shrI (f : FmtI)
  | sar (f : FmtR)
  | sarI (f : FmtI)
  | shf (f : FmtR)
  | rotl (f : FmtR)
  | rotlI (f : FmtI)
  | bfe (f : FmtR)
  | bfeI (f : FmtI)
  | bfi (f : FmtR)
  | popc (f : FmtR)
  | clz (f : FmtR)
  | brev (f : FmtR)
  | prmt (f : FmtR)
  -- family 0x3: compare, select, predicates
  | isetp (f : FmtR)
  | isetpI (f : FmtI)
  | isel (f : FmtR)
  | iselI (f : FmtI)
  | fsetp (f : FmtR)
  | fsetpI (f : FmtI)
  | hsetp2 (f : FmtR)
  | hsetp2I (f : FmtI)
  | plop (f : FmtR)
  | p2v (f : FmtR)
  | v2p (f : FmtR)
  -- family 0x4: f32
  | fadd (f : FmtR)
  | faddI (f : FmtI)
  | fmul (f : FmtR)
  | fmulI (f : FmtI)
  | ffma (f : FmtR)
  | fmin (f : FmtR)
  | fminI (f : FmtI)
  | fmax (f : FmtR)
  | fmaxI (f : FmtI)
  | frnd (f : FmtR)
  | fclass (f : FmtR)
  | fscale (f : FmtR)
  | fscaleI (f : FmtI)
  -- family 0x5: packed 16-bit
  | hadd2 (f : FmtR)
  | hadd2I (f : FmtI)
  | hmul2 (f : FmtR)
  | hmul2I (f : FmtI)
  | hfma2 (f : FmtR)
  | hmin2 (f : FmtR)
  | hmin2I (f : FmtI)
  | hmax2 (f : FmtR)
  | hmax2I (f : FmtI)
  -- family 0x6: special functions
  | rcp (f : FmtR)
  | rsq (f : FmtR)
  | sqrt (f : FmtR)
  | ex2 (f : FmtR)
  | lg2 (f : FmtR)
  | sin (f : FmtR)
  | cos (f : FmtR)
  | tanh (f : FmtR)
  -- family 0x5: conversions
  | cvt (f : FmtR)
  | f2i (f : FmtR)
  | i2f (f : FmtR)
  | pack (f : FmtR)
  | unpk (f : FmtR)
  -- family 0x7: quantisation
  | qscale (f : FmtR)
  | qnt (f : FmtR)
  | dqnt (f : FmtR)
  -- family 0x8: moves and group operations
  | mov (f : FmtR)
  | movi (f : FmtI)
  | movd (f : FmtR)
  | rget (f : FmtR)
  | rset (f : FmtR)
  | vote (f : FmtR)
  | matchv (f : FmtR)
  | redux (f : FmtR)
  | scan (f : FmtR)
  | first (f : FmtR)
  | perm (f : FmtR)
  -- families 0x9, 0xA, 0xB: memory
  | ld (sz : LdSize) (f : FmtM)
  | st (sz : StSize) (f : FmtM)
  | ldfrag (f : FmtM)
  | stfrag (f : FmtM)
  | pgreq (f : FmtM)
  | pgprobe (f : FmtM)
  | atom (op : AtomOp) (f : FmtM)
  | atoms (op : AtomOp) (f : FmtM)
  | red (op : AtomOp) (f : FmtM)
  | fence (f : FmtM)
  | lds (sz : LdSize) (f : FmtM)
  | sts (sz : StSize) (f : FmtM)
  | ldw (sz : LdSize) (f : FmtM)
  | stw (sz : StSize) (f : FmtM)
  | stagl (f : FmtR)
  | stagi (f : FmtR)
  | stagx (f : FmtR)
  | swopen (f : FmtR)
  | swclaim (f : FmtR)
  | swrel (f : FmtR)
  | smove (f : FmtR)
  -- family 0xC: barriers, convergence, registers, launch
  | barinit (f : FmtR)
  | barinitFree (f : FmtR)
  | bararr (f : FmtR)
  | barexp (f : FmtR)
  | barwait (f : FmtR)
  | bartest (f : FmtR)
  | csign (f : FmtR)
  | csignDecl (f : FmtR)
  | cwait (f : FmtR)
  | reggrow (f : FmtR)
  | regshrink (f : FmtR)
  | launch (f : FmtR)
  | srd (f : FmtI)
  | swr (f : FmtI)
  -- family 0xD: matrix
  | mma (f : FmtR)
  | mmaq (f : FmtR)
  | mxout (f : FmtR)
  | mzero (f : FmtR)
  | mlda (f : FmtR)
  | mrda (f : FmtR)
  | mwra (f : FmtR)
  | mdrain (f : FmtR)
  | mdrainTq (f : FmtR)
  -- family 0xE: engines and fabric
  | tcopy (f : FmtX)
  | tgather (f : FmtX)
  | tchain (f : FmtR)
  | tcancel (f : FmtR)
  | tstat (f : FmtR)
  | coll (f : FmtR)
  | fsend (f : FmtX)
  | fpost (f : FmtR)
  | flogpop (f : FmtR)
  | stm (sz : StSize) (f : FmtM)
  | ldx (op : LdxOp) (f : FmtM)
  -- family 0xF: cache maintenance
  | prefetch (f : FmtM)
  | cflush (f : FmtM)
  | cinval (f : FmtM)
  | pvfl (f : FmtM)
  | woclr (f : FmtM)
  -- firmware commands (Table 18.5)
  | nopCmd (h : CmdHdr)
  | launchPacket (h : CmdHdr) (lq : BitVec 8) (rec : BitVec 512)
  | vcCreate (h : CmdHdr) (lci : BitVec 8) (chw : BitVec 8) (pchip : BitVec 16) (gid : BitVec 16) (incoming : Bool) (s2 : DWord) (qos : DWord)
  | vcDestroy (h : CmdHdr) (lci : BitVec 8)
  | vcQos (h : CmdHdr) (lci : BitVec 8) (qos : DWord)
  | map (h : CmdHdr) (stage : BitVec 8) (lci : BitVec 8) (ctx : BitVec 128)
  | shoot (h : CmdHdr) (lci : BitVec 8) (stage : BitVec 8) (all : Bool) (cls : BitVec 8) (first : DWord) (count : DWord)
  | pageReply (h : CmdHdr) (vf : BitVec 8) (queue : BitVec 8) (status : BitVec 8) (reqid : BitVec 16) (inc : BitVec 16)
  | eventArm (h : CmdHdr) (lci : BitVec 16)
  | ckpt (h : CmdHdr) (gid : BitVec 16) (narrow : Bool) (dest : DWord) (ranges : DWord) (rt : DWord)
  | restore (h : CmdHdr) (gid : BitVec 16) (src : DWord)
  | counterAcq (h : CmdHdr) (kind : BitVec 8) (op : BitVec 8) (die : BitVec 8) (bank : BitVec 8) (lci : BitVec 16)
  | routeLoad (h : CmdHdr) (gid : BitVec 16) (kind : BitVec 8) (sel : BitVec 8) (src : DWord) (first : Word) (count : Word)
  | guestPause (h : CmdHdr) (gid : BitVec 16)
  | guestResume (h : CmdHdr) (gid : BitVec 16)
  | vcMigrate (h : CmdHdr) (lci : BitVec 8) (target : BitVec 16) (route : DWord)
  | placeLoad (h : CmdHdr) (lci : BitVec 8) (table : DWord)
  | getver (h : CmdHdr)
  | setver (h : CmdHdr) (iface : BitVec 8) (ver : BitVec 8)
  | attest (h : CmdHdr) (nonce : BitVec 256) (out : DWord)
  -- debug and register-page writes
  | dbgcmdStop (fn : Fn) (team : TeamId)
  | dbgcmdResume (fn : Fn) (team : TeamId)
  | dbgcmdResumeNext (fn : Fn) (team : TeamId)
  | dbgcmdStep (fn : Fn) (team : TeamId) (group : BitVec 5)
  | dbgcmdDetach (fn : Fn) (lci : BitVec 8)
  | queueTailWrite (fn : Fn) (q : QSel) (tail : Word)
  | queueDescriptorReset (fn : Fn) (q : QSel) (base : DWord) (size : BitVec 8) (erra : DWord)
  | armWrite (fn : Fn)
  | rtailWrite (lci : BitVec 8) (rtail : Word)
  | registerWindowWrite (fn : Fn) (team : TeamId) (group : BitVec 5) (target : WinTarget) (data : DWord)
  | watchpointWrite (fn : Fn) (lci : BitVec 8) (lcore : BitVec 11) (wp : BitVec 2) (val : BitVec 128)
  | counterSelectWrite (fn : Fn) (bank : BitVec 7) (ctr : BitVec 4) (sel : BitVec 16)
  | registerWrite (fn : Fn) (off : BitVec 16) (data : List Byte)
  -- power and boot
  | powerGood (romOk : Bool) (failedClusters : List Nat) (failedChannels : List Nat)
  | powerLimitWindow (watts : Nat)
  -- scheduling
  | issueSlotPick (core : Nat) (slot : Nat)
  | scoreboardDecrement (team : TeamId) (group : Nat) (ctr : Nat)
  | dispatchPlacement (lci : BitVec 8)
  | launchAcceptance (lci : BitVec 8) (lq : BitVec 8)
  | reggrowGrant (core : Nat)
  | sleepWake (team : TeamId) (group : Nat)
  | parkThresholdExpiry (team : TeamId)
  | teamPark (team : TeamId)
  | teamWake (team : TeamId)
  | teamEnd (team : TeamId)
  -- translation and memory
  | translationWalk (core : Nat) (lci : BitVec 8) (va : DWord) (kind : BitVec 2)
  | storeAccept (txn : Nat)
  | readService (txn : Nat)
  | accessAnswer (acc : Nat)
  | leaseSweep (die : BitVec 4) (bank : BitVec 5)
  | wcbAgeExpiry (core : Nat) (pchip : BitVec 10) (line : BitVec 41)
  | shootDieAck (seq : Nat) (die : BitVec 4)
  | shootTimeout (seq : Nat) (die : BitVec 4)
  -- engines
  | jobStart (die : BitVec 4) (ch : BitVec 5)
  | boxRow (job : Nat) (row : Nat)
  | jobEnd (job : Nat)
  | chainRecordRead (die : BitVec 4) (ch : BitVec 5)
  | collCardStart (card : Nat)
  | collChunkLanding (card : Nat) (chunk : Nat)
  | collCardEnd (card : Nat)
  | matrixGrant (cluster : Nat)
  | matrixRequestApplied (cluster : Nat)
  | mdrainWritesDone (drain : Nat)
  | smoveAcceptance (mv : Nat)
  | smoveEnd (mv : Nat)
  | windowBarrierUpdate (upd : Nat)
  | serviceReply (lci : BitVec 8)
  -- fabric
  | linkAck (port : BitVec 4) (lseq : BitVec 12)
  | resendTimeout (port : BitVec 4)
  | linkTraining (port : BitVec 4) (lo : Nat) (hi : Nat)
  | loadPacket (port : BitVec 5) (pkt : Packet)
  | loadRsp (port : BitVec 5) (pkt : Packet)
  | storePacket (port : BitVec 5) (pkt : Packet)
  | storeAck (port : BitVec 5) (pkt : Packet)
  | atomic (port : BitVec 5) (pkt : Packet)
  | atomicRsp (port : BitVec 5) (pkt : Packet)
  | msgReq (port : BitVec 5) (pkt : Packet)
  | msgData (port : BitVec 5) (pkt : Packet)
  | token (port : BitVec 5) (pkt : Packet)
  | defer (port : BitVec 5) (pkt : Packet)
  | resume (port : BitVec 5) (pkt : Packet)
  | nak (port : BitVec 5) (pkt : Packet)
  | nakRetry (msg : Nat)
  | error (port : BitVec 5) (pkt : Packet)
  | preq (port : BitVec 5) (pkt : Packet)
  | tokenIssue (die : BitVec 4)
  | tokenExpiry (die : BitVec 4) (tok : Nat)
  | orphanTimeout (die : BitVec 4) (req : Nat)
  | linkRekey (src : BitVec 10) (dst : BitVec 10) (gid : BitVec 16)
  | heartbeatLoss (peer : Nat)
  | timeSyncExchange (port : BitVec 5) (offset : Int)
  | timeLost (offset : Int)
  | guestPauseComplete (gid : BitVec 16)
  | migrationComplete (lci : BitVec 8)
  | checkpointComplete (gid : BitVec 16)
  | sliceBoundary
  | drainBoundExpiry (lci : BitVec 8)
  | coschedHint (cgroup : Word) (start : Nat)
  | channelRetirement (die : BitVec 4) (ch : BitVec 6)
  | clusterRetirement (cluster : Nat)
  | stopDump (team : TeamId)
  | tdispMessage (lci : BitVec 8) (msg : TdispMsg)
  | functionReset (fn : Fn)
  | powerCommand (target : PowerState)
  | powerOff
  | storeDropped (lci : BitVec 8)
  deriving DecidableEq, Repr

end Sys2Proof
end

