-- ==== Sys2Proof/Config.lean ====
section
/-! DEFINITION. What the spec leaves open, as constants without a body: no proof can see a value of one. Each is
applied to the plain counter `free` of the state, or to the operands it depends on (assumption log 7, 8, 10, 15). -/

namespace Sys2Proof.Config

/-- Which of the two values a register read inside a latency window sees (06 R196), and every other choice of one of
two outcomes that the spec leaves open; numbered by the state's counter of free values. -/
opaque freeBit : Nat → Nat → Bool
/-- A number that the spec leaves open: a request, call, launch or message number before it is made unique. -/
opaque freeNat : Nat → Nat
/-- The candidate result of a special function, a fixed function of the input bits (08 R245); the model moves it into
the error bound. -/
opaque sfuRaw : Sfu → Word → Word
/-- Bytes of signatures and hashes that the spec does not compute (18 R463, R464). -/
opaque freeByte : Nat → Nat → Byte
/-- A 32-bit value that the spec leaves open. -/
opaque freeWord : Nat → Nat → Word

/-- How the module's cell is wired: whether it is one of 8 modules; else it is one of 9 to 16 (16 R420, log 87). -/
opaque cellOfEight : Bool

end Sys2Proof.Config
end

