-- ==== Sys2Proof/Machine/Fields.lean ====
section
/-! DEFINITION. The codes of the fields of an instruction word (06 R188 to R194), each with its inverse. A decoder
answers `none` at a reserved code. -/

namespace Sys2Proof

/-- Table 6.8. -/
def Ty.code : Ty → BitVec 4
  | .i32 => 0 | .n32 => 1 | .i64 => 2 | .n64 => 3 | .i16 => 4 | .n16 => 5 | .i8 => 6 | .n8 => 7
  | .f32 => 8 | .f16 => 9 | .bf16 => 10 | .e4m3 => 11 | .e5m2 => 12 | .q8 => 13 | .q4 => 14

/-- Table 6.8; 15 is reserved. -/
def Ty.ofCode (c : BitVec 4) : Option Ty :=
  match c.toNat with
  | 0 => some .i32 | 1 => some .n32 | 2 => some .i64 | 3 => some .n64 | 4 => some .i16 | 5 => some .n16
  | 6 => some .i8 | 7 => some .n8 | 8 => some .f32 | 9 => some .f16 | 10 => some .bf16 | 11 => some .e4m3
  | 12 => some .e5m2 | 13 => some .q8 | 14 => some .q4 | _ => none

/-- Table 6.7. -/
def Rm.code : Rm → BitVec 2
  | .rne => 0 | .rz => 1 | .ru => 2 | .rd => 3

/-- Table 6.7. -/
def Rm.ofCode (c : BitVec 2) : Rm :=
  match c.toNat with
  | 0 => .rne | 1 => .rz | 2 => .ru | _ => .rd

/-- Table 4.1. -/
def Scope.code : Scope → BitVec 3
  | .team => 0 | .cluster => 1 | .die => 2 | .device => 3 | .pod => 4 | .system => 5

/-- Table 4.1; 6 and 7 are reserved. -/
def Scope.ofCode (c : BitVec 3) : Option Scope :=
  match c.toNat with
  | 0 => some .team | 1 => some .cluster | 2 => some .die | 3 => some .device | 4 => some .pod | 5 => some .system
  | _ => none

/-- Table 4.2. -/
def Ord.code : Ord → BitVec 3
  | .weak => 0 | .acq => 1 | .rel => 2 | .ar => 3 | .sc => 4

/-- Table 4.2; 5 to 7 are reserved. -/
def Ord.ofCode (c : BitVec 3) : Option Ord :=
  match c.toNat with
  | 0 => some .weak | 1 => some .acq | 2 => some .rel | 3 => some .ar | 4 => some .sc | _ => none

/-- Table 1.1. -/
def Asp.code : Asp → BitVec 4
  | .global => 0 | .spad => 1 | .window => 2 | .pod => 3 | .acc => 4

/-- Table 1.1; 5 to 15 are reserved. -/
def Asp.ofCode (c : BitVec 4) : Option Asp :=
  match c.toNat with
  | 0 => some .global | 1 => some .spad | 2 => some .window | 3 => some .pod | 4 => some .acc | _ => none

/-- Operand descriptor (06 R189): VIEW in bits 9 to 8, INDEX in bits 7 to 0. -/
def Opd.code : Opd → BitVec 10
  | .v n => 0#2 ++ n
  | .d n => 1#2 ++ (0#1 ++ n)
  | .t n => 2#2 ++ (0#5 ++ n)
  | .a n => 2#2 ++ (1#3 ++ n)
  | .zero => 3#2 ++ 0#8
  | .p n => 3#2 ++ (1#5 ++ n)
  | .c n => 3#2 ++ (3#5 ++ n)

/-- Table 6.5; `none` at a reserved INDEX. -/
def Opd.ofCode (c : BitVec 10) : Option Opd :=
  let ix := c.extractLsb' 0 8
  match (c.extractLsb' 8 2).toNat with
  | 0 => some (.v ix)
  | 1 => if ix.extractLsb' 7 1 = 0 then some (.d (ix.extractLsb' 0 7)) else none
  | 2 =>
    if ix.extractLsb' 3 5 = 0 then some (.t (ix.extractLsb' 0 3))
    else if ix.extractLsb' 5 3 = 1 then some (.a (ix.extractLsb' 0 5)) else none
  | _ =>
    if ix = 0 then some .zero
    else if ix.extractLsb' 3 5 = 1 then some (.p (ix.extractLsb' 0 3))
    else if ix.extractLsb' 3 5 = 3 then some (.c (ix.extractLsb' 0 3)) else none

/-- PERM (06 R190): the pattern in bits 7 to 5, the parameter q in bits 4 to 0. -/
def Perm.code : Perm → BitVec 8
  | .none => 0
  | .butterfly q => 1#3 ++ BitVec.ofNat 5 q.val
  | .rotate q => 2#3 ++ (0#2 ++ q)
  | .reverse => 3#3 ++ 0#5
  | .broadcast q => 4#3 ++ q

/-- Table 6.6; `none` at a reserved pattern or a q outside its legal range. -/
def Perm.ofCode (c : BitVec 8) : Option Perm :=
  let q := c.extractLsb' 0 5
  match (c.extractLsb' 5 3).toNat with
  | 0 => if q = 0 then some .none else Option.none
  | 1 => if h : q.toNat < 5 then some (.butterfly ⟨q.toNat, h⟩) else Option.none
  | 2 => if q.extractLsb' 3 2 = 0 then some (.rotate (q.extractLsb' 0 3)) else Option.none
  | 3 => if q = 0 then some .reverse else Option.none
  | 4 => some (.broadcast q)
  | _ => Option.none

/-- The lane that lane l reads SA from, Table 6.6. -/
def Perm.from (p : Perm) (l : Nat) : Nat :=
  match p with
  | .none => l
  | .butterfly q => l ^^^ 2 ^ q.val
  | .rotate q => (l / 8) * 8 + (l + q.toNat) % 8
  | .reverse => 31 - l
  | .broadcast q => q.toNat

/-- Table 10.2. -/
def LdSize.code : LdSize → BitVec 4
  | .b8 => 0 | .b16 => 1 | .b32 => 2 | .b64 => 3 | .b128 => 4 | .s8 => 8 | .s16 => 9

/-- Table 10.2. -/
def LdSize.ofCode (c : BitVec 4) : Option LdSize :=
  match c.toNat with
  | 0 => some .b8 | 1 => some .b16 | 2 => some .b32 | 3 => some .b64 | 4 => some .b128 | 8 => some .s8
  | 9 => some .s16 | _ => none

/-- Bytes of a load (Table 10.2). -/
def LdSize.bytes : LdSize → Nat
  | .b8 => 1 | .b16 => 2 | .b32 => 4 | .b64 => 8 | .b128 => 16 | .s8 => 1 | .s16 => 2

/-- Table 10.2. -/
def StSize.code : StSize → BitVec 4
  | .b8 => 0 | .b16 => 1 | .b32 => 2 | .b64 => 3 | .b128 => 4

/-- Table 10.2; stores define FN 0 to 4. -/
def StSize.ofCode (c : BitVec 4) : Option StSize :=
  match c.toNat with
  | 0 => some .b8 | 1 => some .b16 | 2 => some .b32 | 3 => some .b64 | 4 => some .b128 | _ => none

/-- Bytes of a store (Table 10.2). -/
def StSize.bytes : StSize → Nat
  | .b8 => 1 | .b16 => 2 | .b32 => 4 | .b64 => 8 | .b128 => 16

/-- Table 6.14. -/
def AtomOp.code : AtomOp → BitVec 4
  | .addN32 => 0 | .addN64 => 1 | .minI32 => 2 | .maxI32 => 3 | .minN32 => 4 | .maxN32 => 5 | .andB32 => 6
  | .orB32 => 7 | .xorB32 => 8 | .exchB32 => 9 | .exchB64 => 10 | .casB32 => 11 | .casB64 => 12 | .addF32 => 13

/-- Table 6.14. -/
def AtomOp.ofCode (c : BitVec 4) : Option AtomOp :=
  match c.toNat with
  | 0 => some .addN32 | 1 => some .addN64 | 2 => some .minI32 | 3 => some .maxI32 | 4 => some .minN32
  | 5 => some .maxN32 | 6 => some .andB32 | 7 => some .orB32 | 8 => some .xorB32 | 9 => some .exchB32
  | 10 => some .exchB64 | 11 => some .casB32 | 12 => some .casB64 | 13 => some .addF32 | _ => none

/-- Operand width of an atomic in bytes (10 R289, R290). -/
def AtomOp.bytes : AtomOp → Nat
  | .addN64 | .exchB64 | .casB64 => 8
  | .addN32 | .minI32 | .maxI32 | .minN32 | .maxN32 | .andB32 | .orB32 | .xorB32 | .exchB32 | .casB32 | .addF32 => 4

/-- Operations that RED accepts (Table 6.13): FN 0 to 8 and 13. -/
def AtomOp.isRed : AtomOp → Bool
  | .exchB32 | .exchB64 | .casB32 | .casB64 => false
  | .addN32 | .addN64 | .minI32 | .maxI32 | .minN32 | .maxN32 | .andB32 | .orB32 | .xorB32 | .addF32 => true

/-- 12 R357. -/
def LdxOp.code : LdxOp → BitVec 4
  | .addF32 => 0 | .maxF32 => 1 | .minF32 => 2 | .addI32 => 3 | .addBf16x2 => 4

/-- 12 R357. -/
def LdxOp.ofCode (c : BitVec 4) : Option LdxOp :=
  match c.toNat with
  | 0 => some .addF32 | 1 => some .maxF32 | 2 => some .minF32 | 3 => some .addI32 | 4 => some .addBf16x2 | _ => none

/-- Bits `[lo + len - 1 : lo]` of a MOD field as a number. -/
def modField (m : BitVec 11) (lo len : Nat) : Nat := (m.extractLsb' lo len).toNat

/-- Bit `k` of a MOD field. -/
def modBit (m : BitVec 11) (k : Nat) : Bool := m.getLsbD k

end Sys2Proof
end

