-- ==== Sys2Proof/Machine/Accept.lean ====
section
/-! DEFINITION. Which field values each instruction accepts: checks 6 and 7 of Table 6.15 (06 R203), from the operand
tables of chapters 8 to 12. One arm for each instruction. -/

namespace Sys2Proof.Accept

/-- Outcome of checks 6 (RESERVED_BITS) and 7 (ILLEGAL_OP). -/
inductive Verdict where
  | ok | reserved | illegal
  deriving DecidableEq, Repr

/-- What an operand field accepts: `none` is a field that the instruction does not use. -/
abbrev Use := Option (Opd → Bool)

/-- How a format-R word may be filled. -/
structure RRule where
  dst : Use := none
  sa : Use := none
  sb : Use := none
  sc : Use := none
  perm : Bool := true
  /-- A nonzero PERM is reserved whatever the view of SA (09 R253). -/
  permNever : Bool := false
  tys : List Ty := []
  rm : Bool := false
  sat : Bool := false
  mod : BitVec 11 := 0
  res : Bool := true
  acc : Bool := true

/-- How a format-I word may be filled. -/
structure IRule where
  dst : Use := none
  sa : Use := none
  perm : Bool := true
  tys : List Ty := []
  rm : Bool := false
  res : Bool := true
  acc : Bool := true

/-- How a format-M word may be filled. -/
structure MRule where
  dst : Use := none
  sa : Use := none
  sb : Use := none
  asps : List Asp := [.global, .pod]
  ords : List Ord := []
  scope : Bool := true
  ch : Bool := false
  res : Bool := true
  acc : Bool := true

/-- A v register. -/
def isV : Opd → Bool | .v _ => true | _ => false
/-- A d register. -/
def isD : Opd → Bool | .d _ => true | _ => false
/-- A t register. -/
def isT : Opd → Bool | .t _ => true | _ => false
/-- An accumulator tile. -/
def isA : Opd → Bool | .a _ => true | _ => false
/-- ZERO. -/
def isZ : Opd → Bool | .zero => true | _ => false
/-- A predicate. -/
def isP : Opd → Bool | .p _ => true | _ => false
/-- A convergence register. -/
def isC : Opd → Bool | .c _ => true | _ => false
/-- A v register or ZERO. -/
def vz (o : Opd) : Bool := isV o || isZ o
/-- A d register or ZERO. -/
def dz (o : Opd) : Bool := isD o || isZ o
/-- A predicate or ZERO. -/
def pz (o : Opd) : Bool := isP o || isZ o
/-- A v or d register or ZERO. -/
def vdz (o : Opd) : Bool := vz o || isD o
/-- A v register with index at most `n`. -/
def vMax (n : Nat) : Opd → Bool | .v k => decide (k.toNat ≤ n) | _ => false
/-- A d register with index at most `n`. -/
def dMax (n : Nat) : Opd → Bool | .d k => decide (k.toNat ≤ n) | _ => false

/-- 64-bit types name d registers (08 R232). -/
def wide : Ty → Bool | .i64 | .n64 => true | _ => false
/-- The view of an operand of type `t`, or ZERO (08 R232). -/
def opn (t : Ty) : Opd → Bool := if wide t then dz else vz

/-- Types of two or fewer kinds used by the tables. -/
def ints4 : List Ty := [.i32, .n32, .i64, .n64]
/-- All integer types. -/
def intsAll : List Ty := [.i32, .n32, .i64, .n64, .i16, .n16, .i8, .n8]
/-- All floating-point types. -/
def floatsAll : List Ty := [.f32, .f16, .bf16, .e4m3, .e5m2]
/-- An integer type. -/
def isInt (t : Ty) : Bool := intsAll.contains t
/-- A floating-point type. -/
def isFloat (t : Ty) : Bool := floatsAll.contains t
/-- Element bytes of a type (07 R211, R215); q8 counts 1, q4 counts 0. -/
def tyBytes : Ty → Nat
  | .i64 | .n64 => 8 | .i32 | .n32 | .f32 => 4 | .i16 | .n16 | .f16 | .bf16 => 2
  | .i8 | .n8 | .e4m3 | .e5m2 | .q8 => 1 | .q4 => 0

/-- Reserved scheduling values: SET = 6, and PN = 1 with PG = 7 (06 R188). -/
def schedOk (s : Sched) : Bool := s.set != 6 && !(s.pg == 7 && s.pn)

/-- An unused field holds zero, which is the descriptor of v0 (06 R189). -/
def fieldZero (u : Use) (o : Opd) : Bool := u.isSome || o == .v 0
/-- A used field holds an accepted view. -/
def fieldAcc (u : Use) (o : Opd) : Bool := match u with | some p => p o | none => true

/-- View 2 or 3, where a nonzero PERM raises ILLEGAL_OP (06 R190). -/
def highView : Opd → Bool | .v _ | .d _ => false | _ => true

/-- A nonzero PERM on an instruction that has no use for one (06 R192, R203). -/
def permRes (u : Use) (allowed : Bool) (sa : Opd) (p : Perm) : Bool :=
  p != .none && !highView sa && !(u.isSome && allowed)
/-- A nonzero PERM on an SA of view 2 or 3 (06 R190). -/
def permIll (sa : Opd) (p : Perm) : Bool := p != .none && highView sa

/-- A type field: unused holds 0 (06 R192). -/
def tyRes (l : List Ty) (t : Ty) : Bool := !l.isEmpty || t == .i32
/-- A used type field holds an accepted type. -/
def tyAcc (l : List Ty) (t : Ty) : Bool := l.isEmpty || l.contains t

/-- Checks 6 and 7 in their order. -/
def verdict (res acc : Bool) : Verdict := if !res then .reserved else if !acc then .illegal else .ok

/-- Checks 6 and 7 of a format-R word. -/
def chkR (f : FmtR) (r : RRule) : Verdict :=
  verdict
    (schedOk f.sched && fieldZero r.dst f.dst && fieldZero r.sa f.sa && fieldZero r.sb f.sb && fieldZero r.sc f.sc
      && !permRes r.sa r.perm f.sa f.perm && (!r.permNever || f.perm == .none) && tyRes r.tys f.ty
      && (r.rm || f.rm == .rne) && (r.sat || !f.sat)
      && (f.mod &&& ~~~r.mod) == 0 && r.res)
    (fieldAcc r.dst f.dst && fieldAcc r.sa f.sa && fieldAcc r.sb f.sb && fieldAcc r.sc f.sc && !permIll f.sa f.perm
      && tyAcc r.tys f.ty && r.acc)

/-- Checks 6 and 7 of a format-I word. -/
def chkI (f : FmtI) (r : IRule) : Verdict :=
  verdict
    (schedOk f.sched && fieldZero r.dst f.dst && fieldZero r.sa f.sa && !permRes r.sa r.perm f.sa f.perm
      && tyRes r.tys f.ty && (r.rm || f.rm == .rne) && r.res)
    (fieldAcc r.dst f.dst && fieldAcc r.sa f.sa && !permIll f.sa f.perm && tyAcc r.tys f.ty && r.acc)

/-- The address register of format M (06 R194): a d register for the global and pod spaces, a v register otherwise. -/
def addrReg (a : Asp) (o : Opd) : Bool :=
  match a with | .global | .pod => isD o | .spad | .window | .acc => isV o

/-- Checks 6 and 7 of a format-M word. With no order listed ORD and, unless `scope`, SCOPE hold zero. -/
def chkM (f : FmtM) (r : MRule) : Verdict :=
  verdict
    (schedOk f.sched && fieldZero r.dst f.dst && fieldZero r.sb f.sb && (r.scope || f.scope == .team)
      && (!r.ords.isEmpty || f.ord == .weak) && (r.ch || f.ch == 0) && r.res)
    (fieldAcc r.dst f.dst && (match r.sa with | some p => p f.sa | none => addrReg f.asp f.sa) && fieldAcc r.sb f.sb
      && r.asps.contains f.asp && (r.ords.isEmpty || r.ords.contains f.ord) && r.acc)

/-- Reserved fields of a record: SWZ 4 to 7 and DTYPE 15 to 31 (12 R331), and the bits above the register number of a
marked field (12 R332). The reserved bits 383 to 371 are not part of `Shape`. -/
def shapeRes (s : Shape) : Bool :=
  decide (s.swz.toNat < 4) && decide (s.dtype.toNat < 15)
  && (!s.mark.getLsbD 0 || decide (s.base.toNat < 256)) && (!s.mark.getLsbD 1 || decide (s.extent0.toNat < 256))
  && (!s.mark.getLsbD 2 || decide (s.extent1.toNat < 256)) && (!s.mark.getLsbD 3 || decide (s.extent2.toNat < 256))
  && (!s.mark.getLsbD 4 || decide (s.extent3.toNat < 256)) && (!s.mark.getLsbD 5 || decide (s.stride1.toNat < 256))
  && (!s.mark.getLsbD 6 || decide (s.dst.toNat < 256)) && (!s.mark.getLsbD 7 || decide (s.bar.toNat < 256))

/-- A marked BASE or STRIDE1 names an even register (12 R332). -/
def shapeAcc (s : Shape) : Bool :=
  (!s.mark.getLsbD 0 || s.base.toNat % 2 == 0) && (!s.mark.getLsbD 5 || s.stride1.toNat % 2 == 0)

/-- Checks 6 and 7 of a format-X instruction. -/
def chkX (f : FmtX) (r : RRule) : Verdict :=
  chkR f.r { r with res := r.res && shapeRes f.shape, acc := r.acc && shapeAcc f.shape }

/-- Data register of an access of `sz` (Table 10.2). -/
def ldData : LdSize → Opd → Bool
  | .b8 | .b16 | .b32 | .s8 | .s16 => isV | .b64 => isD | .b128 => dMax 126
/-- Data register of a store (Table 10.2). -/
def stData : StSize → Opd → Bool
  | .b8 | .b16 | .b32 => isV | .b64 => isD | .b128 => dMax 126
/-- SB of an atomic (10 R290). -/
def atomData : AtomOp → Opd → Bool
  | .addN64 | .exchB64 | .casB32 => isD | .casB64 => dMax 126
  | .addN32 | .minI32 | .maxI32 | .minN32 | .maxN32 | .andB32 | .orB32 | .xorB32 | .exchB32 | .addF32 => isV
/-- DST of an atomic with a return (10 R290), or ZERO. -/
def atomDst (op : AtomOp) : Opd → Bool := if op.bytes = 8 then dz else vz

/-- Orders a load accepts (Table 4.2). -/
def ldOrds : List Ord := [.weak, .acq, .sc]
/-- Orders a store or RED accepts (Table 4.2). -/
def stOrds : List Ord := [.weak, .rel, .sc]
/-- Orders of Table 4.2. -/
def allOrds : List Ord := [.weak, .acq, .rel, .ar, .sc]

/-- Every size is accepted in memory; the accumulator space takes .b32 and weak only (10 R279). -/
def accOk (f : FmtM) (b32 : Bool) : Bool := f.asp != .acc || (b32 && f.ord == .weak)

/-- CMP of an integer compare: 0 to 5 (08 R239). -/
def cmpIntRes (m : BitVec 11) : Bool := decide (modField m 5 4 < 6)
/-- CMP of a float compare: 0 to 13 (08 R239). -/
def cmpFloatRes (m : BitVec 11) : Bool := decide (modField m 5 4 < 14)
/-- An even predicate (08 R240). -/
def evenP : Opd → Bool | .p k => k.toNat % 2 == 0 | _ => false

/-- The three ranges of REGION (09 R256). -/
def regionAcc (f : FmtR) : Bool :=
  let l1 := modField f.mod 0 6
  let l2 := modField f.mod 6 5
  decide (l1 ≤ 32) && decide (l1 + l2 ≤ 32) && (isZ f.sa == (l1 == 0)) && (isZ f.sb == (l2 == 0))
    && (isZ f.sc == (32 - l1 - l2 == 0) || isZ f.sc)

/-- Blocks in a row of TY (11 R316). -/
def nblocks (t : Ty) : Nat := if t == .q4 then 4 else 2

/-- MOD of the f32 and packed arithmetic (Table 8.1): the modifiers of the operands, FTZ and SR. -/
def fmod (a b c ftz sr : Bool) : BitVec 11 :=
  (if a then 0x009#11 else 0) ||| (if b then 0x012#11 else 0) ||| (if c then 0x024#11 else 0)
    ||| (if ftz then 0x200#11 else 0) ||| (if sr then 0x400#11 else 0)

/-- Two-operand arithmetic over v registers. -/
def ab (mod : BitVec 11) (tys : List Ty) (rm sat : Bool) : RRule :=
  { dst := vz, sa := vz, sb := vz, tys := tys, rm := rm, sat := sat, mod := mod }
/-- Three-operand arithmetic over v registers. -/
def abc (mod : BitVec 11) (tys : List Ty) (rm sat : Bool) : RRule :=
  { dst := vz, sa := vz, sb := vz, sc := vz, tys := tys, rm := rm, sat := sat, mod := mod }
/-- One-operand arithmetic over v registers. -/
def a1 (mod : BitVec 11) (tys : List Ty) (rm sat : Bool) : RRule :=
  { dst := vz, sa := vz, tys := tys, rm := rm, sat := sat, mod := mod }
/-- Two-operand arithmetic in TY (Table 8.2). -/
def abT (t : Ty) (tys : List Ty) (sat : Bool) : RRule :=
  { dst := opn t, sa := opn t, sb := opn t, tys := tys, sat := sat }
/-- Format-I arithmetic in TY. -/
def iT (t : Ty) (tys : List Ty) : IRule := { dst := opn t, sa := opn t, tys := tys }
/-- Format-I arithmetic over v registers. -/
def iV (tys : List Ty) (rm : Bool) : IRule := { dst := vz, sa := vz, tys := tys, rm := rm }

/-- The 16-bit float types. -/
def halves : List Ty := [.f16, .bf16]

/-- Source type code of CVT, F2I and I2F: MOD[3:0] (08 R246). -/
def srcTy (m : BitVec 11) : Option Ty := Ty.ofCode (m.extractLsb' 0 4)
/-- The view of a source of the type coded in MOD[3:0]. -/
def srcOpn (m : BitVec 11) : Opd → Bool := match srcTy m with | some t => opn t | none => fun _ => true
/-- The source code of MOD[3:0] is in `l` (08 R246). -/
def srcIn (m : BitVec 11) (l : List Ty) : Bool := match srcTy m with | some t => l.contains t | none => false

/-- Fields that an integer-to-integer CVT leaves unused: RM, SR and FTZ (06 R192). -/
def cvtRes (f : FmtR) : Bool :=
  !(isInt f.ty && srcIn f.mod intsAll) || (f.rm == .rne && !modBit f.mod 9 && !modBit f.mod 10)
/-- Fields that an integer PACK leaves unused, and MOD[0] and SC of a 16-bit PACK (06 R192). -/
def packRes (f : FmtR) : Bool :=
  (isFloat f.ty || (f.rm == .rne && !modBit f.mod 9 && !modBit f.mod 10))
    && (tyBytes f.ty != 2 || (!modBit f.mod 0 && f.sc == .v 0))
/-- PACK and UNPK types (Table 8.7). -/
def packTys : List Ty := [.f16, .bf16, .i16, .n16, .e4m3, .e5m2, .i8, .n8]

/-- RM and SAT of REDUX and SCAN (06 R192): an add uses SAT, only the f32 add uses RM; operations 6 and 7 are
reserved (08 R251). -/
def reduxRes (f : FmtR) : Bool :=
  let op := modField f.mod 0 3
  decide (op < 6) && (f.rm == .rne || (op == 0 && f.ty == .f32)) && (!f.sat || op == 0)
/-- Operations 3 to 5 take n32 only (Table 8.10). -/
def reduxAcc (f : FmtR) : Bool := decide (modField f.mod 0 3 < 3) || f.ty == .n32

/-- SA and DST both v or both d, ZERO accepted (08 R232, R250). -/
def sameView (f : FmtR) : Bool := !(isV f.dst && isD f.sa) && !(isD f.dst && isV f.sa)

/-- DONE = 6 is reserved (11 R310). -/
def doneRes (f : FmtR) : Bool := modField f.mod 8 3 != 6

/-- The types of MMA (11 R317). -/
def mmaTys : List Ty := [.f32, .f16, .bf16, .e4m3, .e5m2, .i8]
/-- The block types. -/
def qTys : List Ty := [.q8, .q4]

/-- Width of a special register: 64 bits at 0x020, 0x031 and 0x033 (Table 9.7). -/
def srWide (n : Nat) : Bool := n == 0x20 || n == 0x31 || n == 0x33
/-- Numbers of Table 9.7. -/
def srKnown (n : Nat) : Bool :=
  decide (n ≤ 4) || (decide (8 ≤ n) && decide (n ≤ 0xE)) || (decide (0x10 ≤ n) && decide (n ≤ 0x15))
    || (decide (0x20 ≤ n) && decide (n ≤ 0x22)) || (decide (0x30 ≤ n) && decide (n ≤ 0x33))
/-- Registers marked RW in Table 9.7. -/
def srWritable (n : Nat) : Bool := n == 0x21 || n == 0x22 || (decide (0x30 ≤ n) && decide (n ≤ 0x33))
/-- The special register number of SRD and SWR (09 R277). -/
def srNum (imm : Word) : Nat := (imm.extractLsb' 0 12).toNat
/-- The operand view of special register `n`. -/
def srOpn (n : Nat) : Opd → Bool := if srWide n then isD else isV

/-- Chunks of 64 columns per fragment row, for CQ (11 R320). -/
def cqAcc (f : FmtR) : Bool := decide (modField f.mod 0 2 * (64 / tyBytes f.ty) < 64)

/-- Checks 6 and 7 for each instruction. An event of the module has no encoding and passes. -/
def check (i : Instr) : Verdict :=
  match i with
  -- control (09 R252 to R262)
  | .nop f => chkR f {}
  | .bra f => chkI f { res := f.imm.extractLsb' 27 5 == 0 && decide ((f.imm.extractLsb' 0 3).toNat ≤ 4) }
  | .brx f => chkR f { sa := some isD, perm := false, permNever := true }
  | .call f => chkI f { dst := dz, res := f.imm.extractLsb' 27 5 == 0 && decide ((f.imm.extractLsb' 0 3).toNat ≤ 4) }
  | .callx f => chkR f { dst := dz, sa := some isD, perm := false, permNever := true }
  | .ret f => chkR f { sa := some isD, perm := false, permNever := true }
  | .exit f => chkR f {}
  | .trapSvc f => chkI f { sa := dMax 124, perm := false, res := f.imm.extractLsb' 16 16 == 0 }
  | .trapBkpt f => chkI f { res := f.imm.extractLsb' 16 16 == 0 }
  | .trapSys f => chkI f { res := f.imm.extractLsb' 16 16 == 0 }
  | .rtt f => chkR f { mod := 1 }
  | .region f => chkR f { sa := vz, sb := vz, sc := vz, perm := false, mod := 0x7FF, acc := regionAcc f }
  | .yield f => chkR f {}
  | .sleept f => chkR f { sa := some isD, sb := vz, sc := vz, acc := isZ f.sb || isV f.sc }
  -- integer and address (08 R237)
  | .iadd f => chkR f (abT f.ty ints4 true)
  | .iaddI f => chkI f (iT f.ty ints4)
  | .iadd3 f => chkR f { abT f.ty ints4 true with sc := opn f.ty }
  | .isub f => chkR f (abT f.ty ints4 true)
  | .isubI f => chkI f (iT f.ty ints4)
  | .imul f => chkR f (abT f.ty ints4 true)
  | .imulI f => chkI f (iT f.ty ints4)
  | .imulh f => chkR f (abT f.ty [.i32, .n32] false)
  | .imulhI f => chkI f (iT f.ty [.i32, .n32])
  | .imad f => chkR f (abc 0 [.i32, .n32] false true)
  | .imadw f => chkR f { abc 0 [.i32, .n32] false true with dst := dz, sc := dz }
  | .imin f => chkR f (abT f.ty ints4 false)
  | .iminI f => chkI f (iT f.ty ints4)
  | .imax f => chkR f (abT f.ty ints4 false)
  | .imaxI f => chkI f (iT f.ty ints4)
  | .iabs f => chkR f { abT f.ty [.i32, .i64] true with sb := none }
  | .ineg f => chkR f { abT f.ty [.i32, .i64] true with sb := none }
  | .lea f => chkR f (ab 0x1F [.i32, .n32] false false)
  | .leaI f => chkI f (iV [.i32, .n32] false)
  | .leaw f => chkR f { ab 0x1F [.i32, .n32] false false with dst := dz, sa := dz }
  | .leawI f => chkI f { iV [.i32, .n32] false with dst := dz, sa := dz }
  -- logic, shifts, bits (08 R238)
  | .and f => chkR f (ab 0 [] false false)
  | .andI f => chkI f (iV [] false)
  | .or f => chkR f (ab 0 [] false false)
  | .orI f => chkI f (iV [] false)
  | .xor f => chkR f (ab 0 [] false false)
  | .xorI f => chkI f (iV [] false)
  | .lut3 f => chkR f (abc 0xFF [] false false)
  | .shl f => chkR f (ab 0 [] false false)
  | .shlI f => chkI f (iV [] false)
  | .shr f => chkR f (ab 0 [] false false)
  | .shrI f => chkI f (iV [] false)
  | .sar f => chkR f (ab 0 [] false false)
  | .sarI f => chkI f (iV [] false)
  | .shf f => chkR f (abc 1 [] false false)
  | .rotl f => chkR f (ab 0 [] false false)
  | .rotlI f => chkI f (iV [] false)
  | .bfe f => chkR f (ab 0 [.i32, .n32] false false)
  | .bfeI f => chkI f (iV [.i32, .n32] false)
  | .bfi f => chkR f (abc 0 [] false false)
  | .popc f => chkR f (a1 0 [] false false)
  | .clz f => chkR f (a1 0 [] false false)
  | .brev f => chkR f (a1 0 [] false false)
  | .prmt f => chkR f (abc 0 [] false false)
  -- compare, select, predicates (08 R239 to R241)
  | .isetp f => chkR f { abT f.ty ints4 false with dst := pz, mod := 0x1E0, res := cmpIntRes f.mod }
  | .isetpI f => chkI f { iT f.ty ints4 with dst := pz }
  | .isel f => chkR f { abT f.ty ints4 false with sc := pz }
  | .iselI f => chkI f (iT f.ty ints4)
  | .fsetp f => chkR f { ab 0x3FB [.f32] false false with dst := pz, res := cmpFloatRes f.mod }
  | .fsetpI f => chkI f { iV [.f32] false with dst := pz }
  | .hsetp2 f => chkR f { ab 0x1FB halves false false with dst := evenP, res := cmpFloatRes f.mod }
  | .hsetp2I f => chkI f { iV halves false with dst := evenP }
  | .plop f => chkR f { dst := pz, sa := pz, sb := pz, sc := pz, perm := false, mod := 0xFF }
  | .p2v f => chkR f { dst := vz }
  | .v2p f => chkR f { sa := vz, mod := 0x7F }
  -- f32 (08 R242)
  | .fadd f => chkR f (ab (fmod true true false true true) [.f32] true true)
  | .faddI f => chkI f (iV [.f32] true)
  | .fmul f => chkR f (ab (fmod true true false true true) [.f32] true true)
  | .fmulI f => chkI f (iV [.f32] true)
  | .ffma f => chkR f (abc (fmod true true true true true) [.f32] true true)
  | .fmin f => chkR f (ab (fmod true true false true false) [.f32] false false)
  | .fminI f => chkI f (iV [.f32] false)
  | .fmax f => chkR f (ab (fmod true true false true false) [.f32] false false)
  | .fmaxI f => chkI f (iV [.f32] false)
  | .frnd f => chkR f (a1 0x200 [.f32] true false)
  | .fclass f => chkR f (a1 0 [.f32] false false)
  | .fscale f => chkR f (ab (fmod true false false true true) [.f32] true true)
  | .fscaleI f => chkI f (iV [.f32] true)
  -- packed 16-bit (08 R244)
  | .hadd2 f => chkR f (ab (fmod true true false true true) halves true true)
  | .hadd2I f => chkI f (iV halves true)
  | .hmul2 f => chkR f (ab (fmod true true false true true) halves true true)
  | .hmul2I f => chkI f (iV halves true)
  | .hfma2 f => chkR f (abc (fmod true true true true true) halves true true)
  | .hmin2 f => chkR f (ab (fmod true true false true false) halves false false)
  | .hmin2I f => chkI f (iV halves false)
  | .hmax2 f => chkR f (ab (fmod true true false true false) halves false false)
  | .hmax2I f => chkI f (iV halves false)
  -- special functions (08 R245)
  | .rcp f => chkR f (a1 0x200 [.f32] false false)
  | .rsq f => chkR f (a1 0x200 [.f32] false false)
  | .sqrt f => chkR f (a1 0x200 [.f32] false false)
  | .ex2 f => chkR f (a1 0x200 [.f32] false false)
  | .lg2 f => chkR f (a1 0x200 [.f32] false false)
  | .sin f => chkR f (a1 0x200 [.f32] false false)
  | .cos f => chkR f (a1 0x200 [.f32] false false)
  | .tanh f => chkR f (a1 0x200 [.f32] false false)
  -- conversions (08 R246, R247)
  | .cvt f => chkR f {
      dst := opn f.ty, sa := srcOpn f.mod, tys := intsAll ++ floatsAll, rm := true, sat := true,
      mod := 0x60F, res := cvtRes f,
      acc := (isInt f.ty && srcIn f.mod intsAll) || (isFloat f.ty && srcIn f.mod floatsAll) }
  | .f2i f => chkR f {
      dst := opn f.ty, sa := srcOpn f.mod, tys := intsAll, rm := true, mod := 0x20F,
      acc := srcIn f.mod floatsAll }
  | .i2f f => chkR f {
      dst := opn f.ty, sa := srcOpn f.mod, tys := floatsAll, rm := true, sat := true, mod := 0x40F,
      acc := srcIn f.mod intsAll }
  | .pack f => chkR f { abc 0x601 packTys true true with res := packRes f }
  | .unpk f => chkR f { a1 3 packTys false false with acc := tyBytes f.ty == 1 || decide (modField f.mod 0 2 < 2) }
  -- quantisation (11 R326 to R329)
  | .qscale f => chkR f {
      dst := isV, sa := some isV, sb := if modBit f.mod 3 then some isV else none, perm := false,
      tys := qTys, mod := 0xF, res := !(modBit f.mod 2 && modField f.mod 0 2 != 0),
      acc := !(f.ty == .q8 && modField f.mod 0 2 == 3) }
  | .qnt f => chkR f { dst := isV, sa := some isV, sb := isV, sc := vMax 254, perm := false, tys := qTys, mod := 0x10 }
  | .dqnt f => chkR f { dst := isV, sa := some isV, sb := isV, perm := false, tys := qTys, mod := 0x10 }
  -- moves and group operations (08 R248 to R251)
  | .mov f => chkR f { dst := fun o => vz o || isP o, sa := some (fun o => vz o || isP o) }
  | .movi f => chkI f { dst := vz }
  | .movd f => chkR f { dst := dz, sa := some dz }
  | .rget f => chkR f { dst := vz, sa := some vz }
  | .rset f => chkR f { sa := some vz, sb := vz }
  | .vote f => chkR f { dst := if modField f.mod 0 2 == 3 then vz else pz, sa := some pz, mod := 3 }
  | .matchv f => chkR f { dst := vz, sa := some vdz }
  | .redux f => chkR f { a1 7 [.i32, .n32, .f32] true true with res := reduxRes f, acc := reduxAcc f }
  | .scan f => chkR f { a1 0xF [.i32, .n32, .f32] true true with res := reduxRes f, acc := reduxAcc f }
  | .first f => chkR f { dst := vdz, sa := some vdz, acc := sameView f }
  | .perm f => chkR f { dst := vdz, sa := some vdz, sb := vz, acc := sameView f }
  -- memory (10 R279)
  | .ld sz f => chkM f {
      dst := ldData sz, sb := some pz, asps := [.global, .pod, .acc], ords := ldOrds, ch := true,
      acc := accOk f (sz == .b32) }
  | .st sz f => chkM f {
      dst := pz, sb := some (stData sz), asps := [.global, .pod, .acc], ords := stOrds, ch := true,
      acc := accOk f (sz == .b32) }
  | .ldfrag f => chkM f { dst := isT, sb := some isV, asps := [.spad, .window], ords := allOrds }
  | .stfrag f => chkM f { dst := isV, sb := some isT, asps := [.spad, .window], ords := allOrds }
  | .pgreq f => chkM f { dst := vz, sb := some isZ, scope := false, ch := true, res := f.ch != 3 }
  | .pgprobe f => chkM f { dst := isV, sb := some isZ, scope := false }
  | .atom op f => chkM f { dst := atomDst op, sb := some (atomData op), ords := allOrds, ch := true }
  | .atoms op f => chkM f { dst := atomDst op, sb := some (atomData op), asps := [.spad, .window], ords := allOrds }
  | .red op f => chkM f {
      dst := if f.asp == .spad || f.asp == .window then isZ else pz, sb := some (atomData op),
      asps := [.global, .pod, .spad, .window], ords := stOrds, acc := op.isRed }
  | .fence f => chkM f {
      dst := isZ, sa := some isZ, sb := some isZ, asps := [.global],
      ords := [.acq, .rel, .ar, .sc], res := f.ofs == 0 }
  | .lds sz f => chkM f { dst := ldData sz, sb := some isZ, asps := [.spad], ords := allOrds }
  | .sts sz f => chkM f { dst := isZ, sb := some (stData sz), asps := [.spad], ords := allOrds }
  | .ldw sz f => chkM f { dst := ldData sz, sb := some isZ, asps := [.window], ords := allOrds }
  | .stw sz f => chkM f { dst := isZ, sb := some (stData sz), asps := [.window], ords := allOrds }
  | .stagl f => chkR f { dst := isV, sa := some isD, sb := isZ }
  | .stagi f => chkR f { dst := dz, sa := some isD, sb := isV }
  | .stagx f => chkR f { dst := vz, sa := some isD, sb := isZ }
  | .swopen f => chkR f { dst := vz, sa := some isV, sb := isV, mod := 1 }
  | .swclaim f => chkR f { dst := pz, sa := some isV }
  | .swrel f => chkR f { dst := pz, sa := some isV }
  | .smove f => chkR f { dst := vz, sa := some isD, sb := isD, sc := isD, perm := false }
  -- barriers, convergence, registers, launch (09 R263 to R278)
  | .barinit f => chkR f { dst := isZ, sa := some isV, sb := isV, mod := 1 }
  | .barinitFree f => chkR f { dst := isZ, sa := some isV, sb := isZ, mod := 2, res := modBit f.mod 1 }
  | .bararr f => chkR f { dst := if modBit f.mod 0 then isZ else vz, sa := some isV, mod := 3 }
  | .barexp f => chkR f { dst := if modBit f.mod 0 then isZ else vz, sa := some isV, sb := isV, mod := 3 }
  | .barwait f => chkR f { dst := isZ, sa := some isV, sb := isV, mod := 1 }
  | .bartest f => chkR f { dst := pz, sa := some isV, sb := isV, mod := 1 }
  | .csign f => chkR f { dst := vz, sa := some isC, perm := false }
  | .csignDecl f => chkR f {
      dst := vz, sa := some isC, sb := isV, sc := isV, perm := false, mod := 1,
      res := modBit f.mod 0 }
  | .cwait f => chkR f { sa := some isC, sb := isV, perm := false }
  | .reggrow f => chkR f { mod := 0x1FF, acc := f.mod != 0 && f.mod.toNat % 8 == 0 }
  | .regshrink f => chkR f { mod := 0x1FF, acc := f.mod != 0 && f.mod.toNat % 8 == 0 && decide (f.mod.toNat ≤ 256) }
  | .launch f => chkR f { dst := vz, sa := some isD, sb := isV }
  | .srd f => chkI f {
      dst := some (if srKnown (srNum f.imm) then srOpn (srNum f.imm) else fun _ => false),
      res := f.imm.extractLsb' 12 20 == 0 }
  | .swr f => chkI f {
      sa := some (if srWritable (srNum f.imm) then srOpn (srNum f.imm) else fun _ => false),
      res := f.imm.extractLsb' 12 20 == 0 }
  -- matrix (11 R306 to R325)
  | .mma f => chkR f { dst := isA, sa := some isT, sb := isT, tys := mmaTys, mod := 0x70F, res := doneRes f }
  | .mmaq f => chkR f {
      dst := isA, sa := some isT, sb := isT, sc := vMax 252, tys := qTys, mod := 0x7FF,
      res := doneRes f,
      acc := decide (modField f.mod 4 2 + nblocks f.ty ≤ 4) && decide (modField f.mod 6 2 + nblocks f.ty ≤ 4) }
  | .mxout f => chkR f {
      dst := isA, sa := some isT, sb := vMax 252, sc := if qTys.contains f.ty then some isV else none,
      tys := mmaTys ++ qTys, mod := if qTys.contains f.ty then 3 else 0,
      acc := !qTys.contains f.ty || decide (modField f.mod 0 2 + nblocks f.ty ≤ 4) }
  | .mzero f => chkR f { dst := isA }
  | .mlda f => chkR f { dst := isA, sa := some isV, sb := isV, perm := false, tys := [.f32, .f16, .bf16] }
  | .mrda f => chkR f {
      dst := isT, sa := some isA, tys := floatsAll, rm := true, sat := true, mod := 0x603,
      acc := cqAcc f }
  | .mwra f => chkR f {
      dst := isA, sa := some isT, tys := floatsAll, mod := 0x603,
      acc := cqAcc f && !modBit f.mod 9 && !modBit f.mod 10 }
  | .mdrain f => chkR f {
      dst := pz, sa := some (if modBit f.mod 0 then isD else isV), sb := isV, sc := isA, perm := false,
      tys := [.f32, .bf16, .e4m3], rm := true, sat := true, mod := 0x401 }
  | .mdrainTq f => chkR f {
      dst := pz, sa := some (if modBit f.mod 0 then isD else isV), sb := vMax 248, sc := isA,
      perm := false, tys := [.f32, .bf16, .e4m3], rm := true, sat := true, mod := 0x47F,
      res := !(modBit f.mod 4 && modField f.mod 2 2 != 0), acc := !(modBit f.mod 1 && modField f.mod 2 2 == 3) }
  -- engines and fabric (12)
  | .tcopy f => chkX f { dst := dz, mod := 0xF }
  | .tgather f => chkX f { dst := dz, sb := isV, mod := 0xF }
  | .tchain f => chkR f { dst := vz, sa := some isD, sb := vz, perm := false }
  | .tcancel f => chkR f { dst := vz, sb := vz, mod := 3, res := modField f.mod 0 2 != 3 }
  | .tstat f => chkR f { dst := isD, sb := vz, mod := 1 }
  | .coll f => chkR f { dst := vz, sa := some isD }
  | .fsend f => chkX f { dst := dz, sa := some isV, sb := isV, mod := 7 }
  | .fpost f => chkR f { dst := vz, sa := some isD, sb := isV }
  | .flogpop f => chkR f { dst := if modBit f.mod 0 then dz else isD, sa := some isV, mod := 1 }
  | .stm sz f => chkM f { dst := isV, sb := some (stData sz), asps := [.global], ords := stOrds }
  | .ldx _ f => chkM f { dst := isV, sb := some isV, asps := [.global], ords := ldOrds, ch := true }
  -- cache maintenance (10 R295 to R299)
  | .prefetch f => chkM f { dst := isZ, sb := some isZ, scope := false, ch := true }
  | .cflush f => chkM f { dst := isZ, sb := some isZ }
  | .cinval f => chkM f { dst := isZ, sb := some isZ }
  | .pvfl f => chkM f { dst := vz, sb := some isV, asps := [.global], scope := false }
  | .woclr f => chkM f { dst := vz, sb := some isV, asps := [.global], scope := false }
  -- events of the module have no encoding
  | .nopCmd .. | .launchPacket .. | .vcCreate .. | .vcDestroy .. | .vcQos .. | .map .. | .shoot .. | .pageReply ..
  | .eventArm .. | .ckpt .. | .restore .. | .counterAcq .. | .routeLoad .. | .guestPause .. | .guestResume ..
  | .vcMigrate .. | .placeLoad .. | .getver .. | .setver .. | .attest .. | .dbgcmdStop .. | .dbgcmdResume ..
  | .dbgcmdResumeNext .. | .dbgcmdStep .. | .dbgcmdDetach .. | .queueTailWrite .. | .queueDescriptorReset ..
  | .armWrite .. | .rtailWrite .. | .registerWindowWrite .. | .watchpointWrite .. | .counterSelectWrite ..
  | .registerWrite .. | .powerGood .. | .powerLimitWindow .. | .issueSlotPick .. | .scoreboardDecrement ..
  | .dispatchPlacement .. | .launchAcceptance .. | .reggrowGrant .. | .sleepWake .. | .parkThresholdExpiry ..
  | .teamPark .. | .teamWake .. | .teamEnd .. | .translationWalk .. | .storeAccept .. | .readService ..
  | .accessAnswer .. | .leaseSweep .. | .wcbAgeExpiry .. | .shootDieAck .. | .shootTimeout .. | .jobStart ..
  | .boxRow .. | .jobEnd .. | .chainRecordRead .. | .collCardStart .. | .collChunkLanding .. | .collCardEnd ..
  | .matrixGrant .. | .matrixRequestApplied .. | .mdrainWritesDone .. | .smoveAcceptance .. | .smoveEnd ..
  | .windowBarrierUpdate .. | .serviceReply .. | .linkAck .. | .resendTimeout .. | .linkTraining .. | .loadPacket ..
  | .loadRsp .. | .storePacket .. | .storeAck .. | .atomic .. | .atomicRsp .. | .msgReq .. | .msgData .. | .token ..
  | .defer .. | .resume .. | .nak .. | .nakRetry .. | .error .. | .preq .. | .tokenIssue .. | .tokenExpiry ..
  | .orphanTimeout .. | .linkRekey .. | .heartbeatLoss .. | .timeSyncExchange .. | .timeLost ..
  | .guestPauseComplete .. | .migrationComplete .. | .checkpointComplete .. | .sliceBoundary .. | .drainBoundExpiry ..
  | .coschedHint .. | .channelRetirement .. | .clusterRetirement .. | .stopDump .. | .tdispMessage ..
  | .functionReset .. | .powerCommand .. | .powerOff .. | .storeDropped .. => .ok

end Sys2Proof.Accept
end

