-- ==== Sys2Proof/WellFormed.lean ====
section
/-! DEFINITION. Well-formed instructions: those that the decode checks 6 and 7 of Table 6.15 accept (06 R203). The
acceptance tables are in Machine/Accept.lean. -/

namespace Sys2Proof

/-- An instruction that passes checks 6 and 7 of Table 6.15. -/
def Instr.WellFormed (i : Instr) : Bool := Accept.check i == .ok

end Sys2Proof
end

