-- ==== Sys2Proof/Decode.lean ====
section
/-! DEFINITION. The decoder of an instruction word and its record slots (06 R188 to R195, R201 to R203), the encoder
written from the same tables, and the fetch line (06 R180 to R183). -/

namespace Sys2Proof

/-- The four formats of an instruction word (06 R191 to R195). -/
inductive Form where
  | r (f : FmtR)
  | i (f : FmtI)
  | m (f : FmtM)
  | x (f : FmtX)
  deriving DecidableEq, Repr

/-- The causes that decoding raises (06 R203). -/
inductive DecodeTrap where
  | reservedBits
  | illegalOp
  deriving DecidableEq, Repr

/-! ### The opcode map -/

/-- Major opcode, function and format of an instruction (Tables 6.12 to 6.14); `none` for an event of the module. -/
def Instr.form (i : Instr) : Option (BitVec 8 × BitVec 4 × Form) :=
  match i with
  | .nop f => some (0x00#8, 0#4, .r f)
  | .bra f => some (0x01#8, 0#4, .i f)
  | .brx f => some (0x02#8, 0#4, .r f)
  | .call f => some (0x03#8, 0#4, .i f)
  | .callx f => some (0x04#8, 0#4, .r f)
  | .ret f => some (0x05#8, 0#4, .r f)
  | .exit f => some (0x06#8, 0#4, .r f)
  | .trapSvc f => some (0x07#8, 0#4, .i f)
  | .trapBkpt f => some (0x07#8, 1#4, .i f)
  | .trapSys f => some (0x07#8, 2#4, .i f)
  | .rtt f => some (0x08#8, 0#4, .r f)
  | .region f => some (0x09#8, 0#4, .r f)
  | .yield f => some (0x0A#8, 0#4, .r f)
  | .sleept f => some (0x0B#8, 0#4, .r f)
  | .iadd f => some (0x10#8, 0#4, .r f)
  | .iaddI f => some (0x10#8, 8#4, .i f)
  | .iadd3 f => some (0x11#8, 0#4, .r f)
  | .isub f => some (0x12#8, 0#4, .r f)
  | .isubI f => some (0x12#8, 8#4, .i f)
  | .imul f => some (0x13#8, 0#4, .r f)
  | .imulI f => some (0x13#8, 8#4, .i f)
  | .imulh f => some (0x14#8, 0#4, .r f)
  | .imulhI f => some (0x14#8, 8#4, .i f)
  | .imad f => some (0x15#8, 0#4, .r f)
  | .imadw f => some (0x16#8, 0#4, .r f)
  | .imin f => some (0x17#8, 0#4, .r f)
  | .iminI f => some (0x17#8, 8#4, .i f)
  | .imax f => some (0x18#8, 0#4, .r f)
  | .imaxI f => some (0x18#8, 8#4, .i f)
  | .iabs f => some (0x19#8, 0#4, .r f)
  | .ineg f => some (0x1A#8, 0#4, .r f)
  | .lea f => some (0x1B#8, 0#4, .r f)
  | .leaI f => some (0x1B#8, 8#4, .i f)
  | .leaw f => some (0x1C#8, 0#4, .r f)
  | .leawI f => some (0x1C#8, 8#4, .i f)
  | .and f => some (0x20#8, 0#4, .r f)
  | .andI f => some (0x20#8, 8#4, .i f)
  | .or f => some (0x21#8, 0#4, .r f)
  | .orI f => some (0x21#8, 8#4, .i f)
  | .xor f => some (0x22#8, 0#4, .r f)
  | .xorI f => some (0x22#8, 8#4, .i f)
  | .lut3 f => some (0x23#8, 0#4, .r f)
  | .shl f => some (0x24#8, 0#4, .r f)
  | .shlI f => some (0x24#8, 8#4, .i f)
  | .shr f => some (0x25#8, 0#4, .r f)
  | .shrI f => some (0x25#8, 8#4, .i f)
  | .sar f => some (0x26#8, 0#4, .r f)
  | .sarI f => some (0x26#8, 8#4, .i f)
  | .shf f => some (0x27#8, 0#4, .r f)
  | .rotl f => some (0x28#8, 0#4, .r f)
  | .rotlI f => some (0x28#8, 8#4, .i f)
  | .bfe f => some (0x29#8, 0#4, .r f)
  | .bfeI f => some (0x29#8, 8#4, .i f)
  | .bfi f => some (0x2A#8, 0#4, .r f)
  | .popc f => some (0x2B#8, 0#4, .r f)
  | .clz f => some (0x2C#8, 0#4, .r f)
  | .brev f => some (0x2D#8, 0#4, .r f)
  | .prmt f => some (0x2E#8, 0#4, .r f)
  | .isetp f => some (0x30#8, 0#4, .r f)
  | .isetpI f => some (0x30#8, 8#4, .i f)
  | .isel f => some (0x31#8, 0#4, .r f)
  | .iselI f => some (0x31#8, 8#4, .i f)
  | .fsetp f => some (0x32#8, 0#4, .r f)
  | .fsetpI f => some (0x32#8, 8#4, .i f)
  | .hsetp2 f => some (0x33#8, 0#4, .r f)
  | .hsetp2I f => some (0x33#8, 8#4, .i f)
  | .plop f => some (0x34#8, 0#4, .r f)
  | .p2v f => some (0x35#8, 0#4, .r f)
  | .v2p f => some (0x36#8, 0#4, .r f)
  | .fadd f => some (0x40#8, 0#4, .r f)
  | .faddI f => some (0x40#8, 8#4, .i f)
  | .fmul f => some (0x41#8, 0#4, .r f)
  | .fmulI f => some (0x41#8, 8#4, .i f)
  | .ffma f => some (0x42#8, 0#4, .r f)
  | .fmin f => some (0x43#8, 0#4, .r f)
  | .fminI f => some (0x43#8, 8#4, .i f)
  | .fmax f => some (0x44#8, 0#4, .r f)
  | .fmaxI f => some (0x44#8, 8#4, .i f)
  | .frnd f => some (0x45#8, 0#4, .r f)
  | .fclass f => some (0x46#8, 0#4, .r f)
  | .fscale f => some (0x47#8, 0#4, .r f)
  | .fscaleI f => some (0x47#8, 8#4, .i f)
  | .hadd2 f => some (0x50#8, 0#4, .r f)
  | .hadd2I f => some (0x50#8, 8#4, .i f)
  | .hmul2 f => some (0x51#8, 0#4, .r f)
  | .hmul2I f => some (0x51#8, 8#4, .i f)
  | .hfma2 f => some (0x52#8, 0#4, .r f)
  | .hmin2 f => some (0x53#8, 0#4, .r f)
  | .hmin2I f => some (0x53#8, 8#4, .i f)
  | .hmax2 f => some (0x54#8, 0#4, .r f)
  | .hmax2I f => some (0x54#8, 8#4, .i f)
  | .cvt f => some (0x58#8, 0#4, .r f)
  | .f2i f => some (0x59#8, 0#4, .r f)
  | .i2f f => some (0x5A#8, 0#4, .r f)
  | .pack f => some (0x5B#8, 0#4, .r f)
  | .unpk f => some (0x5C#8, 0#4, .r f)
  | .rcp f => some (0x60#8, 0#4, .r f)
  | .rsq f => some (0x60#8, 1#4, .r f)
  | .sqrt f => some (0x60#8, 2#4, .r f)
  | .ex2 f => some (0x60#8, 3#4, .r f)
  | .lg2 f => some (0x60#8, 4#4, .r f)
  | .sin f => some (0x60#8, 5#4, .r f)
  | .cos f => some (0x60#8, 6#4, .r f)
  | .tanh f => some (0x60#8, 7#4, .r f)
  | .qscale f => some (0x70#8, 0#4, .r f)
  | .qnt f => some (0x71#8, 0#4, .r f)
  | .dqnt f => some (0x72#8, 0#4, .r f)
  | .mov f => some (0x80#8, 0#4, .r f)
  | .movi f => some (0x81#8, 0#4, .i f)
  | .movd f => some (0x82#8, 0#4, .r f)
  | .rget f => some (0x83#8, 0#4, .r f)
  | .rset f => some (0x84#8, 0#4, .r f)
  | .vote f => some (0x88#8, 0#4, .r f)
  | .matchv f => some (0x89#8, 0#4, .r f)
  | .redux f => some (0x8A#8, 0#4, .r f)
  | .scan f => some (0x8B#8, 0#4, .r f)
  | .first f => some (0x8C#8, 0#4, .r f)
  | .perm f => some (0x8D#8, 0#4, .r f)
  | .ld k f => some (0x90#8, k.code, .m f)
  | .st k f => some (0x91#8, k.code, .m f)
  | .ldfrag f => some (0x92#8, 0#4, .m f)
  | .stfrag f => some (0x93#8, 0#4, .m f)
  | .pgreq f => some (0x94#8, 0#4, .m f)
  | .pgprobe f => some (0x95#8, 0#4, .m f)
  | .atom k f => some (0xA0#8, k.code, .m f)
  | .atoms k f => some (0xA1#8, k.code, .m f)
  | .red k f => some (0xA2#8, k.code, .m f)
  | .fence f => some (0xA3#8, 0#4, .m f)
  | .lds k f => some (0xB0#8, k.code, .m f)
  | .sts k f => some (0xB1#8, k.code, .m f)
  | .ldw k f => some (0xB2#8, k.code, .m f)
  | .stw k f => some (0xB3#8, k.code, .m f)
  | .stagl f => some (0xB4#8, 0#4, .r f)
  | .stagi f => some (0xB5#8, 0#4, .r f)
  | .stagx f => some (0xB6#8, 0#4, .r f)
  | .swopen f => some (0xB7#8, 0#4, .r f)
  | .swclaim f => some (0xB8#8, 0#4, .r f)
  | .swrel f => some (0xB9#8, 0#4, .r f)
  | .smove f => some (0xBA#8, 0#4, .r f)
  | .barinit f => some (0xC0#8, 0#4, .r f)
  | .barinitFree f => some (0xC0#8, 0#4, .r f)
  | .bararr f => some (0xC1#8, 0#4, .r f)
  | .barexp f => some (0xC2#8, 0#4, .r f)
  | .barwait f => some (0xC3#8, 0#4, .r f)
  | .bartest f => some (0xC4#8, 0#4, .r f)
  | .csign f => some (0xC5#8, 0#4, .r f)
  | .csignDecl f => some (0xC5#8, 0#4, .r f)
  | .cwait f => some (0xC6#8, 0#4, .r f)
  | .reggrow f => some (0xC7#8, 0#4, .r f)
  | .regshrink f => some (0xC8#8, 0#4, .r f)
  | .launch f => some (0xC9#8, 0#4, .r f)
  | .srd f => some (0xCA#8, 0#4, .i f)
  | .swr f => some (0xCB#8, 0#4, .i f)
  | .mma f => some (0xD0#8, 0#4, .r f)
  | .mmaq f => some (0xD1#8, 0#4, .r f)
  | .mxout f => some (0xD2#8, 0#4, .r f)
  | .mzero f => some (0xD3#8, 0#4, .r f)
  | .mlda f => some (0xD4#8, 0#4, .r f)
  | .mrda f => some (0xD5#8, 0#4, .r f)
  | .mwra f => some (0xD6#8, 0#4, .r f)
  | .mdrain f => some (0xD7#8, 0#4, .r f)
  | .mdrainTq f => some (0xD7#8, 1#4, .r f)
  | .tcopy f => some (0xE0#8, 0#4, .x f)
  | .tgather f => some (0xE1#8, 0#4, .x f)
  | .tchain f => some (0xE2#8, 0#4, .r f)
  | .tcancel f => some (0xE3#8, 0#4, .r f)
  | .tstat f => some (0xE4#8, 0#4, .r f)
  | .coll f => some (0xE5#8, 0#4, .r f)
  | .fsend f => some (0xE6#8, 0#4, .x f)
  | .fpost f => some (0xE7#8, 0#4, .r f)
  | .flogpop f => some (0xE8#8, 0#4, .r f)
  | .stm k f => some (0xE9#8, k.code, .m f)
  | .ldx k f => some (0xEA#8, k.code, .m f)
  | .prefetch f => some (0xF0#8, 0#4, .m f)
  | .cflush f => some (0xF1#8, 0#4, .m f)
  | .cinval f => some (0xF2#8, 0#4, .m f)
  | .pvfl f => some (0xF3#8, 0#4, .m f)
  | .woclr f => some (0xF4#8, 0#4, .m f)
  | .nopCmd .. | .launchPacket .. | .vcCreate .. | .vcDestroy .. | .vcQos .. | .map .. | .shoot .. | .pageReply ..
  | .eventArm .. | .ckpt .. | .restore .. | .counterAcq .. | .routeLoad .. | .guestPause .. | .guestResume ..
  | .vcMigrate .. | .placeLoad .. | .getver .. | .setver .. | .attest .. | .dbgcmdStop .. | .dbgcmdResume ..
  | .dbgcmdResumeNext .. | .dbgcmdStep .. | .dbgcmdDetach .. | .queueTailWrite .. | .queueDescriptorReset ..
  | .armWrite .. | .rtailWrite .. | .registerWindowWrite .. | .watchpointWrite .. | .counterSelectWrite ..
  | .registerWrite .. | .powerGood .. | .powerLimitWindow .. | .issueSlotPick .. | .scoreboardDecrement ..
  | .dispatchPlacement .. | .launchAcceptance .. | .reggrowGrant .. | .sleepWake .. | .parkThresholdExpiry ..
  | .teamPark .. | .teamWake .. | .teamEnd .. | .translationWalk .. | .storeAccept .. | .readService ..
  | .accessAnswer .. | .leaseSweep .. | .wcbAgeExpiry .. | .shootDieAck .. | .shootTimeout .. | .jobStart ..
  | .boxRow .. | .jobEnd .. | .chainRecordRead .. | .collCardStart .. | .collChunkLanding .. | .collCardEnd ..
  | .matrixGrant .. | .matrixRequestApplied .. | .mdrainWritesDone .. | .smoveAcceptance .. | .smoveEnd ..
  | .windowBarrierUpdate .. | .serviceReply .. | .linkAck .. | .resendTimeout .. | .linkTraining .. | .loadPacket ..
  | .loadRsp .. | .storePacket .. | .storeAck .. | .atomic .. | .atomicRsp .. | .msgReq .. | .msgData .. | .token ..
  | .defer .. | .resume .. | .nak .. | .nakRetry .. | .error .. | .preq .. | .tokenIssue .. | .tokenExpiry ..
  | .orphanTimeout .. | .linkRekey .. | .heartbeatLoss .. | .timeSyncExchange .. | .timeLost ..
  | .guestPauseComplete .. | .migrationComplete .. | .checkpointComplete .. | .sliceBoundary .. | .drainBoundExpiry ..
  | .coschedHint .. | .channelRetirement .. | .clusterRetirement .. | .stopDump .. | .tdispMessage ..
  | .functionReset .. | .powerCommand .. | .powerOff .. | .storeDropped .. => none

/-- What an opcode and function build: a constructor over its format. -/
inductive Builder where
  | r (mk : FmtR → Instr)
  | i (mk : FmtI → Instr)
  | m (mk : FmtM → Instr)
  | x (mk : FmtX → Instr)

/-- BARINIT and BARINIT.free share OP and FN; MOD[1] tells them apart (Table 9.4). -/
def mkBarinit (f : FmtR) : Instr := if modBit f.mod 1 then .barinitFree f else .barinit f
/-- CSIGN and CSIGN.decl share OP and FN; MOD[0] tells them apart (09 R272). -/
def mkCsign (f : FmtR) : Instr := if modBit f.mod 0 then .csignDecl f else .csign f

/-- An opcode that defines FN 0 alone. -/
def only0 (fn : BitVec 4) (b : Builder) : Option Builder := if fn = 0 then some b else none
/-- An opcode marked "R or I": FN 0 selects format R and FN 8 format I (06 R202). -/
def regImm (fn : BitVec 4) (r : FmtR → Instr) (i : FmtI → Instr) : Option Builder :=
  if fn = 0 then some (.r r) else if fn = 8 then some (.i i) else none

/-- Tables 6.12 and 6.13: `none` is an unassigned OP or an FN that is not defined for it. -/
def builder (op : BitVec 8) (fn : BitVec 4) : Option Builder :=
  match op.toNat with
  | 0x00 => only0 fn (.r .nop)
  | 0x01 => only0 fn (.i .bra)
  | 0x02 => only0 fn (.r .brx)
  | 0x03 => only0 fn (.i .call)
  | 0x04 => only0 fn (.r .callx)
  | 0x05 => only0 fn (.r .ret)
  | 0x06 => only0 fn (.r .exit)
  | 0x07 =>
    match fn.toNat with
    | 0 => some (.i .trapSvc)
    | 1 => some (.i .trapBkpt)
    | 2 => some (.i .trapSys)
    | _ => none
  | 0x08 => only0 fn (.r .rtt)
  | 0x09 => only0 fn (.r .region)
  | 0x0A => only0 fn (.r .yield)
  | 0x0B => only0 fn (.r .sleept)
  | 0x10 => regImm fn .iadd .iaddI
  | 0x11 => only0 fn (.r .iadd3)
  | 0x12 => regImm fn .isub .isubI
  | 0x13 => regImm fn .imul .imulI
  | 0x14 => regImm fn .imulh .imulhI
  | 0x15 => only0 fn (.r .imad)
  | 0x16 => only0 fn (.r .imadw)
  | 0x17 => regImm fn .imin .iminI
  | 0x18 => regImm fn .imax .imaxI
  | 0x19 => only0 fn (.r .iabs)
  | 0x1A => only0 fn (.r .ineg)
  | 0x1B => regImm fn .lea .leaI
  | 0x1C => regImm fn .leaw .leawI
  | 0x20 => regImm fn .and .andI
  | 0x21 => regImm fn .or .orI
  | 0x22 => regImm fn .xor .xorI
  | 0x23 => only0 fn (.r .lut3)
  | 0x24 => regImm fn .shl .shlI
  | 0x25 => regImm fn .shr .shrI
  | 0x26 => regImm fn .sar .sarI
  | 0x27 => only0 fn (.r .shf)
  | 0x28 => regImm fn .rotl .rotlI
  | 0x29 => regImm fn .bfe .bfeI
  | 0x2A => only0 fn (.r .bfi)
  | 0x2B => only0 fn (.r .popc)
  | 0x2C => only0 fn (.r .clz)
  | 0x2D => only0 fn (.r .brev)
  | 0x2E => only0 fn (.r .prmt)
  | 0x30 => regImm fn .isetp .isetpI
  | 0x31 => regImm fn .isel .iselI
  | 0x32 => regImm fn .fsetp .fsetpI
  | 0x33 => regImm fn .hsetp2 .hsetp2I
  | 0x34 => only0 fn (.r .plop)
  | 0x35 => only0 fn (.r .p2v)
  | 0x36 => only0 fn (.r .v2p)
  | 0x40 => regImm fn .fadd .faddI
  | 0x41 => regImm fn .fmul .fmulI
  | 0x42 => only0 fn (.r .ffma)
  | 0x43 => regImm fn .fmin .fminI
  | 0x44 => regImm fn .fmax .fmaxI
  | 0x45 => only0 fn (.r .frnd)
  | 0x46 => only0 fn (.r .fclass)
  | 0x47 => regImm fn .fscale .fscaleI
  | 0x50 => regImm fn .hadd2 .hadd2I
  | 0x51 => regImm fn .hmul2 .hmul2I
  | 0x52 => only0 fn (.r .hfma2)
  | 0x53 => regImm fn .hmin2 .hmin2I
  | 0x54 => regImm fn .hmax2 .hmax2I
  | 0x58 => only0 fn (.r .cvt)
  | 0x59 => only0 fn (.r .f2i)
  | 0x5A => only0 fn (.r .i2f)
  | 0x5B => only0 fn (.r .pack)
  | 0x5C => only0 fn (.r .unpk)
  | 0x60 =>
    match fn.toNat with
    | 0 => some (.r .rcp)
    | 1 => some (.r .rsq)
    | 2 => some (.r .sqrt)
    | 3 => some (.r .ex2)
    | 4 => some (.r .lg2)
    | 5 => some (.r .sin)
    | 6 => some (.r .cos)
    | 7 => some (.r .tanh)
    | _ => none
  | 0x70 => only0 fn (.r .qscale)
  | 0x71 => only0 fn (.r .qnt)
  | 0x72 => only0 fn (.r .dqnt)
  | 0x80 => only0 fn (.r .mov)
  | 0x81 => only0 fn (.i .movi)
  | 0x82 => only0 fn (.r .movd)
  | 0x83 => only0 fn (.r .rget)
  | 0x84 => only0 fn (.r .rset)
  | 0x88 => only0 fn (.r .vote)
  | 0x89 => only0 fn (.r .matchv)
  | 0x8A => only0 fn (.r .redux)
  | 0x8B => only0 fn (.r .scan)
  | 0x8C => only0 fn (.r .first)
  | 0x8D => only0 fn (.r .perm)
  | 0x90 => (LdSize.ofCode fn).map fun k => .m (.ld k)
  | 0x91 => (StSize.ofCode fn).map fun k => .m (.st k)
  | 0x92 => only0 fn (.m .ldfrag)
  | 0x93 => only0 fn (.m .stfrag)
  | 0x94 => only0 fn (.m .pgreq)
  | 0x95 => only0 fn (.m .pgprobe)
  | 0xA0 => (AtomOp.ofCode fn).map fun k => .m (.atom k)
  | 0xA1 => (AtomOp.ofCode fn).map fun k => .m (.atoms k)
  | 0xA2 => (AtomOp.ofCode fn).bind fun k => if k.isRed then some (.m (.red k)) else none
  | 0xA3 => only0 fn (.m .fence)
  | 0xB0 => (LdSize.ofCode fn).map fun k => .m (.lds k)
  | 0xB1 => (StSize.ofCode fn).map fun k => .m (.sts k)
  | 0xB2 => (LdSize.ofCode fn).map fun k => .m (.ldw k)
  | 0xB3 => (StSize.ofCode fn).map fun k => .m (.stw k)
  | 0xB4 => only0 fn (.r .stagl)
  | 0xB5 => only0 fn (.r .stagi)
  | 0xB6 => only0 fn (.r .stagx)
  | 0xB7 => only0 fn (.r .swopen)
  | 0xB8 => only0 fn (.r .swclaim)
  | 0xB9 => only0 fn (.r .swrel)
  | 0xBA => only0 fn (.r .smove)
  | 0xC0 => only0 fn (.r mkBarinit)
  | 0xC1 => only0 fn (.r .bararr)
  | 0xC2 => only0 fn (.r .barexp)
  | 0xC3 => only0 fn (.r .barwait)
  | 0xC4 => only0 fn (.r .bartest)
  | 0xC5 => only0 fn (.r mkCsign)
  | 0xC6 => only0 fn (.r .cwait)
  | 0xC7 => only0 fn (.r .reggrow)
  | 0xC8 => only0 fn (.r .regshrink)
  | 0xC9 => only0 fn (.r .launch)
  | 0xCA => only0 fn (.i .srd)
  | 0xCB => only0 fn (.i .swr)
  | 0xD0 => only0 fn (.r .mma)
  | 0xD1 => only0 fn (.r .mmaq)
  | 0xD2 => only0 fn (.r .mxout)
  | 0xD3 => only0 fn (.r .mzero)
  | 0xD4 => only0 fn (.r .mlda)
  | 0xD5 => only0 fn (.r .mrda)
  | 0xD6 => only0 fn (.r .mwra)
  | 0xD7 =>
    match fn.toNat with
    | 0 => some (.r .mdrain)
    | 1 => some (.r .mdrainTq)
    | _ => none
  | 0xE0 => only0 fn (.x .tcopy)
  | 0xE1 => only0 fn (.x .tgather)
  | 0xE2 => only0 fn (.r .tchain)
  | 0xE3 => only0 fn (.r .tcancel)
  | 0xE4 => only0 fn (.r .tstat)
  | 0xE5 => only0 fn (.r .coll)
  | 0xE6 => only0 fn (.x .fsend)
  | 0xE7 => only0 fn (.r .fpost)
  | 0xE8 => only0 fn (.r .flogpop)
  | 0xE9 => (StSize.ofCode fn).map fun k => .m (.stm k)
  | 0xEA => (LdxOp.ofCode fn).map fun k => .m (.ldx k)
  | 0xF0 => only0 fn (.m .prefetch)
  | 0xF1 => only0 fn (.m .cflush)
  | 0xF2 => only0 fn (.m .cinval)
  | 0xF3 => only0 fn (.m .pvfl)
  | 0xF4 => only0 fn (.m .woclr)
  | _ => none

/-- An opcode of format X (Table 6.13). -/
def isFormatX (op : BitVec 8) : Bool := op == 0xE0 || op == 0xE1 || op == 0xE6

/-! ### Packing -/

/-- W[95:56], Table 6.4. -/
def packCommon (op : BitVec 8) (fn : BitVec 4) (s : Sched) (dst : Opd) : BitVec 40 :=
  op ++ fn ++ s.stall ++ BitVec.ofBool s.fin ++ s.pg ++ BitVec.ofBool s.pn ++ s.set ++ s.wait ++ dst.code

/-- Format R, Table 6.7. -/
def FmtR.pack (op : BitVec 8) (fn : BitVec 4) (f : FmtR) : IWord :=
  packCommon op fn f.sched f.dst ++ f.sa.code ++ f.perm.code ++ f.sb.code ++ f.sc.code ++ f.ty.code ++ f.rm.code
    ++ BitVec.ofBool f.sat ++ f.mod

/-- Format I, Table 6.9. -/
def FmtI.pack (op : BitVec 8) (fn : BitVec 4) (f : FmtI) : IWord :=
  packCommon op fn f.sched f.dst ++ f.sa.code ++ f.perm.code ++ f.imm ++ f.ty.code ++ f.rm.code

/-- Format M, Table 6.10. -/
def FmtM.pack (op : BitVec 8) (fn : BitVec 4) (f : FmtM) : IWord :=
  packCommon op fn f.sched f.dst ++ f.sa.code ++ f.scope.code ++ f.ord.code ++ f.ch ++ f.sb.code ++ f.ofs ++ f.asp.code

/-- Tensor shape record, Table 12.1. -/
def Shape.pack (s : Shape) : Record :=
  0#13 ++ s.mark ++ s.swz ++ s.bar ++ s.dst ++ s.org3 ++ s.org2 ++ s.org1 ++ s.org0 ++ s.box3 ++ s.box2 ++ s.box1
    ++ s.box0 ++ s.stride3 ++ s.extent3 ++ s.stride2 ++ s.extent2 ++ s.stride1 ++ s.extent1 ++ s.extent0 ++ s.rank
    ++ s.dtype ++ s.base

/-! ### Unpacking -/

/-- The scheduling and guard fields, Table 6.4. -/
def Sched.ofWord (w : IWord) : Sched :=
  { stall := w.extractLsb' 80 4, fin := w.extractLsb' 79 1 == 1, pg := w.extractLsb' 76 3,
    pn := w.extractLsb' 75 1 == 1, set := w.extractLsb' 72 3, wait := w.extractLsb' 66 6 }

/-- Format R; `none` at a reserved operand, permutation or type code. -/
def FmtR.ofWord (w : IWord) : Option FmtR :=
  match Opd.ofCode (w.extractLsb' 56 10), Opd.ofCode (w.extractLsb' 46 10), Perm.ofCode (w.extractLsb' 38 8),
    Opd.ofCode (w.extractLsb' 28 10), Opd.ofCode (w.extractLsb' 18 10), Ty.ofCode (w.extractLsb' 14 4) with
  | some dst, some sa, some perm, some sb, some sc, some ty =>
    some { sched := Sched.ofWord w, dst := dst, sa := sa, perm := perm, sb := sb, sc := sc, ty := ty,
           rm := Rm.ofCode (w.extractLsb' 12 2), sat := w.extractLsb' 11 1 == 1, mod := w.extractLsb' 0 11 }
  | _, _, _, _, _, _ => none

/-- Format I; `none` at a reserved operand, permutation or type code. -/
def FmtI.ofWord (w : IWord) : Option FmtI :=
  match Opd.ofCode (w.extractLsb' 56 10), Opd.ofCode (w.extractLsb' 46 10), Perm.ofCode (w.extractLsb' 38 8),
    Ty.ofCode (w.extractLsb' 2 4) with
  | some dst, some sa, some perm, some ty =>
    some { sched := Sched.ofWord w, dst := dst, sa := sa, perm := perm, imm := w.extractLsb' 6 32, ty := ty,
           rm := Rm.ofCode (w.extractLsb' 0 2) }
  | _, _, _, _ => none

/-- Format M, after check 5 has read SCOPE, ORD and ASP; `none` at a reserved operand code. -/
def FmtM.ofWord (w : IWord) (scope : Scope) (ord : Ord) (asp : Asp) : Option FmtM :=
  match Opd.ofCode (w.extractLsb' 56 10), Opd.ofCode (w.extractLsb' 46 10), Opd.ofCode (w.extractLsb' 28 10) with
  | some dst, some sa, some sb =>
    some { sched := Sched.ofWord w, dst := dst, sa := sa, scope := scope, ord := ord, ch := w.extractLsb' 38 2,
           sb := sb, ofs := w.extractLsb' 4 24, asp := asp }
  | _, _, _ => none

/-- A tensor shape record; `none` when a reserved bit [383:371] is set. -/
def Shape.ofRecord (r : Record) : Option Shape :=
  if r.extractLsb' 371 13 = 0 then
    some { mark := r.extractLsb' 363 8, swz := r.extractLsb' 360 3, bar := r.extractLsb' 344 16,
           dst := r.extractLsb' 324 20, org3 := r.extractLsb' 316 8, org2 := r.extractLsb' 308 8,
           org1 := r.extractLsb' 300 8, org0 := r.extractLsb' 292 8, box3 := r.extractLsb' 282 10,
           box2 := r.extractLsb' 272 10, box1 := r.extractLsb' 262 10, box0 := r.extractLsb' 252 10,
           stride3 := r.extractLsb' 216 36, extent3 := r.extractLsb' 196 20, stride2 := r.extractLsb' 160 36,
           extent2 := r.extractLsb' 140 20, stride1 := r.extractLsb' 104 36, extent1 := r.extractLsb' 84 20,
           extent0 := r.extractLsb' 64 20, rank := r.extractLsb' 62 2, dtype := r.extractLsb' 57 5,
           base := r.extractLsb' 0 57 }
  else none

/-! ### Decode and encode -/

/-- Checks 6 and 7 on a parsed instruction; a parse that met a reserved code is check 6. -/
def checked (i : Option Instr) : Except DecodeTrap Instr :=
  match i with
  | none => .error .reservedBits
  | some i =>
    match Accept.check i with
    | .ok => .ok i
    | .reserved => .error .reservedBits
    | .illegal => .error .illegalOp

/-- Checks 3 to 7 of Table 6.15, in order (06 R203). `rec` holds the record slots of a format-X instruction and is
ignored by every other format. -/
def decode (w : IWord) (rec : Record) : Except DecodeTrap Instr :=
  match builder (w.extractLsb' 88 8) (w.extractLsb' 84 4) with
  | none => .error .illegalOp
  | some (.r mk) => checked ((FmtR.ofWord w).map mk)
  | some (.i mk) => checked ((FmtI.ofWord w).map mk)
  | some (.m mk) =>
    match Scope.ofCode (w.extractLsb' 43 3), Ord.ofCode (w.extractLsb' 40 3), Asp.ofCode (w.extractLsb' 0 4) with
    | some sc, some o, some a => checked ((FmtM.ofWord w sc o a).map mk)
    | _, _, _ => .error .illegalOp
  | some (.x mk) =>
    match FmtR.ofWord w, Shape.ofRecord rec with
    | some f, some s => checked (some (mk { r := f, shape := s }))
    | _, _ => .error .reservedBits

/-- The word and the record slots of an instruction; `none` for an event of the module. -/
def encode (i : Instr) : Option (IWord × Record) :=
  match i.form with
  | none => none
  | some (op, fn, .r f) => some (f.pack op fn, 0)
  | some (op, fn, .i f) => some (f.pack op fn, 0)
  | some (op, fn, .m f) => some (f.pack op fn, 0)
  | some (op, fn, .x f) => some (f.r.pack op fn, f.shape.pack)

/-- The instruction that the decoder reads from `w`, numbered as spec/opcode_table.json numbers its bits: the word in
bits 95 to 0 and the record slots of a format-X instruction above it. -/
def decodeTableWord (_nbits w : Nat) : Option Instr :=
  match decode (BitVec.ofNat 96 w) (BitVec.ofNat 384 (w / 2 ^ 96)) with
  | .ok i => some i
  | .error _ => none

/-- The scheduling fields of an instruction; an event has none. -/
def Instr.sched (i : Instr) : Sched :=
  match i.form with
  | some (_, _, .r f) => f.sched
  | some (_, _, .i f) => f.sched
  | some (_, _, .m f) => f.sched
  | some (_, _, .x f) => f.r.sched
  | none => { stall := 0, fin := false, pg := 7, pn := false, set := 7, wait := 0 }

/-- The family nibble OP[7:4] of an instruction (Table 6.12). -/
def Instr.family (i : Instr) : Nat :=
  match i.form with
  | some (op, _, _) => op.toNat / 16
  | none => 0

/-! ### The fetch line -/

/-- A fetch line: five slots and the line word (06 R180). -/
abbrev Line := BitVec 512

/-- Slot i, bits [96i+95:96i] of the slot field. -/
def Line.slot (l : Line) (i : Nat) : IWord := l.extractLsb' (96 * i) 96
/-- The line word, bytes 60 to 63. -/
def Line.word (l : Line) : Word := l.extractLsb' 480 32
/-- TGT bit of slot i (Table 6.1). -/
def Line.tgt (l : Line) (i : Nat) : Bool := l.word.getLsbD (27 + i)
/-- DATA bit of slot i (Table 6.1). -/
def Line.isData (l : Line) (i : Nat) : Bool := l.word.getLsbD (22 + i)
/-- PAIR bit of slots i and i+1 (Table 6.1). -/
def Line.pair (l : Line) (i : Nat) : Bool := decide (i < 4) && l.word.getLsbD (18 + i)
/-- LVER (Table 6.1). -/
def Line.lver (l : Line) : BitVec 2 := l.word.extractLsb' 16 2

/-- Exclusive-or of the bits of `x`. -/
def parityBits (x : Nat) : Nat → Bool
  | 0 => false
  | n + 1 => xor (x.testBit n) (parityBits x n)

/-- LPAR[k] as R182 defines it from the slot field. -/
def Line.parity (l : Line) (k : Nat) : Bool := parityBits (l.extractLsb' (30 * k) 30).toNat 30
/-- The parity check of R182: every LPAR bit agrees with its 30 slot-field bits. -/
def Line.parityOk (l : Line) : Bool := (List.range 16).all fun k => l.word.getLsbD k == l.parity k
/-- LPAR computed for a slot field. -/
def Line.lparOf (l : Line) : BitVec 16 :=
  (List.range 16).foldl (fun acc k => if l.parity k then acc ||| BitVec.ofNat 16 (2 ^ k) else acc) 0

end Sys2Proof
end

