-- ==== Sys2Proof/Machine/State.lean ====
section
/-! DEFINITION. The state of one module as plain data: every piece of state the spec names, and the model's own fields
(the agenda, the counter of free values, the issue latch, the counter of identifiers, the outbox). -/

namespace Sys2Proof.Machine

/-! ### Sparse maps -/

/-- A map from numbers to values that lists only the keys whose value is not the default. -/
abbrev SMap (α : Type) := List (Nat × α)

/-! ### Lanes and groups -/

/-- Lane states, Table 5.5 (05 R168). -/
inductive LaneSt where
  | ready | waiting | exited
  deriving DecidableEq, Repr

/-- What a WAITING lane waits for (05 R168, 14 R383). -/
inductive Wait where
  /-- BARWAIT: its PC, barrier offset, generation, `.out` (09 R270, 12 R336). -/
  | barrier (pc ofs gen : Nat) (out : Bool)
  /-- CWAIT: register and phase (09 R273). -/
  | phase (c ph : Nat)
  /-- SLEEPT: PC, wake time, and the named barrier with its generation (09 R257, R258). -/
  | sleep (pc t : Nat) (bar : Option (Nat × Nat))
  /-- PGREQ: its PC, the lane's address, destination, and the outcome once known (10 R293). -/
  | page (pc ea : Nat) (dst : Opd) (done : Option Nat)
  /-- TRAP.svc: CALLID and the first d register (09 R260, R261). -/
  | call (id d : Nat)
  /-- TRAP.svc whose record has not been written for want of ring space: PC, code, first d register (09 R260). -/
  | post (pc code d : Nat)
  /-- REGGROW (05 R173). -/
  | grow
  /-- YIELD (05 R172). -/
  | yield
  deriving DecidableEq, Repr

/-- One lane (05 R158, R168; predicates p0 to p6; sr.seed, 07 R219). -/
structure Lane where
  pc : DWord
  st : LaneSt
  wait : Option Wait
  preds : BitVec 7
  seed : Word
  deriving DecidableEq, Repr

/-- A lane before its team starts. -/
def Lane.init : Lane := { pc := 0, st := .ready, wait := none, preds := 0, seed := 0 }

/-- What covers an in-flight register write (06 R196, R197). -/
inductive Cover where
  /-- Fixed latency: covered once the issue distance clock reaches `due`. -/
  | fixed (due : Nat)
  /-- Variable latency: covered by waiting on counter `j`; `none` is SET = 7. -/
  | counter (j : Option Nat)
  deriving DecidableEq, Repr

/-- A register write in flight: key 0 to 255 a lane register, 256 to 262 a predicate; the lanes written, the values they
held before, and the access that will write them, if any (06 R196 to R198, 05 R166). -/
structure Flight where
  key : Nat
  lanes : Mask
  olds : SMap Word
  cover : Cover
  acc : Option Nat
  /-- Written by the first member of the pair that is issuing: the second reads the old values (06 R200). -/
  pair : Bool
  deriving DecidableEq, Repr

/-- A cause found after its access issued (02 R58, 04 R141). -/
structure Deferred where
  pc : DWord
  lanes : Mask
  cause : Nat
  addr : Nat
  ctr : Option Nat
  issuedAfter : Bool
  deriving DecidableEq, Repr

/-- A group-wide hold (05 R168, 04 R127, R141). -/
inductive Hold where
  /-- Until access `acc` has been answered. -/
  | answer (acc : Nat)
  /-- Until GTC has passed `t`. -/
  | clock (t : Nat)
  /-- Until GTC has passed P of scope `sc` and every earlier write has been answered. -/
  | pending (sc : Scope)
  deriving DecidableEq, Repr

/-- The run of a group that holds an issue slot (05 R170). -/
structure Run where
  core : Nat
  slot : Nat
  count : Nat
  pcs : List Nat
  deriving DecidableEq, Repr

/-- Fragment or scale registers that a matrix pass has not read yet: the register ranges `(first, count)` and the values
that lanes have overwritten since (11 R310). `strict`: the operands of a pass, which the checking scoreboard watches. -/
structure FragGuard where
  req : Nat
  strict : Bool
  ranges : List (Nat × Nat)
  olds : SMap Word
  deriving DecidableEq, Repr

/-- The trap registers of a group (09 R277, 14 R369). -/
structure TrapRegs where
  handler : Bool
  tcause : Word
  tpc : DWord
  tlanes : Mask
  taddr : DWord
  tpcWritten : Bool
  deriving DecidableEq, Repr

/-- Order and scoreboard state of a group. -/
structure GroupOrd where
  /-- sb0 to sb5 (06 R197). -/
  sb : SMap Nat
  /-- Counters whose drop is due (06 R197, 08 R234). -/
  drops : List Nat
  /-- Issue distance clock (06 R196). -/
  dclk : Nat
  /-- Register writes in flight, newest first. -/
  flights : List Flight
  /-- P[team] to P[system] by scope code (04 R125). -/
  pend : SMap Nat
  /-- GTC that every completed SC store of the group has passed or must pass (04 R129). -/
  scUntil : Nat
  /-- Causes not yet delivered (04 R141). -/
  deferred : List Deferred
  /-- Group-wide holds. -/
  holds : List Hold
  /-- The last attempt to issue was held; cleared by every step that is no issue. -/
  held : Bool
  deriving DecidableEq, Repr

/-- One group (05 R157 to R172). -/
structure Group where
  lanes : SMap Lane
  /-- Lane register n of lane l at key 256 l + n (05 R162). -/
  regs : SMap Word
  /-- Register allocation A (05 R164). -/
  alloc : Nat
  /-- Waiting REGGROW request A' (05 R173). -/
  grow : Option Nat
  /-- Counters of the REGGROW instructions that wait (09 R252). -/
  growSets : List Nat
  /-- Rows that REGSHRINK has given up and that accesses still on their way keep from the core (05 R176). -/
  owed : List (Nat × List Nat)
  /-- Registers 256 l + n discarded while lane l waits for a reply or a page: what comes for them is dropped (05 R176). -/
  lost : List Nat
  /-- Lane registers that hold an uncorrectable error, by 256 l + n (18 R469, 11 R314). -/
  bad : SMap Bool
  /-- Staged registers of the fast operand buffer (05 R167). -/
  region : List Nat
  trap : TrapRegs
  ord : GroupOrd
  run : Option Run
  /-- GTC at which the group last became eligible (13 R367). -/
  eligibleAt : Nat
  guards : List FragGuard
  /-- Debug stop: stopped, instructions issued since the trigger, stepping (17 R442, R443, R449). -/
  stopped : Bool
  skid : Nat
  stepping : Bool
  deriving DecidableEq, Repr

/-- A group before its team starts (Table 5.1). -/
def Group.init : Group :=
  { lanes := [], regs := [], alloc := 0, grow := none, growSets := [], owed := [], lost := [], bad := [], region := [],
    trap := { handler := false, tcause := 0, tpc := 0, tlanes := 0, taddr := 0, tpcWritten := false },
    ord := { sb := [], drops := [], dclk := 0, flights := [], pend := [], scUntil := 0, deferred := [], holds := [],
             held := false },
    run := none, eligibleAt := 0, guards := [], stopped := false, skid := 0, stepping := false }

/-! ### Teams -/

/-- A role of a kernel descriptor, Table 13.3. -/
structure Role where
  rprio : Nat
  nregs : Nat
  groups : Nat
  entry : DWord
  deriving DecidableEq, Repr

/-- A kernel descriptor, Table 13.2. -/
structure Desc where
  roles : List Role
  param : DWord
  trapv : DWord
  vwa : Nat
  vwt : Nat
  vwv : Nat
  tags : Nat
  bars : Nat
  acc : Nat
  spad : Nat
  gx : Nat
  gy : Nat
  gz : Nat
  seed : Word
  prio : Nat
  gang : Nat
  fpg : Bool
  chk : Bool
  priv : Bool
  deriving DecidableEq, Repr

/-- Where a team is (05 R177, 14 R379, R380, R386). -/
inductive Place where
  | resident (core slot : Nat)
  | parkedInPlace (core slot : Nat)
  | parked
  | preempted
  deriving DecidableEq, Repr

/-- State of a 128-byte window (03 R101). -/
structure Window where
  isOpen : Bool
  held : Bool
  hrank : Nat
  deriving DecidableEq, Repr

/-- A range-permission entry, Table 3.7: STATE 1 REVOKED, 2 INBOUND, 3 OUTBOUND; `mv` is the transfer, if any. -/
structure RangeEnt where
  state : Nat
  base : Nat
  len : Nat
  mv : Option Nat
  deriving DecidableEq, Repr

/-- A group's contribution to a convergence phase (11 R307). -/
structure Contrib where
  group : Nat
  quant : Bool
  f : FmtR
  pc : Nat
  /-- The guard over its registers. -/
  guard : Nat
  /-- SET counters of the issues that signed, and DONE. -/
  sets : List Nat
  dones : List Nat
  deriving DecidableEq, Repr

/-- A convergence register, Table 9.5; bit 32 g + l of `signed` is lane l of group g. -/
structure Conv where
  gmask : Mask
  lmask : Mask
  signed : BitVec 1024
  phase : BitVec 16
  contribs : List Contrib
  deriving DecidableEq, Repr

/-- Debug state of a team (17 R441 to R444). -/
structure TeamDbg where
  /-- 0 running, 1 stopping, 2 stopped, 3 stepping (Table 17.2). -/
  state : Nat
  trig : Nat
  trigT : Nat
  stopT : Nat
  taddr : Nat
  tgroup : Option Nat
  hits : Nat
  wp : Nat
  src : Nat
  slot : Option Nat
  /-- STOP given while the team was queued or parked. -/
  mark : Bool
  /-- Groups held at a TRAP.bkpt, and lanes whose PC the register window has changed (17 R441, R445). -/
  bkpts : List Nat
  newPcs : List (Nat × Nat)
  deriving DecidableEq, Repr

/-- A team that has been placed at least once. -/
structure Team where
  id : TeamId
  pchip : Nat
  lq : Nat
  desc : Desc
  x : Nat
  y : Nat
  z : Nat
  gangRank : Nat
  gangSize : Nat
  place : Place
  /-- Stopped by an unhandled trap (14 R372). -/
  stopping : Bool
  /-- 0 stays, 1 parks (14 R379), 2 is being pre-empted (14 R386). -/
  leave : Nat
  /-- Ended; kept while gang peers or jobs use its scratchpad (03 R95). -/
  ended : Bool
  /-- Acceptance order of the launch (05 R173). -/
  order : Nat
  groups : SMap Group
  /-- Scratchpad run on the core in KiB, and bytes (03 R94, R95). -/
  spadBase : Nat
  spadSize : Nat
  spad : SMap Byte
  /-- Accumulator elements by offset / 4, poisoned elements, tile map (03 R109, R111). -/
  acc : SMap Word
  accPoison : SMap Bool
  /-- Bytes of the scratchpad that MDRAIN wrote poisoned, until they are overwritten (03 R111, 11 R324). -/
  spadPoison : SMap Bool
  tileMap : List Nat
  /-- Registered barrier offsets (09 R264). -/
  bars : List Nat
  tags : SMap DWord
  tagRR : SMap Nat
  windows : SMap Window
  ranges : List RangeEnt
  conv : SMap Conv
  qflags : Word
  /-- GTC from which no group has had a READY lane (05 R177), and the GTC of the saved image (14 R389). -/
  idleSince : Nat
  resumeAfter : Nat
  dbg : TeamDbg
  deriving DecidableEq, Repr

/-- A convergence register at reset: groups 0 to n - 1 declared (Table 9.5). -/
def Conv.init (n : Nat) : Conv :=
  { gmask := BitVec.ofNat 32 (2 ^ n - 1), lmask := 0xFFFFFFFF, signed := 0, phase := 0, contribs := [] }

/-- No debug stop. -/
def TeamDbg.init : TeamDbg :=
  { state := 0, trig := 0, trigT := 0, stopT := 0, taddr := 0, tgroup := none, hits := 0, wp := 0, src := 0,
    slot := none, mark := false, bkpts := [], newPcs := [] }

/-! ### Memory accesses in flight -/

/-- A byte-addressed home of a line: local by module physical address under a home chip, or remote by pod address. -/
inductive Home where
  | here (lci mpa : Nat)
  | remote (pod : Nat)
  deriving DecidableEq, Repr

/-- Consistency classes (00 R8). -/
inductive Cls where
  | pv | rc | sc | wo
  deriving DecidableEq, Repr

/-- What a transaction asks of its home. -/
inductive TxnKind where
  | load
  | store
  | atomic (op : AtomOp) (ret : Bool)
  deriving DecidableEq, Repr

/-- One lane of a transaction: its address in the line's space, bytes, store data or operands, effective address, and
whether a store writes poison (03 R111, 11 R324). -/
structure TxnLane where
  lane : Nat
  addr : Nat
  bytes : Nat
  data : List Byte
  ea : Nat
  bad : Bool := false
  deriving DecidableEq, Repr

/-- The agent of an access, Table 4.8 (04 R117, R145). -/
structure Agent where
  pchip : Nat
  die : Nat
  clus : Nat
  core : Nat
  launch : Nat
  team : Nat
  deriving DecidableEq, Repr

/-- A transaction: the lanes of one instruction that fall in one line, on their way to its home (04 R119). -/
structure Txn where
  id : Nat
  acc : Option Nat
  team : Option TeamId
  group : Nat
  core : Nat
  kind : TxnKind
  home : Home
  cls : Cls
  /-- Class of an access without a stage-1 class is the home's (02 R55). -/
  s2cls : Bool
  scope : Scope
  sync : Bool
  lease : Nat
  install : Bool
  lanes : List TxnLane
  agent : Agent
  /-- Other groups whose pending times this store raises (04 R123). -/
  contribs : List (TeamId × Nat)
  msgid : Nat
  /-- Multicast member index of STM and LDX (12 R356). -/
  member : Option Nat
  /-- The packet towards a remote home has left the core. -/
  sent : Bool := true
  /-- The hint First out: its L1 copy is first for replacement (Table 3.3). -/
  first : Bool := false
  /-- Part of a copy: its class PRIO, and the token that it serves, 0 for the prefix (12 R339). -/
  pull : Option (Nat × Nat) := none
  deriving DecidableEq, Repr

/-- Answer for one lane: data, valid bit, cause. -/
structure LaneAns where
  lane : Nat
  data : List Byte
  valid : Bool
  cause : Option (Nat × Nat)
  member : Option Nat
  deriving DecidableEq, Repr

/-- A read or write of a remote line by hardware, an engine or firmware: whose it is, its transaction, and the answer
(12 R339, 13 R360, 02 R58). -/
structure Fetch where
  owner : Nat
  key : Nat
  txn : Nat
  ans : Option (List LaneAns)
  time : Nat
  deriving DecidableEq, Repr

/-- An event of a chip that follows the stores of an owner to another module (13 R364, 04 R155). -/
structure Follow where
  owner : Nat
  lci : Nat
  code : Nat
  info0 : Nat
  info1 : Nat
  deriving DecidableEq, Repr

/-- What an access writes when it has been answered. -/
inductive AccDst where
  | load (sz : LdSize) (dst : Opd) (pred : Opd)
  | store (pred : Opd)
  | atomic (op : AtomOp) (dst : Opd) (pred : Opd)
  | stm (dst : Opd) (members : Nat)
  | ldx (op : LdxOp) (dst : Opd) (pred : Opd) (members : Nat)
  | drain (pred : Opd)
  | status (dst : Opd) (v : Word)
  /-- WOCLR: the pages to clear, as chip and module physical address (04 R132). -/
  | woclr (dst : Opd) (skipped : Nat) (pages : List (Nat × Nat))
  deriving DecidableEq, Repr

/-- An access of a group whose answers are not all in (04 R125, R141). -/
structure Access where
  id : Nat
  team : TeamId
  group : Nat
  pc : DWord
  ctr : Option Nat
  dst : AccDst
  active : Mask
  sync : Bool
  isSc : Bool
  isLoad : Bool
  isStore : Bool
  scope : Scope
  answers : List LaneAns
  /-- Transactions, write-combined lines or drains not yet answered. -/
  open_ : List Nat
  /-- Latest effect time returned (04 R125). -/
  effect : Nat
  /-- Latest time at which the hub issues a posted write of a store to host memory (Table 4.3). -/
  posted : Nat := 0
  /-- An instruction of the group has issued after it (04 R141). -/
  followed : Bool
  deriving DecidableEq, Repr

/-! ### Caches -/

/-- A translation held by a TLB (02 R60, R61): key space, page, size in bytes, output. -/
structure Tlb where
  /-- Local index of the chip whose stage 1 made it. -/
  lci : Nat
  /-- The input is a pod address (ASP 0x3) and not a VA. -/
  isPod : Bool
  input : Nat
  size : Nat
  home : Home
  cls : Cls
  s2cls : Bool
  r : Bool
  w : Bool
  x : Bool
  /-- Chip-slot offset of the page, for a local home. -/
  cofs : Nat
  deriving DecidableEq, Repr

/-- An L1 line (03 R79); `owner` is the team of a PV line, `cmax` the latest completion time of a store of this core. -/
structure L1Line where
  key : Home
  cls : Cls
  valid : BitVec 4
  dirty : BitVec 4
  expiry : Nat
  data : List Byte
  owner : Option TeamId
  cmax : Nat
  /-- Installed with the hint First out: first for replacement in its set (03 R83). -/
  first : Bool := false
  deriving DecidableEq, Repr

/-- An entry of the write-combining buffer (10 R286): the bytes written by offset in the line, and who waits for it. -/
structure Wcb where
  id : Nat
  lci : Nat
  pchip : Nat
  line : Nat
  pod : Nat
  cls : Cls
  scope : Scope
  bytes : SMap Byte
  /-- Access, lane and effective address of each contributing store. -/
  accs : List (Nat × Nat × Nat)
  groups : List (TeamId × Nat)
  agent : Agent
  since : Nat
  /-- When it left the buffer, in the order of transaction numbers. -/
  sentAs : Nat := 0
  deriving DecidableEq, Repr

/-- An entry of a die's walk cache (02 R60): `kind` 1 or 2 a table entry of that stage, 3 a stripe descriptor; the address it
was read at, a pod address or, at stage 2, a module physical one; the entry. -/
structure WalkEnt where
  lci : Nat
  kind : Nat
  at_ : Nat
  entry : Nat
  deriving DecidableEq, Repr

/-- A watchpoint, Table 17.6. -/
structure Watch where
  lci : Nat
  handle : Nat
  team : Nat
  len : Nat
  base : Nat
  eng : Bool
  peer : Bool
  own : Bool
  at_ : Bool
  st : Bool
  ld : Bool
  deriving DecidableEq, Repr

/-- One core (03 R79, 10 R286, 02 R60, 17 R447). -/
structure Core where
  l1 : List L1Line
  wcb : List Wcb
  dtlb : List Tlb
  itlb : List Tlb
  /-- The second-level TLB (02 R60). -/
  stlb : List Tlb
  /-- Instruction cache lines by module physical address of the line (06 R182). -/
  icache : List (Nat × BitVec 512)
  watch : SMap Watch
  /-- Lines with a WO store of this core that a bank has accepted, and its completion time (04 R123). -/
  late : List (Home × Nat)
  /-- The chip whose data the L1 holds (03 R84). -/
  chip : Option Nat
  sampled : Nat
  deriving DecidableEq, Repr

/-- An empty core. -/
def Core.init : Core :=
  { l1 := [], wcb := [], dtlb := [], itlb := [], stlb := [], icache := [], watch := [], late := [], chip := none, sampled := 0 }

/-- An agent record of a bank, Table 4.8. -/
structure AgentRec where
  kind : Nat
  scope : Scope
  agent : Agent
  deriving DecidableEq, Repr

/-- A shared-cache line: key (home chip and module physical address of the line), state word of Table 3.4 as fields, data,
agent record, and the completion time of the latest accepted write (03 R89, 04 R120, R145). -/
structure BankLine where
  lci : Nat
  line : Nat
  data : List Byte
  lexp : Nat
  lv : Bool
  wpod : Nat
  wfw : Bool
  owner : Option TeamId
  dirty : BitVec 4
  pois : BitVec 4
  /-- Sectors with an uncorrectable error, among the poisoned ones (03 R93). -/
  ue : BitVec 4 := 0
  /-- Pod address under which an owner on another module holds the line (04 R133, log 33). -/
  opod : Nat := 0
  wr : Bool
  cls : Cls
  arec : Option AgentRec
  cbusy : Nat
  deriving DecidableEq, Repr

/-! ### Engines -/

/-- A tensor shape record with every field resolved to a number (12 R330 to R332). -/
structure Box where
  base : Nat
  dtype : Ty
  rank : Nat
  ext : List Nat
  stride : List Nat
  box : List Nat
  org : List Int
  dst : Nat
  swz : Nat
  bar : Option Nat
  deriving DecidableEq, Repr

/-- What a job moves (12 R338, R341, R352). -/
inductive JobKind where
  | copy
  | gather (rows : List Int)
  /-- A gather or scatter record whose list of `count` indices at `list` has not been read (12 R341). -/
  | listed (list count : Nat)
  /-- A message, with its chip place field, which stays unresolved (01 R36). -/
  | send (queue : Nat) (place : Nat) (tag : Word) (spad : Bool)
  | copyOut (dest : Nat)
  | card (va : Nat)
  deriving DecidableEq, Repr

/-- A footprint range: in the team's scratchpad or global, first byte and length (12 R342, 04 R150). -/
structure Foot where
  spad : Bool
  write : Bool
  lo : Nat
  len : Nat
  deriving DecidableEq, Repr

/-- A job of a transfer engine (12 R334 to R337). -/
structure Job where
  id : Nat
  die : Nat
  ch : Nat
  lci : Nat
  team : TeamId
  pchip : Nat
  kind : JobKind
  dir : Nat
  box : Box
  /-- Box rows not yet performed. -/
  rows : List Nat
  bytes : Nat
  bar : Option Nat
  arr : Bool
  obar : Option Nat
  cbar : Option Nat
  prio : Nat
  prom : Nat
  started : Bool
  foot : List Foot
  /-- The transfer record it came from, and EVT (12 R341). -/
  record : Option Nat
  evt : Bool
  msg : Option Nat
  /-- Page request that holds the job (02 R65). -/
  held : Bool
  core : Nat
  order : Nat
  /-- Rows whose source read has begun, with the bytes that have been read (12 R337). -/
  begun : SMap (List Byte)
  /-- 0 runs, 1 done, 2 faulted, 3 cancelled, and the cause (Table 12.5). -/
  outcome : Nat
  cause : Nat
  /-- Latest effect time of its writes (04 R149). -/
  effect : Nat
  /-- First byte of its transfer record. -/
  rec0 : Nat
  /-- The record cannot be written: its page failed (log 45). -/
  skip : Bool
  deriving DecidableEq, Repr

/-- A channel of a transfer engine (12 R334, R344, R347). -/
structure Channel where
  walk : Option Nat
  walkTeam : Option TeamId
  lcause : Nat
  deriving DecidableEq, Repr

/-- An idle channel. -/
def Channel.init : Channel := { walk := none, walkTeam := none, lcause := 0 }

/-- A collective card posted on a die (12 R348, Table 12.7). -/
structure Card where
  id : Nat
  die : Nat
  lci : Nat
  pchip : Nat
  team : TeamId
  va : Nat
  op : Nat
  dt : Nat
  rop : Nat
  prio : Nat
  auto : Bool
  qt : Nat
  evt : Bool
  tag : Nat
  rank : Nat
  nmem : Nat
  root : Nat
  memb : Nat
  send : Nat
  recv : Nat
  count : Nat
  chunk : Nat
  sscale : Nat
  rscale : Nat
  barb : Nat
  nbar : Nat
  started : Bool
  members : List Nat
  /-- Chunks not yet landed. -/
  chunks : List Nat
  qsat : Bool
  /-- The job of the transfer record that posted the card (12 R341). -/
  record : Option Nat
  ch : Nat
  /-- Cards with this TAG and member list that the member had posted before (12 R349). -/
  instance_ : Nat
  outcome : Nat
  cause : Nat
  /-- Latest effect time of its writes (04 R149). -/
  effect : Nat
  /-- Chunks whose bytes have been written, with the time from which their count may be applied (12 R351). -/
  counting : SMap Nat
  /-- Chunks whose source has been read: the bytes of RECV and the scale bytes after them. -/
  begun : SMap (List Byte)
  /-- Place in the order of the dependence unit (04 R150). -/
  order : Nat
  /-- Held on a page request; the card cannot be written. -/
  held : Bool
  skip : Bool
  deriving DecidableEq, Repr

/-- A tile operation (11 R320 to R325) with what its issue read. -/
inductive TileOp where
  | mzero (tile : Nat)
  | mlda (tile : Nat) (ty : Ty) (ofs pitch : Nat)
  /-- The generators of the lanes as the issue found them (07 R219, log 84). -/
  | mrda (tile treg : Nat) (f : FmtR) (active : Mask) (seeds : SMap Word)
  | mwra (tile treg : Nat) (f : FmtR) (active : Mask)
  | mxout (tile treg : Nat) (f : FmtR) (list e0 n k0 i0 : Nat)
  /-- The generator of the lowest active lane, and the translations of a global destination's pages, as the issue found
  them. -/
  | mdrain (tile : Nat) (tq : Bool) (f : FmtR) (base : Nat) (params : List Word) (seed : Word) (pages : List (Nat × Tlb))
  deriving DecidableEq, Repr

/-- A request of the reservation table: the passes of a phase, or one tile operation (11 R306). -/
structure MxReq where
  id : Nat
  team : TeamId
  group : Nat
  passes : List Contrib
  op : Option TileOp
  ctr : Option Nat
  pc : DWord
  prio : Nat
  age : Nat
  /-- Registers read at the grant, one map for each pass or for the operation, with register n of lane l at 256 l + n, and
  the registers among them that hold an uncorrectable error. -/
  frags : List (SMap Word × SMap Bool)
  acc : Option Nat
  deriving DecidableEq, Repr

/-- A drain whose writes are in progress (11 R324): the address, bytes and poison of each run of bytes to write. -/
structure Drain where
  id : Nat
  acc : Nat
  team : TeamId
  group : Nat
  isGlobal : Bool
  writes : List (Nat × List Byte × Bool)
  deriving DecidableEq, Repr

/-- The matrix engine of a cluster (11 R306 to R310). -/
structure Cluster where
  table : List MxReq
  postbuf : List MxReq
  granted : Option MxReq
  grants : Nat
  drains : List Drain
  deriving DecidableEq, Repr

/-- An idle matrix engine. -/
def Cluster.init : Cluster := { table := [], postbuf := [], granted := none, grants := 0, drains := [] }

/-- A transfer between scratchpads (03 R107, 10 R304): the sender's and receiver's teams, offsets and barriers; step 1
posted, step 2 accepted, bytes moved. -/
structure Smove where
  id : Nat
  src : TeamId
  group : Nat
  dst : TeamId
  core : Nat
  a : Nat
  b : Nat
  len : Nat
  sbar : Option Nat
  rbar : Option Nat
  accepted : Bool
  ctr : Option Nat
  stDst : Opd
  active : Mask
  /-- The bytes read so far, and the 128-byte units of them that have landed (Table 3.8, step 3). -/
  bytes : List Byte := []
  /-- Positions among them that are poisoned. -/
  marks : List Nat := []
  landed : Nat := 0
  deriving DecidableEq, Repr

/-- A LAUNCH whose queue has not answered (09 R276): the record's VA and the lanes that receive the status. -/
structure LaunchReq where
  id : Nat
  team : TeamId
  group : Nat
  lq : Nat
  va : Nat
  priv : Bool
  dst : Opd
  active : Mask
  ctr : Option Nat
  deriving DecidableEq, Repr

/-- A posted window barrier update (09 R269). -/
structure BarUpd where
  id : Nat
  team : TeamId
  ofs : Nat
  n : Nat
  u : Int
  sender : TeamId
  sgroup : Nat
  deriving DecidableEq, Repr

/-! ### Page requests -/

/-- Who waits for a page (02 R66 to R70). -/
inductive PageWaiter where
  | lane (team : TeamId) (group lane : Nat)
  /-- A job, with the VA that it was to access. -/
  | job (id va : Nat)
  | far (pchip msgid : Nat)
  /-- A ring, record or operand of a chip held on a page (02 R493). -/
  | ring (lci page : Nat)
  /-- A channel that reads a transfer record. -/
  | walk (die ch : Nat)
  /-- A message whose buffer or log page is not resident (12 R353, 16 R432). -/
  | msg (id : Nat)
  deriving DecidableEq, Repr

/-- An outstanding page request (02 R66 to R73): the function and queue it was posted on, its kind and page, REQID. -/
structure PageReq where
  die : Nat
  vf : Nat
  queue : Nat
  kind : Nat
  faddr : Nat
  vaddr : Nat
  level : Nat
  acc : Nat
  src : Nat
  inc : Nat
  reqid : Nat
  posted : Bool
  waiters : List PageWaiter
  deriving DecidableEq, Repr

/-! ### Fabric -/

/-- A port of a die (16 R413 to R422). -/
structure Port where
  up : Bool
  version : Nat
  lseq : Nat
  unacked : List Packet
  resends : Nat
  routes : SMap DWord
  rejects : Nat
  detour : Bool
  authFails : Nat
  deriving DecidableEq, Repr

/-- A port that is down, with an empty route table. -/
def Port.init : Port :=
  { up := false, version := 0, lseq := 0, unacked := [], resends := 0, routes := [], rejects := 0, detour := false,
    authFails := 0 }

/-- Where a message lands (16 R428). -/
inductive Placement where
  | unplaced
  | buffer (va cap : Nat) (bar : Option Nat) (team : TeamId)
  | log (slot slots : Nat)
  /-- A copy or chunk of this module that reads from another one: the job or card, its key among those of its owner, and
  the bytes that need no token. -/
  | region (owner key pre : Nat)
  /-- A copy of another module, whose stores name where they go. -/
  | named
  deriving DecidableEq, Repr

/-- A message request at its receiver (Table 16.10). -/
structure MsgReq where
  id : Nat
  die : Nat
  lci : Nat
  src : Nat
  queue : Nat
  msgid : Nat
  len : Nat
  prio : Nat
  tag : Word
  arrived : Nat
  lastToken : Nat
  place : Placement
  /-- Runs of message bytes that have landed, and the next byte not yet granted. -/
  landed : List (Nat × Nat)
  granted : Nat
  regrant : List (Nat × Nat)
  deferred : Bool
  trunc : Bool
  fault : Bool
  /-- Orphan timer: GTC at which it runs out (16 R431). -/
  orphAt : Option Nat
  /-- Isolation of the sender's module, or the module itself: cell position, or scale-out index + 16. -/
  peer : Nat
  /-- Effect time of the bytes that have landed, and whether the header has been written (04 R154). -/
  effect : Nat
  headed : Bool
  /-- The source is in a scratchpad; the grant table's request waits for a buffer or log space. -/
  spad : Bool
  deriving DecidableEq, Repr

/-- A token at its receiver (16 R429, R430). -/
structure Token where
  num : Nat
  die : Nat
  req : Nat
  ofs : Nat
  len : Nat
  expiry : Nat
  deriving DecidableEq, Repr

/-- A message at its sender (Table 16.10). -/
structure Send where
  id : Nat
  job : Nat
  die : Nat
  lci : Nat
  pchip : Nat
  queue : Nat
  msgid : Nat
  len : Nat
  prio : Nat
  tag : Word
  data : List Byte
  sentTo : Nat
  tokens : List (Nat × Nat × Nat × Nat)
  deferSent : Bool
  nakUntil : Option Nat
  /-- Runs of bytes that have left at least once. -/
  covered : List (Nat × Nat)
  team : TeamId
  spad : Bool
  /-- The remote side of a copy, which names its region itself (16 R428). -/
  copy : Bool := false
  deriving DecidableEq, Repr

/-- A receive log descriptor, Table 16.8, the entry that the last FLOGPOP returned, and its reserved entries in order:
slot, slots, pad (16 R433, 12 R355). -/
structure RxLog where
  base : Nat
  size : Nat
  head : Nat
  tail : Nat
  waitq : Nat
  popped : Bool
  entries : List (Nat × Nat × Bool)
  fullPosted : Bool
  deriving DecidableEq, Repr

/-- A disabled log. -/
def RxLog.init : RxLog :=
  { base := 0, size := 0, head := 0, tail := 0, waitq := 0, popped := false, entries := [], fullPosted := false }

/-- A posted receive buffer (12 R353). -/
structure PostBuf where
  va : Nat
  cap : Nat
  bar : Option Nat
  filter : Word
  team : TeamId
  deriving DecidableEq, Repr

/-- A peer module (16 R434, R435). -/
structure Peer where
  isolated : Bool
  lost : Bool
  offset : Int
  deriving DecidableEq, Repr

/-! ### Rings and queues -/

/-- Event ring descriptor, Table 15.3, and the ring's post count (15 R396, R397). -/
structure EvRing where
  base : Nat
  size : Nat
  head : Nat
  tail : Nat
  lost : Nat
  vec : Nat
  arm : Bool
  posts : Nat
  /-- Records written and not yet announced by TAIL: the time that GTC must pass first (04 R155). -/
  done : List Nat
  deriving DecidableEq, Repr

/-- A disabled event ring. -/
def EvRing.init : EvRing :=
  { base := 0, size := 0, head := 0, tail := 0, lost := 0, vec := 0, arm := false, posts := 0, done := [] }

/-- Queue descriptor, Table 18.2. -/
structure QDesc where
  base : Nat
  size : Nat
  head : Nat
  tail : Nat
  state : Nat
  erra : Nat
  deriving DecidableEq, Repr

/-- A disabled queue. -/
def QDesc.init : QDesc := { base := 0, size := 0, head := 0, tail := 0, state := 0, erra := 0 }

/-- Page-request queue descriptor, Table 2.9. -/
structure Prq where
  base : Nat
  size : Nat
  head : Nat
  tail : Nat
  /-- Records written and not yet announced by TAIL: the time that GTC must pass first (02 R68, 04 R155). -/
  done : List Nat
  deriving DecidableEq, Repr

/-- A disabled page-request queue. -/
def Prq.init : Prq := { base := 0, size := 0, head := 0, tail := 0, done := [] }

/-- Service ring descriptor, Table 14.3. -/
structure SvcRing where
  qbase : Nat
  qsize : Nat
  qhead : Nat
  qtail : Nat
  rbase : Nat
  rsize : Nat
  rhead : Nat
  rtail : Nat
  halted : Bool
  /-- Requests written and not yet announced by QTAIL: the time that GTC must pass first (14 R374, 04 R155). -/
  done : List Nat
  deriving DecidableEq, Repr

/-- Disabled service rings. -/
def SvcRing.init : SvcRing :=
  { qbase := 0, qsize := 0, qhead := 0, qtail := 0, rbase := 0, rsize := 0, rhead := 0, rtail := 0, halted := false,
    done := [] }

/-- An outstanding service call (09 R260). -/
structure Call where
  id : Nat
  team : TeamId
  group : Nat
  lane : Nat
  d : Nat
  /-- The TRAP.svc. -/
  pc : Nat
  record : BitVec 512
  deriving DecidableEq, Repr

/-- What hardware or firmware wants to write or read at a chip's pod address (02 R493). -/
inductive RingItem where
  /-- An event record, and a time that its announcement follows. -/
  | event (record : List Byte) (after : Nat)
  /-- A guest page-request record, by its request. -/
  | prq (reqid : Nat)
  /-- A service request record, by its call. -/
  | svc (callid : Nat)
  /-- The next service reply. -/
  | reply
  /-- A Sepia record of a die. -/
  | sepia (die : Nat) (record : List Byte)
  /-- The dump of a stopped team. -/
  | dump (team : TeamId)
  /-- The next packet of a queue of the chip's function, or an operand of it. -/
  | queue (q : QSel)
  /-- A completion or error record, with the detail words of the CMD_DONE that follows it. -/
  | record (pod : Nat) (bytes : List Byte) (done : Option (Nat × Nat))
  deriving DecidableEq, Repr

/-- An item held on a page of the chip's slot until the page request is answered (02 R493). -/
structure HeldItem where
  item : RingItem
  page : Nat
  deriving DecidableEq, Repr

/-- A grid accepted on a queue (13 R359 to R364). -/
structure Grid where
  handle : Nat
  desc : Desc
  crec : Nat
  evt : Bool
  ser : Bool
  user : Word
  next : Nat
  ended : Nat
  fteam : Nat
  fcause : Nat
  order : Nat
  deriving DecidableEq, Repr

/-- A logical launch queue with a hardware queue bound to it (13 R365, 18 R496). -/
structure LQueue where
  hq : Nat
  weight : Nat
  vt : Nat
  blocked : Bool
  grids : List Grid
  deriving DecidableEq, Repr

/-! ### Virtual chips -/

/-- Quality-of-service parameters, Table 15.2, in its order. -/
structure Qos where
  minc : Nat
  minb : Nat
  mind : Nat
  flc : Nat
  flb : Nat
  fld : Nat
  maxc : Nat
  grank : Nat
  share : Nat
  slice : Nat
  drain : Nat
  park : Nat
  save : Nat
  cgroup : Nat
  deriving DecidableEq, Repr

/-- The defaults of Table 15.2, times in ticks of 1 ns. -/
def Qos.init : Qos :=
  { minc := 0, minb := 0, mind := 0, flc := 0, flb := 0, fld := 0, maxc := 0, grank := 0, share := 1, slice := 2000000,
    drain := 100000, park := 20000, save := 256, cgroup := 0 }

/-- Identity of a chip (01 R25, R27, 02 R72, 15 R497). -/
structure ChipId where
  gid : Nat
  pchip : Nat
  chw : Nat
  incoming : Bool
  tdi : Nat
  deriving DecidableEq, Repr

/-- Residency of a chip (15 R391, R393, R394, 14 R385). -/
structure Residency where
  resident : Bool
  /-- Reason of a suspension: 0 by a command, 1 guarantees, 2 TDISP error, 3 migrated, until its place table is loaded. -/
  suspended : Option Nat
  clusters : List Nat
  /-- Clusters among them that come from the shared pool, and those that the chip is leaving (15 R393, 14 R386). -/
  pool : List Nat
  out : List Nat
  /-- Owned banks as die * 32 + bank (03 R85). -/
  banks : List Nat
  channels : List Nat
  /-- GTC at which the running slice ends, and at which the last one ended. -/
  sliceEnd : Option Nat
  endedAt : Option Nat
  /-- Soft pre-emption: the GTC at which hard pre-emption follows (14 R385). -/
  drainAt : Option Nat
  everRan : Bool
  /-- A change of minima that waits for the next slice boundary (15 R392). -/
  nextQos : Option Qos
  saveFull : Bool
  /-- Pod position of the module that a migrated chip came from (Table 15.5). -/
  movedFrom : Nat
  deriving DecidableEq, Repr

/-- Dispatch state of a chip (13 R365, R366, 14 R387). -/
structure Dispatch where
  queues : SMap LQueue
  pfQueues : SMap LQueue
  rr : Nat
  /-- Teams queued for dispatch again: pre-empted units, then woken parked units (14 R388, 05 R178). -/
  resume : List TeamId
  launches : Nat
  deriving DecidableEq, Repr

/-- Debug, trace and counters of a chip (17). -/
structure ChipDbg where
  /-- Holder of the debug control. -/
  holder : Option Fn
  errCode : Nat
  named : Option TeamId
  dumpBase : Nat
  slots : SMap TeamId
  /-- Pending dumps, with their team header and group records (17 R444). -/
  pending : List (TeamId × List Byte)
  /-- Queued teams that a STOP has marked (17 R441). -/
  marks : List TeamId
  deriving DecidableEq, Repr

/-- A virtual chip (15 R391). -/
structure Chip where
  ident : ChipId
  s1 : BitVec 128
  s2 : DWord
  places : SMap Word
  qos : Qos
  res : Residency
  disp : Dispatch
  cmdq : QDesc
  lqd : SMap QDesc
  ev : EvRing
  svc : SvcRing
  calls : List Call
  prq : Prq
  held : List HeldItem
  logs : SMap RxLog
  posts : SMap (List PostBuf)
  mcast : SMap (BitVec 192)
  /-- Messages sent so far to each queue, by destination chip * 4096 + queue (16 R416). -/
  seqs : SMap Nat
  /-- Collective cards posted so far: TAG, member list, count (12 R349). -/
  colls : List (Nat × List Nat × Nat)
  /-- PRQ_STALE, PRQ_UNKNOWN, SVC_STALE, SVC_UNKNOWN (18 R455). -/
  stale : SMap Nat
  dbg : ChipDbg
  deriving DecidableEq, Repr

/-- A guest pod on this module: chip table and transport parameters (16 R421, R426, 15 R401). -/
structure Guest where
  table : SMap DWord
  params : List Nat
  paused : Bool
  /-- GTC of the pause, for the timers that stop (15 R401). -/
  pausedAt : Nat
  pauseDone : Bool
  /-- Packets that a pause holds, oldest first, without a route (15 R401, R402). -/
  waiting : List Packet
  deriving DecidableEq, Repr

/-- The defaults of Table 16.6 in its order, times in ns. -/
def Guest.init : Guest :=
  { table := [], params := [4096, 25000, 1000000, 256, 256, 256, 256, 10000], paused := false, pausedAt := 0,
    pauseDone := false, waiting := [] }

/-! ### Dies and the hub -/

/-- One compute die. -/
structure Die where
  lines : List BankLine
  /-- LFLOOR by bank (03 R91). -/
  lfloor : SMap Nat
  channels : SMap Channel
  engTlb : List Tlb
  fabTlb : List Tlb
  /-- The walk cache of the walker pool (02 R60). -/
  walk : List WalkEnt
  port : Port
  deriving DecidableEq, Repr

/-- A die with nothing cached. -/
def Die.init : Die := { lines := [], lfloor := [], channels := [], engTlb := [], fabTlb := [], walk := [], port := Port.init }

/-- A SHOOT in progress (02 R74, R75). -/
structure Shoot where
  seq : Nat
  lci : Nat
  stage : Nat
  all : Bool
  cls : Option Cls
  first : Nat
  count : Nat
  /-- Dies that have removed their entries, with the first identifier of an access issued since. -/
  removed : List (Nat × Nat)
  acked : List Nat
  cmd : Option CmdHdr
  /-- The context that takes effect at the end of a MAP (02 R41). -/
  ctx : Option (BitVec 128)
  /-- GTC of its start (02 R78), and whether its class transition has been sent to the homes (02 R75, 04 R142). -/
  start : Nat
  moved : Bool
  deriving DecidableEq, Repr

/-- A command that runs in the background, or waits for a later event (18 R460). -/
inductive Background where
  | ckpt (h : CmdHdr) (gid : Nat) (narrow : Bool) (dest ranges : Nat)
  | restore (h : CmdHdr) (gid src : Nat)
  | migrate (h : CmdHdr) (lci : Nat) (target : Nat) (route : List (Nat × DWord))
  | pause (h : CmdHdr) (gid : Nat)
  deriving DecidableEq, Repr

/-- Power and boot (18 R463, R472). -/
inductive Power where
  | off | heldInReset | p0 | p1 | p2
  deriving DecidableEq, Repr

/-- A counter bank (17 R439, R453): claim by the holder for a chip (none: all), selects and values. -/
structure CtrBank where
  holder : Option Fn
  chip : Option Nat
  sel : SMap Nat
  val : SMap Nat
  deriving DecidableEq, Repr

/-- A free counter bank. -/
def CtrBank.init : CtrBank := { holder := none, chip := none, sel := [], val := [] }

/-- A Sepia unit of a die (17 R450, R452). -/
structure Sepia where
  holder : Option Fn
  chip : Option Nat
  ring : EvRing
  launch : Option Nat
  teamLo : Nat
  teamHi : Nat
  kinds : Nat
  keybar : Nat
  every : Nat
  deriving DecidableEq, Repr

/-- A free Sepia unit. -/
def Sepia.init : Sepia :=
  { holder := none, chip := none, ring := EvRing.init, launch := none, teamLo := 0, teamHi := 0, kinds := 0,
    keybar := 0xFFFFFFFF, every := 1 }

/-- The engines' and the fabric's records in flight. -/
structure Traffic where
  accesses : List Access
  txns : List Txn
  /-- Write-combined lines sent and not yet answered, by MSGID (16 R425). -/
  drained : List (Nat × Wcb)
  fetches : List Fetch
  follows : List Follow
  launches : List LaunchReq
  jobs : List Job
  cards : List Card
  smoves : List Smove
  barUpds : List BarUpd
  pages : List PageReq
  msgs : List MsgReq
  tokens : List Token
  sends : List Send
  /-- Model's own: home chip, line and completion time of stores whose line has left its bank (04 R121). -/
  busy : List (Nat × Nat × Nat)
  deriving DecidableEq, Repr

/-- A saved image of a chip (14 R383, 15 R406, 18 R465): the chip with its teams, what its engines and messages have in
flight, and its counters; the 4 KiB pages of section 3 by chip-slot offset, their bytes, and the poisoned 64-byte granules by
offset / 64. `dest` is the first destination address of a checkpoint, or the target of a migration; `source` the saving
module; `routes` the migration route block; `size` the bytes of the image. Token and orphan times are remaining times. -/
structure Image where
  gid : Nat
  dest : Nat
  source : Nat
  lci : Nat
  chip : Chip
  teams : List Team
  traffic : Traffic
  counters : SMap CtrBank
  pages : List Nat
  frames : List (Nat × Byte)
  poison : List Nat
  routes : List (Nat × DWord)
  savedAt : Nat
  size : Nat
  deriving DecidableEq, Repr

/-- A unit with ECC that counts the errors it corrects, by number: a channel, a bank, a core's L1, scratchpad or registers, a
cluster's fast operand buffer or accumulator store (03 R111, R113, 18 R469). -/
inductive EccUnit where
  | channel (k : Nat)
  | bank (k : Nat)
  | l1 (core : Nat)
  | spad (core : Nat)
  | regs (core : Nat)
  | operands (cluster : Nat)
  | acc (core : Nat)
  deriving DecidableEq, Repr

/-- The hub: power, the physical function, firmware and the module's tables. -/
structure Hub where
  power : Power
  position : Nat
  /-- Physical function: event ring, command queue, launch queues, hypervisor page-request queues (15 R396, 18 R455). -/
  ev : EvRing
  cmdq : QDesc
  lqd : SMap QDesc
  hypPrq : SMap Prq
  /-- Incarnations by function (02 R72). -/
  inc : SMap Nat
  shootSeq : Nat
  shoots : List Shoot
  background : List Background
  /-- Interface versions set by SETVER, and functions whose first command has been seen, by function number
  (256 for the PF) (18 R462). -/
  versions : SMap Nat
  seenCmd : List Nat
  hubRoutes : SMap DWord
  soPeers : SMap DWord
  retiredClusters : List Nat
  retiredChannels : List Nat
  retiredDies : List Nat
  throttled : Bool
  refetch : SMap Nat
  /-- Corrected errors of each unit (03 R111, 18 R469). -/
  corrected : List (EccUnit × Nat)
  /-- Watchpoint select and register window address of each function's page, by function number (18 R455). -/
  watchSel : SMap Nat
  winAddr : SMap Nat
  images : List Image
  deriving DecidableEq, Repr

/-! ### The model's own fields -/

/-- The instruction that exec runs: the issuing team and group, its PC, `seq` of it, the issued lanes, whether it is the
first member of a pair, and its line address (05 R169, 06 R200). -/
structure Cur where
  team : TeamId
  group : Nat
  core : Nat
  pc : DWord
  next : DWord
  issued : Mask
  line : DWord
  first : Bool
  deriving DecidableEq, Repr

/-- What one module asks of another about lines (log 33): the form that it takes on the fabric is not in the spec. -/
inductive NoticeKind where
  /-- WOCLR of a span of pod addresses (04 R132). -/
  | clear (pod len : Nat)
  /-- A class transition of the frame of a pod page (04 R142). -/
  | retag (pod : Nat) (cls : Cls)
  /-- Every L1 copy of a span's lines is invalidated (Table 4.7). -/
  | drop (pod len : Nat)
  /-- CFLUSH or CINVAL of a line at its home (10 R296). -/
  | maintain (pod : Nat) (inval : Bool)
  /-- The end of a team's ownership of the PV lines of a span (04 R133). -/
  | release (pod len : Nat) (owner : TeamId)
  /-- The home recalls the dirty sectors of a PV line (04 R133). -/
  | recall (pod : Nat)
  deriving DecidableEq, Repr

/-- Who waits for the acknowledgement of a notice. -/
inductive NoticeFor where
  | access (id : Nat)
  | shoot (seq : Nat)
  | none
  deriving DecidableEq, Repr

/-- A notice sent to a peer of a guest and not yet acknowledged. -/
structure Notice where
  id : Nat
  gid : Nat
  peer : Nat
  kind : NoticeKind
  who : NoticeFor
  deriving DecidableEq, Repr

/-- One turn of the agenda: what happens next (assumption log 5, 11). -/
inductive Turn where
  | event (i : Instr)
  | issue (team : TeamId) (group : Nat)
  | tick (n : Nat)
  | evictL1 (core : Nat) (key : Home)
  | evictTlb (core : Nat) (lci input : Nat)
  | evictCode (core line : Nat)
  | evictLine (die lci line : Nat)
  | drainWcb (core id : Nat)
  | errorSector (die lci line sector : Nat)
  /-- An uncorrectable error in a register of a lane (18 R469). -/
  | errorReg (team : TeamId) (group lane reg : Nat)
  /-- An uncorrectable error in an accumulator element (03 R111). -/
  | errorAcc (team : TeamId) (elem : Nat)
  /-- A notice of another module arrives, by guest and peer; the acknowledgement of a notice arrives (log 33). -/
  | notice (gid peer : Nat) (k : NoticeKind)
  | noticed (id : Nat)
  /-- Units of 128 bytes of an accepted SMOVE are read at its sender; units read land at its receiver (Table 3.8, step 3). -/
  | smoveRead (id n : Nat)
  | smoveLand (id n : Nat)
  /-- A soft error that its unit corrects (18 R469). -/
  | corrected (u : EccUnit)
  /-- A host access to bytes of one line of device memory under a home chip: a write of data, or a read (04 R140, R155). -/
  | host (lci mpa : Nat) (data : Option (List Byte))
  deriving DecidableEq, Repr

/-- An interrupt raised: function and vector (15 R398). -/
structure Irq where
  fn : Fn
  vec : Nat
  deriving DecidableEq, Repr

/-- The fabric's view of other modules, trace units and counters. -/
structure Module where
  peers : SMap Peer
  guests : List (Nat × Guest)
  banks : SMap CtrBank
  sepia : SMap Sepia
  keys : SMap Nat
  dropped : SMap (Nat × Nat)
  /-- Co-scheduling hints received, and those sent to the guest's other modules: CGROUP and start (15 R399, R400). -/
  hints : List (Nat × Nat)
  hintsOut : List (Nat × Nat)
  /-- The chip whose turn it is, and 256 times the turns that it has taken (15 R393). -/
  sliceRR : Nat
  /-- Notices to other modules that wait for their acknowledgement (log 33). -/
  notices : List Notice
  deriving DecidableEq, Repr

/-- The state of one module. -/
structure State where
  gtc : Nat
  hub : Hub
  chips : List (Nat × Chip)
  teams : List Team
  cores : SMap Core
  clusters : SMap Cluster
  dies : SMap Die
  mod : Module
  /-- Local DRAM and host memory by module physical address (01 R28); an unlisted byte reads `memDefault`. -/
  mem : List Host.Cell
  /-- Poisoned 64-byte granules (03 R113). -/
  poison : SMap Bool
  /-- Written bits of 128-byte lines (04 R492). -/
  written : SMap Bool
  traffic : Traffic
  irqs : List Irq
  /-- Packets that left the module, newest first. -/
  outbox : List Packet
  /-- Model's own: the order of what happens next. -/
  agenda : List Turn
  /-- Model's own: numbers the free values. -/
  free : Nat
  /-- Model's own: numbers accesses, transactions, jobs, cards, requests and messages. -/
  ids : Nat
  /-- Model's own: the instruction being run. -/
  cur : Option Cur
  deriving DecidableEq, Repr

/-- What an unlisted byte of memory reads as (assumption log 1). -/
def memDefault : Byte := 0

/-- The canonical form of memory: addresses strictly rising, no entry equal to the default. -/
def memWf : List Host.Cell → Bool
  | [] => true
  | [c] => c.2 != memDefault
  | c :: d :: r => c.2 != memDefault && decide (c.1 < d.1) && memWf (d :: r)

/-- Why the model stops. Both are safe: they arise only where `exec` is applied outside a run of the machine. -/
inductive Fault where
  /-- An instruction is run in a state whose issue latch names no group. Raised by every instruction's meaning. Safe. -/
  | noIssuingGroup
  deriving DecidableEq, Repr

/-- Why the model gives no meaning. -/
inductive Refusal where
  /-- The instruction has no meaning yet. Raised by `exec` alone. Safe. -/
  | notModelled (mnemonic : String)
  deriving DecidableEq, Repr

/-- The hub at power-on: nothing configured (18 R455, R463). -/
def Hub.init : Hub :=
  { power := .off, position := 0, ev := EvRing.init, cmdq := QDesc.init, lqd := [], hypPrq := [], inc := [],
    shootSeq := 0, shoots := [], background := [], versions := [], seenCmd := [], hubRoutes := [], soPeers := [],
    retiredClusters := [], retiredChannels := [], retiredDies := [], throttled := false, refetch := [], corrected := [],
    watchSel := [], winAddr := [], images := [] }

/-- Nothing in flight. -/
def Traffic.init : Traffic :=
  { accesses := [], txns := [], drained := [], fetches := [], follows := [], launches := [], jobs := [], cards := [], smoves := [], barUpds := [], pages := [], msgs := [],
    tokens := [], sends := [], busy := [] }

/-- No guest and no peer. -/
def Module.init : Module :=
  { peers := [], guests := [], banks := [], sepia := [], keys := [], dropped := [], hints := [], hintsOut := [],
    sliceRR := 0, notices := [] }

/-- The module before power-good: no chip exists, and every register holds its reset value or the value that the
assumption log names (log 2, 3). -/
def State.reset : State :=
  { gtc := 0, hub := Hub.init, chips := [], teams := [], cores := [], clusters := [], dies := [], mod := Module.init,
    mem := [], poison := [], written := [], traffic := Traffic.init, irqs := [], outbox := [], agenda := [], free := 0,
    ids := 0, cur := none }

end Sys2Proof.Machine
end

