-- ==== Sys2Proof/Machine/Base.lean ====
section
/-! DEFINITION. Sparse maps, bytes, lane masks, and the lookups and updates of the state that every other operation is
written over. -/

namespace Sys2Proof.Machine

/-- The result of a step. -/
abbrev Out := Host.Outcome State Fault Refusal

/-! ### Sparse maps -/

/-- The value at `a`: the first listed, or the default. -/
def smGet {α : Type} (d : α) : SMap α → Nat → α
  | [], _ => d
  | (k, v) :: r, a => if k = a then v else smGet d r a

/-- The map without `a`. -/
def smErase {α : Type} (m : SMap α) (a : Nat) : SMap α := m.filter fun p => p.1 != a

/-- `v` at `a` in key order. -/
def smIns {α : Type} : SMap α → Nat → α → SMap α
  | [], a, v => [(a, v)]
  | (k, w) :: r, a, v => if a < k then (a, v) :: (k, w) :: r else (k, w) :: smIns r a v

/-- `v` at `a`; the default is not listed. -/
def smSet {α : Type} [DecidableEq α] (d : α) (m : SMap α) (a : Nat) (v : α) : SMap α :=
  if v = d then smErase m a else smIns (smErase m a) a v

/-- Several values. -/
def smSetAll {α : Type} [DecidableEq α] (d : α) (m : SMap α) (l : List (Nat × α)) : SMap α :=
  l.foldl (fun m p => smSet d m p.1 p.2) m

/-! ### Bytes -/

/-- Little-endian value of bytes (00 R10). -/
def leNat : List Byte → Nat
  | [] => 0
  | b :: r => b.toNat + 256 * leNat r

/-- `n` bytes of `x`, little-endian. -/
def natLe : Nat → Nat → List Byte
  | 0, _ => []
  | n + 1, x => BitVec.ofNat 8 x :: natLe n (x / 256)

/-- `n` bytes from `a`. -/
def smRead (d : Byte) (m : SMap Byte) (a : Nat) : Nat → List Byte
  | 0 => []
  | n + 1 => smGet d m a :: smRead d m (a + 1) n

/-- Bytes from `a`. -/
def smWrite (d : Byte) (m : SMap Byte) (a : Nat) : List Byte → SMap Byte
  | [] => m
  | b :: r => smWrite d (smSet d m a b) (a + 1) r

/-- Bits `[lo + len - 1 : lo]` of `x`. -/
def bits (x lo len : Nat) : Nat := (x / 2 ^ lo) % 2 ^ len

/-- `x` placed at bit `lo`, cut to `len` bits. -/
def field (x lo len : Nat) : Nat := (x % 2 ^ len) * 2 ^ lo

/-- Signed value of the low `w` bits. -/
def toSigned (w x : Nat) : Int :=
  let y := x % 2 ^ w
  if y < 2 ^ (w - 1) then (y : Int) else (y : Int) - (2 ^ w : Int)

/-- An integer modulo 2^w. -/
def wrapNat (w : Nat) (x : Int) : Nat := (x % (2 ^ w : Int)).toNat

/-- Ceiling of a quotient; 0 for a zero divisor. -/
def ceilDiv (a b : Nat) : Nat := (a + b - 1) / b

/-- `a` rounded up to a multiple of `b`. -/
def roundUp (a b : Nat) : Nat := ceilDiv a b * b

/-! ### Lane masks -/

/-- Lane numbers of a mask, rising. -/
def lanesOf (m : Mask) : List Nat := (List.range 32).filter fun l => m.getLsbD l

/-- The mask of a list of lanes. -/
def maskOf (l : List Nat) : Mask := l.foldl (fun m k => m ||| BitVec.ofNat 32 (2 ^ k)) 0

/-- The lanes for which `p` holds. -/
def maskWhere (p : Nat → Bool) : Mask := maskOf ((List.range 32).filter p)

/-- The lowest lane of a mask; 0 when empty. -/
def lowLane (m : Mask) : Nat := (lanesOf m).headD 0

/-- The highest lane of a mask; 0 when empty. -/
def highLane (m : Mask) : Nat := (lanesOf m).getLastD 0

/-! ### Scopes and classes -/

/-- CC code of a class (00 R8). -/
def Cls.code : Cls → Nat
  | .pv => 0 | .rc => 1 | .sc => 2 | .wo => 3

/-- The class of a CC code (00 R8). -/
def Cls.ofCode (c : Nat) : Cls :=
  match c % 4 with
  | 0 => .pv | 1 => .rc | 2 => .sc | _ => .wo

/-- Scope code as a number. -/
def Scope.num (s : Scope) : Nat := s.code.toNat

/-! ### Lookups and updates of the state -/

/-- The team of an identity, if it exists. -/
def State.team? (s : State) (id : TeamId) : Option Team := s.teams.find? fun t => t.id = id

/-- Replaces the team of the same identity. -/
def State.setTeam (s : State) (t : Team) : State :=
  { s with teams := s.teams.map fun u => if u.id = t.id then t else u }

/-- Applies `f` to a team. -/
def State.modTeam (s : State) (id : TeamId) (f : Team → Team) : State :=
  match s.team? id with
  | some t => s.setTeam { f t with id := id }
  | none => s

/-- Group `g` of a team. -/
def Team.group (t : Team) (g : Nat) : Group := smGet Group.init t.groups g

/-- Replaces group `g`. -/
def Team.setGroup (t : Team) (g : Nat) (x : Group) : Team := { t with groups := smSet Group.init t.groups g x }

/-- Applies `f` to group `g`. -/
def Team.modGroup (t : Team) (g : Nat) (f : Group → Group) : Team := t.setGroup g (f (t.group g))

/-- Applies `f` to a group of a team. -/
def State.modGroup (s : State) (id : TeamId) (g : Nat) (f : Group → Group) : State :=
  s.modTeam id fun t => t.modGroup g f

/-- Groups of the team: the sum of its roles' group counts (05 R157). -/
def Desc.groupCount (d : Desc) : Nat := d.roles.foldl (fun n r => n + r.groups) 0

/-- Team group numbers. -/
def Team.groupNums (t : Team) : List Nat := List.range t.desc.groupCount

/-- The chip of a local index, if it exists. -/
def State.chip? (s : State) (lci : Nat) : Option Chip := (s.chips.find? fun p => p.1 = lci).map (·.2)

/-- Replaces the chip of a local index. -/
def State.setChip (s : State) (lci : Nat) (c : Chip) : State :=
  { s with chips := s.chips.map fun p => if p.1 = lci then (lci, c) else p }

/-- Applies `f` to a chip. -/
def State.modChip (s : State) (lci : Nat) (f : Chip → Chip) : State :=
  match s.chip? lci with
  | some c => s.setChip lci (f c)
  | none => s

/-- A core. -/
def State.core (s : State) (c : Nat) : Core := smGet Core.init s.cores c
/-- Replaces a core. -/
def State.setCore (s : State) (c : Nat) (x : Core) : State := { s with cores := smSet Core.init s.cores c x }
/-- Applies `f` to a core. -/
def State.modCore (s : State) (c : Nat) (f : Core → Core) : State := s.setCore c (f (s.core c))
/-- A die. -/
def State.die (s : State) (d : Nat) : Die := smGet Die.init s.dies d
/-- Replaces a die. -/
def State.setDie (s : State) (d : Nat) (x : Die) : State := { s with dies := smSet Die.init s.dies d x }
/-- Applies `f` to a die. -/
def State.modDie (s : State) (d : Nat) (f : Die → Die) : State := s.setDie d (f (s.die d))
/-- A cluster's matrix engine. -/
def State.cluster (s : State) (c : Nat) : Cluster := smGet Cluster.init s.clusters c
/-- Applies `f` to a cluster's matrix engine. -/
def State.modCluster (s : State) (c : Nat) (f : Cluster → Cluster) : State :=
  { s with clusters := smSet Cluster.init s.clusters c (f (s.cluster c)) }
/-- A guest pod on this module. -/
def State.guest (s : State) (gid : Nat) : Guest := ((s.mod.guests.find? fun p => p.1 = gid).map (·.2)).getD Guest.init
/-- Replaces a guest. -/
def State.setGuest (s : State) (gid : Nat) (g : Guest) : State :=
  { s with mod := { s.mod with guests := smSet Guest.init s.mod.guests gid g } }
/-- Applies `f` to the records in flight. -/
def State.modTraffic (s : State) (f : Traffic → Traffic) : State := { s with traffic := f s.traffic }
/-- Applies `f` to the hub. -/
def State.modHub (s : State) (f : Hub → Hub) : State := { s with hub := f s.hub }
/-- Applies `f` to the module's tables. -/
def State.modMod (s : State) (f : Module → Module) : State := { s with mod := f s.mod }

/-- A fresh identifier of the model's own. -/
def State.fresh (s : State) : Nat × State := (s.ids, { s with ids := s.ids + 1 })

/-- The first number from a free candidate on that `used` does not hold, below `n` (log 10). -/
def freshIn (n : Nat) (cand : Nat) (used : List Nat) : Nat :=
  (((List.range (used.length + 1)).map fun i => (cand + i) % n).find? fun k => !used.contains k).getD (cand % n)

/-- The free bit numbered `k` of this step (log 7). -/
def State.freeBit (s : State) (k : Nat) : Bool := Config.freeBit s.free k

/-- Cluster of a core, die of a cluster, die of a core (00 R3): 4 cores to a cluster, 32 clusters to a die. -/
def clusterOf (core : Nat) : Nat := core / 4
/-- Die of a core. -/
def dieOf (core : Nat) : Nat := core / 128
/-- The core a resident team is on. -/
def Team.core? (t : Team) : Option Nat :=
  match t.place with
  | .resident c _ => some c
  | .parkedInPlace _ _ => none
  | .parked => none
  | .preempted => none

/-- The core that holds a team's scratchpad. -/
def Team.spadCore? (t : Team) : Option Nat :=
  match t.place with
  | .resident c _ => some c
  | .parkedInPlace c _ => some c
  | .parked => none
  | .preempted => none

/-- The teams resident on a core. -/
def State.residents (s : State) (core : Nat) : List Team := s.teams.filter fun t => t.core? = some core

end Sys2Proof.Machine
end

