-- ==== Sys2Proof/Machine/Num.lean ====
section
/-! DEFINITION. Number formats, exact values and rounding (07 R211 to R219, R230). A finite value is a sign, a natural
mantissa and a power of two, so every sum and product is exact. -/

namespace Sys2Proof.Machine

/-- Layout of a floating-point format, Table 7.1: mantissa bits, bias, width, whether it has infinities. -/
structure FFmt where
  man : Nat
  bias : Nat
  width : Nat
  hasInf : Bool
  deriving DecidableEq, Repr

/-- Table 7.1; a type that is no float is read as f32. -/
def ffmt : Ty → FFmt
  | .f16 => { man := 10, bias := 15, width := 16, hasInf := true }
  | .bf16 => { man := 7, bias := 127, width := 16, hasInf := true }
  | .e4m3 => { man := 3, bias := 7, width := 8, hasInf := false }
  | .e5m2 => { man := 2, bias := 15, width := 8, hasInf := true }
  | .i32 | .n32 | .i64 | .n64 | .i16 | .n16 | .i8 | .n8 | .f32 | .q8 | .q4 =>
    { man := 23, bias := 127, width := 32, hasInf := true }

/-- A floating-point value: (-1)^neg * m * 2^e, an infinity, or NaN. -/
inductive Fv where
  | nan
  | inf (neg : Bool)
  | fin (neg : Bool) (m : Nat) (e : Int)
  deriving DecidableEq, Repr

/-- Canonical NaN of a format (07 R212). -/
def canonNan : Ty → Nat
  | .f16 => 0x7E00 | .bf16 => 0x7FC0 | .e4m3 => 0x7F | .e5m2 => 0x7E
  | .i32 | .n32 | .i64 | .n64 | .i16 | .n16 | .i8 | .n8 | .f32 | .q8 | .q4 => 0x7FC00000

/-- Exponent field width. -/
def FFmt.ebits (f : FFmt) : Nat := f.width - 1 - f.man

/-- The exponent of the least significant bit of a subnormal. -/
def FFmt.minExp (f : FFmt) : Int := 1 - (f.bias : Int) - (f.man : Int)

/-- The value of a bit pattern (07 R211). -/
def fdecode (t : Ty) (x : Nat) : Fv :=
  let f := ffmt t
  let m := bits x 0 f.man
  let e := bits x f.man f.ebits
  let neg := bits x (f.width - 1) 1 == 1
  let top := 2 ^ f.ebits - 1
  if e = top && f.hasInf then (if m = 0 then .inf neg else .nan)
  else if e = top && m = 2 ^ f.man - 1 && !f.hasInf then .nan
  else if e = 0 then .fin neg m f.minExp
  else .fin neg (2 ^ f.man + m) ((e : Int) - 1 + f.minExp)

/-- A subnormal pattern of the format. -/
def fsub (t : Ty) (x : Nat) : Bool :=
  let f := ffmt t
  bits x f.man f.ebits = 0 && bits x 0 f.man != 0

/-- A source read with FTZ: a subnormal reads as a zero of its sign (07 R214). -/
def fread (t : Ty) (ftz : Bool) (x : Nat) : Fv :=
  if ftz && fsub t x then .fin (bits x ((ffmt t).width - 1) 1 == 1) 0 0 else fdecode t x

/-- A result written with FTZ (07 R214). -/
def fwriteFtz (t : Ty) (ftz : Bool) (x : Nat) : Nat :=
  if ftz && fsub t x then field (bits x ((ffmt t).width - 1) 1) ((ffmt t).width - 1) 1 else x

/-- Rounding mode: RM, or SR with the stepped generator state (07 R216, R218). -/
inductive Mode where
  | rm (r : Rm)
  | sr (x : Word)
  deriving DecidableEq, Repr

/-- The sign bit of a format. -/
def signBit (t : Ty) (neg : Bool) : Nat := if neg then 2 ^ ((ffmt t).width - 1) else 0

/-- Largest finite pattern of a format, without sign. -/
def maxfinBits (t : Ty) : Nat :=
  let f := ffmt t
  if f.hasInf then 2 ^ (f.width - 1) - 1 - 2 ^ f.man else 2 ^ (f.width - 1) - 2

/-- Whether the magnitude is rounded up to the next grid point: `a` its whole units, `rem / 2^sh` the rest. -/
def roundsUp (mode : Mode) (neg : Bool) (a rem sh : Nat) : Bool :=
  match mode with
  | .rm .rne => decide (2 ^ sh < 2 * rem) || (decide (2 * rem = 2 ^ sh) && a % 2 == 1 && rem != 0)
  | .rm .rz => false
  | .rm .ru => !neg && rem != 0
  | .rm .rd => neg && rem != 0
  | .sr x => decide (x.toNat % 2 ^ 24 < rem * 2 ^ 24 / 2 ^ sh)

/-- `round_to(F, v, mode, sat)` (07 R216), as a bit pattern of F. -/
def roundTo (t : Ty) (v : Fv) (mode : Mode) (sat : Bool) : Nat :=
  let f := ffmt t
  match v with
  | .nan => canonNan t
  | .inf neg =>
    if sat then signBit t neg + maxfinBits t
    else if f.hasInf then signBit t neg + maxfinBits t + 1
    else canonNan t
  | .fin neg m e =>
    if m = 0 then signBit t neg
    else
      let q := max (e + (Nat.log2 m : Int) - f.man) f.minExp
      let sh := (q - e).toNat
      let a := if q ≤ e then m * 2 ^ (e - q).toNat else m / 2 ^ sh
      let rem := if q ≤ e then 0 else m % 2 ^ sh
      let r := if roundsUp mode neg a rem sh then a + 1 else a
      let b := (q - f.minExp).toNat * 2 ^ f.man + r
      if b ≤ maxfinBits t then signBit t neg + b
      else if sat then signBit t neg + maxfinBits t
      else if !f.hasInf then canonNan t
      else
        match mode with
        | .rm .rz => signBit t neg + maxfinBits t
        | .rm .ru => if neg then signBit t neg + maxfinBits t else maxfinBits t + 1
        | .rm .rd => if neg then signBit t neg + maxfinBits t + 1 else maxfinBits t
        | .rm .rne => signBit t neg + maxfinBits t + 1
        | .sr _ => signBit t neg + maxfinBits t + 1

/-- One step of the generator (07 R218). -/
def srStep (x : Word) : Word :=
  let x := x ^^^ (x <<< 13)
  let x := x ^^^ (x >>> 17)
  x ^^^ (x <<< 5)

/-- A seed of zero is replaced (07 R219). -/
def srFix (x : Word) : Word := if x = 0 then 0x6D2B79F5 else x

/-- The seed of lane l of group g of the team of linear index n (07 R219). -/
def srSeed (seed : Word) (n g l : Nat) : Word :=
  srFix (seed ^^^ BitVec.ofNat 32 (n * 0x9E3779B9) ^^^ BitVec.ofNat 32 ((32 * g + l) * 0x85EBCA6B))

/-! ### Exact arithmetic -/

/-- The sign of a value; NaN counts as positive. -/
def Fv.neg : Fv → Bool
  | .nan => false
  | .inf n => n
  | .fin n _ _ => n

/-- A source modifier (08 R236): absolute value, then negation. -/
def Fv.modify (neg abs : Bool) (v : Fv) : Fv :=
  match v with
  | .nan => .nan
  | .inf n => .inf (xor (n && !abs) neg)
  | .fin n m e => .fin (xor (n && !abs) neg) m e

/-- Exact product; the sign is the xor of the signs (08 R242). -/
def fmulv (a b : Fv) : Fv :=
  match a, b with
  | .nan, _ => .nan
  | _, .nan => .nan
  | .inf n, .inf k => .inf (xor n k)
  | .inf n, .fin k m _ => if m = 0 then .nan else .inf (xor n k)
  | .fin n m _, .inf k => if m = 0 then .nan else .inf (xor n k)
  | .fin n m e, .fin k m' e' => .fin (xor n k) (m * m') (e + e')

/-- A finite value as a signed number of units 2^e0, for e0 at most its exponent. -/
def Fv.units (v : Fv) (e0 : Int) : Int :=
  match v with
  | .nan => 0
  | .inf _ => 0
  | .fin n m e => let x : Int := (m : Int) * 2 ^ (e - e0).toNat; if n then -x else x

/-- The least exponent of the finite values of a list. -/
def minExpOf (l : List Fv) : Int :=
  l.foldl (fun a v => match v with | .fin _ m e => if m = 0 then a else min a e | .inf _ => a | .nan => a) 0

/-- Exact sum of a list (08 R242, R251, 07 R213, R230): NaN, infinities of both signs, the sign of an exact zero. An
empty list sums to +0. `rd` is rounding down. -/
def fsum (rd : Bool) (l : List Fv) : Fv :=
  if l.contains .nan || (l.contains (.inf true) && l.contains (.inf false)) then .nan
  else if l.contains (.inf true) then .inf true
  else if l.contains (.inf false) then .inf false
  else
    let e0 := minExpOf l
    let x : Int := l.foldl (fun (a : Int) v => a + v.units e0) 0
    if x = 0 then
      let anyNeg := l.any Fv.neg
      let allNeg := l.all Fv.neg && !l.isEmpty
      .fin (allNeg || (rd && anyNeg)) 0 0
    else .fin (decide (x < 0)) x.natAbs e0

/-- Comparison of two values, neither NaN; -0 equals +0. -/
def fcmp (a b : Fv) : Ordering :=
  let rank : Fv → Int := fun v => match v with | .inf true => -1 | .inf false => 1 | .fin _ _ _ => 0 | .nan => 0
  match compare (rank a) (rank b) with
  | .eq => let e0 := minExpOf [a, b]; compare (a.units e0) (b.units e0)
  | .lt => .lt
  | .gt => .gt

/-- FMIN and FMAX (08 R242): -0 orders below +0; one NaN gives the other operand. -/
def fminmax (isMax : Bool) (a b : Fv) : Fv :=
  match a, b with
  | .nan, _ => b
  | _, .nan => a
  | a, b =>
    match fcmp a b with
    | .lt => if isMax then b else a
    | .gt => if isMax then a else b
    | .eq => if a.neg == isMax then b else a

/-- CMP of Table 8.4 on floats. -/
def floatCmp (cmp : Nat) (a b : Fv) : Bool :=
  let un := a == .nan || b == .nan
  let o := fcmp a b
  let rel := fun (k : Nat) =>
    match k with
    | 0 => o == .eq | 1 => o != .eq | 2 => o == .lt | 3 => o != .gt | 4 => o == .gt | _ => o != .lt
  if cmp < 6 then !un && rel cmp
  else if cmp = 6 then !un
  else if cmp = 7 then un
  else un || rel (cmp - 8)

/-- CMP of Table 8.4 on integers. -/
def intCmp (cmp : Nat) (a b : Int) : Bool :=
  match cmp with
  | 0 => a == b | 1 => a != b | 2 => decide (a < b) | 3 => decide (a ≤ b) | 4 => decide (b < a) | _ => decide (b ≤ a)

/-! ### Integers -/

/-- Width of an integer type in bits (Table 7.2). -/
def ibits : Ty → Nat
  | .i64 | .n64 => 64 | .i16 | .n16 => 16 | .i8 | .n8 => 8
  | .i32 | .n32 | .f32 | .f16 | .bf16 | .e4m3 | .e5m2 | .q8 | .q4 => 32

/-- A signed integer type. -/
def isigned : Ty → Bool
  | .i32 | .i64 | .i16 | .i8 => true
  | .n32 | .n64 | .n16 | .n8 | .f32 | .f16 | .bf16 | .e4m3 | .e5m2 | .q8 | .q4 => false

/-- The value of the low bits of a register in an integer type (08 R232). -/
def iread (t : Ty) (x : Nat) : Int := if isigned t then toSigned (ibits t) x else ((x % 2 ^ ibits t : Nat) : Int)

/-- Least and greatest values of an integer type (Table 7.2). -/
def imin (t : Ty) : Int := if isigned t then -(2 ^ (ibits t - 1) : Int) else 0
/-- Greatest value of an integer type. -/
def imax (t : Ty) : Int := if isigned t then (2 ^ (ibits t - 1) : Int) - 1 else (2 ^ ibits t : Int) - 1

/-- Clamp to the range of an integer type. -/
def iclamp (t : Ty) (x : Int) : Int := max (imin t) (min (imax t) x)

/-- A result of integer type as its register holds it: wrapped or clamped (07 R215), i8 and i16 sign-extended to 32 bits,
n8 and n16 zero-extended (08 R232). -/
def iwrite (t : Ty) (sat : Bool) (x : Int) : Nat :=
  let y : Int := if sat then iclamp t x else if isigned t then toSigned (ibits t) (wrapNat (ibits t) x) else
    (wrapNat (ibits t) x : Int)
  wrapNat (max 32 (ibits t)) y

/-- An integer as an exact value. -/
def Fv.ofInt (x : Int) : Fv := .fin (decide (x < 0)) x.natAbs 0

/-- A value rounded to an integer by RM (07 R217, 08 R242); `none` for NaN and infinities. -/
def froundInt (rm : Rm) (v : Fv) : Option Int :=
  match v with
  | .nan => none
  | .inf _ => none
  | .fin n m e =>
    let sh := (-e).toNat
    let a := if 0 ≤ e then m * 2 ^ e.toNat else m / 2 ^ sh
    let rem := if 0 ≤ e then 0 else m % 2 ^ sh
    let r := if roundsUp (.rm rm) n a rem sh then a + 1 else a
    some (if n then -(r : Int) else (r : Int))

end Sys2Proof.Machine
end

