-- ==== Sys2Proof/Machine/Bank.lean ====
section
/-! DEFINITION. Module physical memory: regions and channels (01 R28, 03 R112), the bank of a line (03 R86), its resident
copy, and reads and writes by walks, hardware and firmware (02 R51, 04 R155). -/

namespace Sys2Proof.Machine

/-! ### Cause codes, Table 14.2 -/

/-- ILLEGAL_OP. -/
def Cause.illegalOp : Nat := 0x01
/-- RESERVED_BITS. -/
def Cause.reservedBits : Nat := 0x02
/-- REG_BOUND. -/
def Cause.regBound : Nat := 0x03
/-- REG_GROW_IMPOSSIBLE. -/
def Cause.regGrow : Nat := 0x04
/-- MISALIGNED. -/
def Cause.misaligned : Nat := 0x05
/-- ACCESS_VIOLATION. -/
def Cause.access : Nat := 0x06
/-- INVALID_PAGE. -/
def Cause.invalidPage : Nat := 0x07
/-- CLASS_ILLEGAL_OP. -/
def Cause.classIllegal : Nat := 0x08
/-- WO_REWRITE. -/
def Cause.woRewrite : Nat := 0x09
/-- PV_FOREIGN. -/
def Cause.pvForeign : Nat := 0x0A
/-- CLASS_ALIAS. -/
def Cause.classAlias : Nat := 0x0B
/-- SCOPE_MISMATCH. -/
def Cause.scopeMismatch : Nat := 0x0C
/-- SPAD_RIGHTS. -/
def Cause.spadRights : Nat := 0x0D
/-- WINDOW_NOT_HELD. -/
def Cause.window : Nat := 0x0E
/-- PROMISE_MISSED. -/
def Cause.promise : Nat := 0x0F
/-- BARRIER_OVERFLOW. -/
def Cause.barOverflow : Nat := 0x10
/-- SCOREBOARD_UNDERSIZE. -/
def Cause.scoreboard : Nat := 0x11
/-- LINE_PARITY. -/
def Cause.lineParity : Nat := 0x12
/-- FOOTPRINT_HAZARD. -/
def Cause.footprint : Nat := 0x13
/-- FABRIC_ERROR. -/
def Cause.fabric : Nat := 0x14
/-- PEER_LOST. -/
def Cause.peerLost : Nat := 0x15
/-- BAD_TARGET. -/
def Cause.badTarget : Nat := 0x16
/-- POISON. -/
def Cause.poison : Nat := 0x17
/-- SVC. -/
def Cause.svc : Nat := 0x20
/-- BKPT. -/
def Cause.bkpt : Nat := 0x21
/-- WATCH. -/
def Cause.watch : Nat := 0x22
/-- STEP. -/
def Cause.step : Nat := 0x23

/-! ### Module physical addresses -/

/-- Region of a module physical address (Table 1.6). -/
def mpaRegion (mpa : Nat) : Nat := bits mpa 50 2
/-- Die of a local-DRAM address. -/
def mpaDie (mpa : Nat) : Nat := bits mpa 38 4
/-- Channel of a local-DRAM address (03 R112). -/
def mpaChannel (mpa : Nat) : Nat := bits mpa 12 6

/-- An address that a stage-2 leaf of a guest chip may give (01 R28). -/
def mpaLegal (mpa : Nat) : Bool :=
  (mpaRegion mpa == 0 && bits mpa 42 8 == 0) || mpaRegion mpa == 1

/-- The address lies in a hole: its channel is retired (03 R114). -/
def State.hole (s : State) (mpa : Nat) : Bool :=
  mpaRegion mpa == 0 && s.hub.retiredChannels.contains (mpaDie mpa * 64 + mpaChannel mpa)

/-! ### Banks -/

/-- The bank list of a chip for an address (03 R86). -/
def bankList (c : Chip) (mpa : Nat) : List Nat :=
  let here := c.res.banks.filter fun b => b / 32 == mpaDie mpa
  if mpaRegion mpa = 0 && !here.isEmpty then here else c.res.banks

/-- The bank of a line as die * 32 + bank (03 R86). -/
def State.bankOf (s : State) (lci mpa : Nat) : Option Nat :=
  match s.chip? lci with
  | none => none
  | some c =>
    let l := bankList c mpa
    let ln := mpa / 128
    let h := bits ln 0 15 ^^^ bits ln 15 15 ^^^ bits ln 30 15
    if l.isEmpty then none else l[h % l.length]?

/-- The die whose bank holds a line. -/
def State.lineDie (s : State) (lci mpa : Nat) : Nat :=
  match s.bankOf lci mpa with
  | some b => b / 32
  | none => mpaDie mpa

/-- The resident copy of line number `line` for home chip `lci` (03 R87). -/
def State.bankLine? (s : State) (lci line : Nat) : Option BankLine :=
  (s.die (s.lineDie lci (line * 128))).lines.find? fun b => b.lci == lci && b.line == line

/-- Installs or replaces a line. -/
def State.putLine (s : State) (b : BankLine) : State :=
  s.modDie (s.lineDie b.lci (b.line * 128)) fun d =>
    { d with lines := b :: d.lines.filter fun x => !(x.lci == b.lci && x.line == b.line) }

/-- Removes a line. -/
def State.dropLine (s : State) (lci line : Nat) : State :=
  s.modDie (s.lineDie lci (line * 128)) fun d =>
    { d with lines := d.lines.filter fun x => !(x.lci == lci && x.line == line) }

/-- LFLOOR of the bank of a line (03 R91). -/
def State.leaseFloor (s : State) (lci mpa : Nat) : Nat :=
  match s.bankOf lci mpa with
  | some b => smGet 0 (s.die (b / 32)).lfloor (b % 32)
  | none => 0

/-- Merges an expiry into LFLOOR (03 R91). -/
def State.raiseFloor (s : State) (lci mpa e : Nat) : State :=
  match s.bankOf lci mpa with
  | some b => s.modDie (b / 32) fun d =>
    { d with lfloor := smSet 0 d.lfloor (b % 32) (max e (smGet 0 d.lfloor (b % 32))) }
  | none => s

/-- Poisoned sectors that memory gives a line (03 R113, R114). -/
def State.linePoison (s : State) (line : Nat) : BitVec 4 :=
  if s.hole (line * 128) then 0xF
  else
    (if smGet false s.poison (2 * line) then 0x3 else 0) ||| (if smGet false s.poison (2 * line + 1) then 0xC else 0)

/-- Bytes of memory. -/
def State.memBytes (s : State) (mpa n : Nat) : List Byte := smRead memDefault s.mem mpa n

/-- Classes whose lines carry leases (04 R120, R121). -/
def Cls.leased : Cls → Bool
  | .rc => true | .sc => true | .wo => false | .pv => false

/-- The completion time of the latest store of a line that has left its bank, while it is still to come (04 R121). -/
def State.busyOf (s : State) (lci line : Nat) : Nat :=
  ((s.traffic.busy.find? fun p => p.1 == lci && p.2.1 == line).map (·.2.2)).getD 0

/-- Keeps the completion time of a line that leaves its bank before that time (04 R121). -/
def State.keepBusy (s : State) (b : BankLine) : State :=
  if s.gtc < b.cbusy then
    { s with traffic := { s.traffic with busy := (b.lci, b.line, b.cbusy) ::
      (s.traffic.busy.filter fun p => decide (s.gtc < p.2.2) && !(p.1 == b.lci && p.2.1 == b.line)) } }
  else s

/-- A line as it is filled from memory under a class (03 R79, R113, 04 R492). It takes the bank's LFLOOR as its latest
lease, so that no completion time of the line goes back (03 R91, 04 R120, log 69). -/
def State.fillLine (s : State) (lci line : Nat) (cls : Cls) : BankLine :=
  let f := if cls.leased then s.leaseFloor lci (line * 128) else 0
  { lci := lci, line := line, data := s.memBytes (line * 128) 128, lexp := f, lv := decide (s.gtc < f), wpod := 0,
    wfw := false, owner := none, dirty := 0, pois := s.linePoison line, wr := cls == .wo && smGet false s.written line,
    cls := cls, arec := none, cbusy := s.busyOf lci line }

/-- The line that a request of a class finds: the resident copy, or one filled from memory. -/
def State.lineFor (s : State) (lci line : Nat) (cls : Cls) : BankLine :=
  (s.bankLine? lci line).getD (s.fillLine lci line cls)

/-- Whether a WO line reads as unwritten now: WR is clear, or its write has not completed (04 R131). -/
def BankLine.unwritten (b : BankLine) (now : Nat) : Bool := b.cls == .wo && (!b.wr || decide (now < b.cbusy))

/-- The bytes of a line for a home chip, under the class of its page when the line is not resident: an unwritten WO line
reads as zero (02 R51, 04 R131). -/
def State.lineBytes (s : State) (lci line : Nat) (cls : Cls) : List Byte :=
  let b := s.lineFor lci line cls
  if b.unwritten s.gtc then List.replicate 128 0 else b.data

/-- A read of bytes at the bank by walks, hardware and firmware (02 R51). The bytes lie in one line. -/
def State.peekLine (s : State) (lci mpa n : Nat) (cls : Cls := .rc) : List Byte :=
  ((s.lineBytes lci (mpa / 128) cls).drop (mpa % 128)).take n

/-- A read of any run of bytes, line by line; `k` bounds the number of lines. -/
def State.peekGo (s : State) (lci : Nat) (cls : Cls) : Nat → Nat → Nat → List Byte
  | 0, _, _ => []
  | k + 1, mpa, n =>
    if n = 0 then []
    else
      let m := min n (128 - mpa % 128)
      s.peekLine lci mpa m cls ++ s.peekGo lci cls k (mpa + m) (n - m)

/-- A read of any run of bytes of a page of a class. -/
def State.peek (s : State) (lci mpa n : Nat) (cls : Cls := .rc) : List Byte := s.peekGo lci cls (n / 128 + 2) mpa n

/-- Replaces bytes of a list from a position. -/
def patch (l : List Byte) (at_ : Nat) (new : List Byte) : List Byte :=
  l.take at_ ++ new ++ l.drop (at_ + new.length)

/-- Sectors of 32 bytes that a run of bytes within a line touches. -/
def sectorsOf (ofs len : Nat) : BitVec 4 :=
  (List.range 4).foldl (fun m k =>
    if 32 * k < ofs + len && decide (ofs < 32 * k + 32) then m ||| BitVec.ofNat 4 (2 ^ k) else m) 0

/-- Whether a run of bytes of one line is poisoned or lies in a hole (03 R113, R114). -/
def State.badLine (s : State) (lci mpa n : Nat) : Bool :=
  s.hole mpa || ((s.lineFor lci (mpa / 128) .rc).pois &&& sectorsOf (mpa % 128) n) != 0

/-- Whether a run of bytes holds poison; `k` bounds the number of lines. -/
def State.badGo (s : State) (lci : Nat) : Nat → Nat → Nat → Bool
  | 0, _, _ => false
  | k + 1, mpa, n =>
    if n = 0 then false
    else
      let m := min n (128 - mpa % 128)
      s.badLine lci mpa m || s.badGo lci k (mpa + m) (n - m)

/-- Whether any run of bytes holds poison. -/
def State.peekBad (s : State) (lci mpa n : Nat) : Bool := s.badGo lci (n / 128 + 2) mpa n

/-- Sectors of the 64-byte granules that a run of bytes within a line covers whole (03 R113). -/
def granulesOf (ofs len : Nat) : BitVec 4 :=
  (if ofs = 0 && decide (64 ≤ len) then 0x3 else 0) |||
    (if ofs ≤ 64 && decide (128 ≤ ofs + len) then 0xC else 0)

/-- Clears the poison of the granules that a run of bytes covers whole. -/
def State.clearPoison (s : State) (mpa len : Nat) : State :=
  { s with poison := s.poison.filter fun p => !(decide (mpa ≤ 64 * p.1) && decide (64 * p.1 + 64 ≤ mpa + len)) }

/-- Bytes written to memory itself (03 R113, R114). -/
def State.memWrite (s : State) (mpa : Nat) (l : List Byte) : State :=
  if s.hole mpa then s else (State.clearPoison { s with mem := smWrite memDefault s.mem mpa l } mpa l.length)

/-- Completion time of a store that a line accepts now (04 R120): after the latest lease, which WO and PV lines do not
have. -/
def State.completion (s : State) (b : BankLine) : Nat :=
  max s.gtc (if b.cls.leased && b.lv then b.lexp else 0) + 4

/-- A store by hardware or firmware accepted by a line, with its completion time (04 R155, 03 R92). A written WO line
discards it, and so does a PV line with an owner, to whom firmware is foreign (04 R131, R133, log 70). -/
def BankLine.poked (b : BankLine) (ofs : Nat) (l : List Byte) (c : Nat) : BankLine :=
  if b.cls = .pv && b.owner.isSome then b
  else if b.cls = .wo then
    if b.wr then b
    else { b with data := patch (List.replicate 128 0) ofs l, dirty := 0xF, pois := 0, wfw := true, wpod := 0, wr := true,
                  cbusy := max b.cbusy c }
  else
    { b with data := patch b.data ofs l, dirty := b.dirty ||| sectorsOf ofs l.length,
             pois := b.pois &&& ~~~ granulesOf ofs l.length, wfw := true, wpod := 0, cbusy := max b.cbusy c }

end Sys2Proof.Machine
end

