-- ==== Sys2Proof/Machine/Xlate.lean ====
section
/-! DEFINITION. Two-stage translation (02 R41 to R63), stripes (01 R29, R30), chip tables (01 R26, 16 R421) and places
(01 R32 to R37). -/

namespace Sys2Proof.Machine

/-! ### Pod addresses and the chip table -/

/-- Pod chip number of a pod address (01 R25). -/
def podChip (chw pod : Nat) : Nat := bits pod (48 - chw) chw
/-- Chip-slot offset of a pod address. -/
def podOfs (chw pod : Nat) : Nat := pod % 2 ^ (48 - chw)
/-- The pod address of an offset in a chip's own slot. -/
def Chip.pod (c : Chip) (cofs : Nat) : Nat := c.ident.pchip * 2 ^ (48 - c.ident.chw) + cofs

/-- Where a pod chip number is homed, Table 16.3. -/
inductive ChipHome where
  | unassigned
  | here (lci : Nat)
  | peer (index : Nat) (label : Nat)
  deriving DecidableEq, Repr

/-- A peer's number: the cell position, or the scale-out index + 16 (Table 16.9). -/
def chipHomeOf (position : Nat) (e : DWord) : ChipHome :=
  let x := e.toNat
  if bits x 44 1 = 0 then .unassigned
  else if bits x 43 1 = 1 then .peer (bits x 31 12 + 16) (bits x 0 12)
  else if bits x 31 4 = position then .here (bits x 23 8)
  else .peer (bits x 31 4) (bits x 0 12)

/-- The home of a pod chip number for a guest (01 R26, 16 R421). -/
def State.chipHome (s : State) (gid pchip : Nat) : ChipHome :=
  chipHomeOf s.hub.position (smGet 0 (s.guest gid).table pchip)

/-! ### Entries -/

/-- Fields of a translation entry, Table 2.3. -/
def eType (e : Nat) : Nat := bits e 0 3
/-- RES. -/
def eRes (e : Nat) : Bool := bits e 3 1 == 1
/-- REQ. -/
def eReq (e : Nat) : Bool := bits e 4 1 == 1
/-- CC. -/
def eCls (e : Nat) : Cls := Cls.ofCode (bits e 5 2)
/-- R. -/
def eR (e : Nat) : Bool := bits e 7 1 == 1
/-- W. -/
def eW (e : Nat) : Bool := bits e 8 1 == 1
/-- X. -/
def eX (e : Nat) : Bool := bits e 9 1 == 1
/-- OVR. -/
def eOvr (e : Nat) : Bool := bits e 10 1 == 1

/-- Malformed entries (02 R45 to R50). A leaf is checked only where it is used as one, which type 0 is not. -/
def eMalformed (e stage level : Nat) : Bool :=
  let hi48 := stage == 1 && bits e 48 4 != 0
  let ovr := stage == 1 && eOvr e
  match eType e with
  | 0 => false
  | 1 => level == 0 || bits e 3 9 != 0 || bits e 52 12 != 0 || hi48
  | 2 =>
    level == 3 || bits e 52 12 != 0 || hi48 || ovr ||
      (level != 0 && bits e 11 1 != 0) ||
      (level == 0 && bits e 11 1 == 1 && bits e 12 4 != 0) ||
      (level == 1 && bits e 12 9 != 0) || (level == 2 && bits e 12 18 != 0)
  | 3 =>
    let rowl := bits e 11 5
    let stride := bits e 52 12
    !(level == 1 || level == 2) || hi48 || ovr || stride == 0 ||
      (level == 1 && decide (9 < rowl)) || (level == 2 && decide (18 < rowl)) ||
      decide (stride * 4096 < 2 ^ (12 + rowl))
  | 4 => stage == 2 || !(level == 1 || level == 2) || ovr || bits e 52 4 != 0 || bits e 11 5 != 0
  | _ => true

/-- Bytes that a leaf of a level spans, and the page size that a TLB caches (02 R47, R60). -/
def eSpan (e level : Nat) : Nat :=
  match level with
  | 0 => if bits e 11 1 = 1 then 65536 else 4096
  | 1 => 2 ^ 21
  | _ => 2 ^ 30

/-- The cached page size of a leaf: its own for a page leaf, 4 KiB for a slab or stripe (02 R60). -/
def ePage (e level : Nat) : Nat := if eType e = 2 then eSpan e level else 4096

/-- Output of a page or slab leaf (02 R47, R48). -/
def leafOutput (e level input : Nat) : Nat :=
  if eType e = 3 then
    let o := input % (if level = 1 then 2 ^ 21 else 2 ^ 30)
    let w := 2 ^ (12 + bits e 11 5)
    bits e 16 36 * 65536 + o / w * (bits e 52 12 * 4096) + o % w
  else
    let sz := eSpan e level
    bits e 12 40 * 4096 / sz * sz + input % sz

/-! ### Walks -/

/-- Kinds of access that translation distinguishes (02 R55). -/
inductive AccKind where
  | read | write | atomic | fetch
  deriving DecidableEq, Repr

/-- The outcome of a walk of one stage (02 R52). -/
inductive WalkOut where
  | ok (out : Nat) (cls : Cls) (ovr r w x : Bool) (page : Nat)
  | nonres (kind faddr level : Nat)
  /-- The cause, and the table page of R54 when a stage-1 walk meets one that stage 2 does not map. -/
  | fail (cause : Nat) (table : Option Nat)
  deriving DecidableEq, Repr

/-- The 64-bit entry at a module physical address of a stage-2 table, which lies in local DRAM (02 R42): the shared cache
of the die that holds it, where a store to it is still dirty, and otherwise memory (02 R51). `none` where it is poisoned. -/
def State.entryAt (s : State) (mpa : Nat) : Option Nat :=
  match s.dies.findSome? fun d => d.2.lines.find? fun b => b.line == mpa / 128 && b.dirty.getLsbD (mpa % 128 / 32) with
  | some b => if (b.pois &&& sectorsOf (mpa % 128) 8) ≠ 0 then none else some (leNat ((b.data.drop (mpa % 128)).take 8))
  | none =>
    if (s.linePoison (mpa / 128) &&& sectorsOf (mpa % 128) 8) ≠ 0 then none else some (leNat (s.memBytes mpa 8))

/-- What a walk cache holds for an address (02 R60). -/
def wcGet (wc : List WalkEnt) (lci kind at_ : Nat) : Option Nat :=
  (wc.find? fun w => w.lci == lci && w.kind == kind && w.at_ == at_).map WalkEnt.entry

/-- A stage-2 entry of a walk for a chip: from the walk cache, or read. -/
def State.s2Entry (s : State) (wc : List WalkEnt) (lci mpa : Nat) : Option Nat :=
  match wcGet wc lci 2 mpa with
  | some e => some e
  | none => s.entryAt mpa

/-- The stage-2 walk from a table of `level` (02 R52). A poisoned entry ends it with POISON (log 71). -/
def State.s2Go (s : State) (wc : List WalkEnt) (lci cofs : Nat) : Nat → Nat → WalkOut
  | level, table =>
    match s.s2Entry wc lci (table + 8 * bits cofs (12 + 9 * level) 9) with
    | none => .fail Cause.poison none
    | some e =>
      if eMalformed e 2 level || (eType e == 1 && bits e 50 2 != 0) then .fail Cause.invalidPage none
      else if eType e = 1 then
        match level with
        | 0 => .fail Cause.invalidPage none
        | l + 1 => s.s2Go wc lci cofs l (bits e 12 40 * 4096)
      else if eType e = 0 || !eRes e then
        if eReq e then .nonres 1 cofs level else .fail Cause.invalidPage none
      else
        let out := leafOutput e level cofs
        if mpaLegal out then .ok out (eCls e) (eOvr e) (eR e) (eW e) (eX e) (ePage e level)
        else .fail Cause.invalidPage none

/-- Root of a chip's stage-2 table; `none` while its context is not valid (Table 2.2). -/
def Chip.s2Root? (c : Chip) : Option Nat :=
  if bits c.s2.toNat 0 1 = 0 then none else some (bits c.s2.toNat 12 40 * 4096)

/-- `s2_walk` of a chip slot (02 R52); NONRES carries the chip-slot offset. -/
def State.s2Walk (s : State) (lci cofs : Nat) (wc : List WalkEnt := []) : WalkOut :=
  match (s.chip? lci).bind Chip.s2Root? with
  | none => .fail Cause.invalidPage none
  | some root => s.s2Go wc lci cofs 3 root

/-- The table entries that a stage-2 walk meets, which its die may keep (02 R60). -/
def State.s2Path (s : State) (wc : List WalkEnt) (lci cofs : Nat) : Nat → Nat → List WalkEnt
  | level, table =>
    let a := table + 8 * bits cofs (12 + 9 * level) 9
    match s.s2Entry wc lci a with
    | none => []
    | some e =>
      if eMalformed e 2 level || bits e 50 2 != 0 || eType e != 1 then []
      else
        match level with
        | 0 => []
        | l + 1 => { lci := lci, kind := 2, at_ := a, entry := e } :: s.s2Path wc lci cofs l (bits e 12 40 * 4096)

/-- The table entries of the stage-2 walk of a chip-slot offset. -/
def State.s2Trail (s : State) (wc : List WalkEnt) (lci cofs : Nat) : List WalkEnt :=
  match (s.chip? lci).bind Chip.s2Root? with
  | none => []
  | some root => s.s2Path wc lci cofs 3 root

/-- Fields of the stage-1 context, Table 2.1. -/
def Chip.s1En (c : Chip) : Bool := c.s1.getLsbD 0
/-- FLAT. -/
def Chip.flat (c : Chip) : Bool := c.s1.getLsbD 1
/-- ROOT as a pod address. -/
def Chip.s1Root (c : Chip) : Nat := bits c.s1.toNat 21 27 * 2 ^ 21
/-- SV. -/
def Chip.sv (c : Chip) : Bool := c.s1.getLsbD 64
/-- Pod address of the stripe table. -/
def Chip.stb (c : Chip) : Nat := bits c.s1.toNat 76 36 * 4096

/-- The outcome of reading bytes of the chip's own slot for a stage-1 walk (02 R53, R54). -/
inductive TableRead where
  | bytes (l : List Byte)
  | stop (w : WalkOut)
  deriving DecidableEq, Repr

/-- Which entry of a walk cache a stage-1 read is: a stripe descriptor has 32 bytes. -/
def s1Kind (n : Nat) : Nat := if n = 32 then 3 else 1

/-- Reads bytes of a stage-1 structure: the walk cache, or own slot, stage 2, then the bank (02 R51, R53, R60). -/
def State.s1Read (s : State) (wc : List WalkEnt) (lci : Nat) (c : Chip) (pod n level : Nat) : TableRead :=
  match wcGet wc lci (s1Kind n) pod with
  | some e => .bytes (natLe n e)
  | none =>
    if podChip c.ident.chw pod ≠ c.ident.pchip then .stop (.fail Cause.invalidPage none)
    else
      match s.s2Walk lci (podOfs c.ident.chw pod) wc with
      | .nonres _ _ _ => .stop (.nonres 2 (pod / 4096 * 4096) level)
      | .fail _ _ => .stop (.fail Cause.invalidPage (some (pod / 4096 * 4096)))
      | .ok out cls _ r _ _ _ =>
        if !r then .stop (.fail Cause.invalidPage (some (pod / 4096 * 4096)))
        else if s.peekBad lci out n then .stop (.fail Cause.poison none)
        else .bytes (s.peek lci out n cls)

/-- Output of a stripe leaf (01 R30, 02 R49). A MEMBERi with i at or above COUNT is not looked at: Table 1.7 calls it zero
otherwise and lists it among no reserved bits (log 72). A member beyond the pod's chip numbers is one that the chip table
does not assign (01 R26). -/
def State.stripeOut (s : State) (wc : List WalkEnt) (lci : Nat) (c : Chip) (e va level : Nat) : WalkOut :=
  let origin := bits e 16 36 * 2 ^ 21
  if !c.sv || va < origin then .fail Cause.invalidPage none
  else
    match s.s1Read wc lci c (c.stb + 32 * bits e 56 8) 32 level with
    | .stop w => w
    | .bytes l =>
      let d := leNat l
      let count := bits d 0 5
      let g := (va - origin) / 4096
      let cofs := bits d 8 32 * 4096 + g / count * 4096 + va % 4096
      let m := bits d (48 + 10 * (g % count)) 10
      if count = 0 || 16 < count || bits d 5 3 ≠ 0 || bits d 40 8 ≠ 0 || bits d 208 48 ≠ 0 ||
        2 ^ (48 - c.ident.chw) ≤ cofs then .fail Cause.invalidPage none
      else if 2 ^ c.ident.chw ≤ m then .fail Cause.access none
      else .ok (m * 2 ^ (48 - c.ident.chw) + cofs) (eCls e) false (eR e) (eW e) (eX e) 4096

/-- Address of the stage-1 entry of a VA in a table of a level (02 R53). -/
def s1At (va level table : Nat) : Nat :=
  table + 8 * (if level = 3 then bits va 39 18 else bits va (12 + 9 * level) 9)

/-- The stage-1 walk from a table of `level` (02 R53). -/
def State.s1Go (s : State) (wc : List WalkEnt) (lci : Nat) (c : Chip) (va : Nat) : Nat → Nat → WalkOut
  | level, table =>
    match s.s1Read wc lci c (s1At va level table) 8 level with
    | .stop w => w
    | .bytes l =>
      let e := leNat l
      if eMalformed e 1 level then .fail Cause.invalidPage none
      else if eType e = 1 then
        match level with
        | 0 => .fail Cause.invalidPage none
        | k + 1 => s.s1Go wc lci c va k (bits e 12 40 * 4096)
      else if eType e = 0 || !eRes e then
        if eReq e then .nonres 0 va level else .fail Cause.invalidPage none
      else if eType e = 4 then s.stripeOut wc lci c e va level
      else
        let out := leafOutput e level va
        if 2 ^ 48 ≤ out then .fail Cause.invalidPage none
        else .ok out (eCls e) false (eR e) (eW e) (eX e) (ePage e level)

/-- The table entries and the stripe descriptor that a stage-1 walk meets, with those of the stage-2 walks before each
read (02 R60). -/
def State.s1Path (s : State) (wc : List WalkEnt) (lci : Nat) (c : Chip) (va : Nat) : Nat → Nat → List WalkEnt
  | level, table =>
    let a := s1At va level table
    match s.s1Read wc lci c a 8 level with
    | .stop _ => []
    | .bytes l =>
      let e := leNat l
      let under := s.s2Trail wc lci (podOfs c.ident.chw a)
      if eMalformed e 1 level then under
      else if eType e = 1 then
        match level with
        | 0 => under
        | k + 1 => under ++ { lci := lci, kind := 1, at_ := a, entry := e } :: s.s1Path wc lci c va k (bits e 12 40 * 4096)
      else if eType e = 4 && eRes e then
        let d := c.stb + 32 * bits e 56 8
        match s.stripeOut wc lci c e va level, s.s1Read wc lci c d 32 level with
        | .ok _ _ _ _ _ _ _, .bytes m =>
          under ++ s.s2Trail wc lci (podOfs c.ident.chw d) ++ [{ lci := lci, kind := 3, at_ := d, entry := leNat m }]
        | _, _ => under
      else under

/-- Permissions of a kind of access (02 R55). -/
def allowed (r w x : Bool) : AccKind → Bool
  | .read => r
  | .write => w
  | .atomic => r && w
  | .fetch => x

/-- The outcome of a whole translation (02 R55). -/
inductive Xl where
  | here (t : Tlb) (addr : Nat)
  | remote (t : Tlb) (pod : Nat)
  | nonres (kind faddr level : Nat)
  | fail (cause : Nat) (table : Option Nat)
  deriving DecidableEq, Repr

/-- The entry that a completed translation leaves in a TLB (02 R60, R61): `sz` bytes around the input. -/
def mkTlb (lci : Nat) (isPod : Bool) (input sz : Nat) (home : Home) (cls : Cls) (s2cls r w x : Bool) (cofs : Nat) : Tlb :=
  { lci := lci, isPod := isPod, input := input / sz * sz, size := sz, home := home, cls := cls, s2cls := s2cls,
    r := r, w := w, x := x, cofs := cofs }

/-- The home-side part: stage 2 at a chip of this module (02 R55). `cls1` is the stage-1 class; `none` takes the
stage-2 class. `page1` is the stage-1 page, which covers everything where stage 1 is not walked. -/
def State.xlateHere (s : State) (wc : List WalkEnt) (self : Nat) (isPod : Bool) (input page1 : Nat) (target cofs : Nat)
    (cls1 : Option Cls) (r w x : Bool) (k : AccKind) : Xl :=
  match s.s2Walk target cofs wc with
  | .nonres _ _ level =>
    match s.chip? target with
    | some c => .nonres 1 (c.pod cofs) level
    | none => .fail Cause.invalidPage none
  | .fail cause t => .fail cause t
  | .ok out cc ovr r2 w2 x2 page2 =>
    if !allowed r2 w2 x2 k then .fail Cause.access none
    else
      let sz := min page1 page2
      let cls := match cls1 with | some c => if ovr then cc else c | none => cc
      .here (mkTlb self isPod input sz (.here target (out / sz * sz)) cls false (r && r2) (w && w2) (x && x2)
        (cofs / sz * sz)) out

/-- Translation of a pod address: the chip table, then stage 2 at home (02 R55, 01 R23, R26, 15 R410). A remote entry
without a stage-1 leaf spans 4 KiB. -/
def State.xlatePod (s : State) (wc : List WalkEnt) (lci : Nat) (c : Chip) (isPod : Bool) (input page1 pod : Nat)
    (cls1 : Option Cls) (r w x : Bool) (k : AccKind) : Xl :=
  match s.chipHome c.ident.gid (podChip c.ident.chw pod) with
  | .unassigned => .fail Cause.access none
  | .here t =>
    let locked := match s.chip? t with | some d => d.ident.tdi == 1 || d.ident.tdi == 2 | none => false
    if isPod && t != lci && locked then .fail Cause.access none
    else s.xlateHere wc lci isPod input page1 t (podOfs c.ident.chw pod) cls1 r w x k
  | .peer _ _ =>
    let sz := if cls1.isNone then 4096 else page1
    .remote (mkTlb lci isPod input sz (.remote (pod / sz * sz)) (cls1.getD .rc) cls1.isNone r w x 0) pod

/-- A fresh walk of an address (02 R43, R55): global (`isPod` false) or pod space. -/
def State.xlateWalk (s : State) (lci : Nat) (isPod : Bool) (va : Nat) (k : AccKind) (wc : List WalkEnt := []) : Xl :=
  match s.chip? lci with
  | none => .fail Cause.invalidPage none
  | some c =>
    if isPod then s.xlatePod wc lci c true va (2 ^ 30) va none true true true k
    else if !c.s1En then .fail Cause.invalidPage none
    else if c.flat then
      if 2 ^ 48 ≤ va then .fail Cause.access none
      else s.xlatePod wc lci c false va (2 ^ 30) va none true true true k
    else
      match s.s1Go wc lci c va 3 c.s1Root with
      | .nonres kind a l => .nonres kind a l
      | .fail cause t => .fail cause t
      | .ok out cls _ r w x page =>
        if !allowed r w x k then .fail Cause.access none
        else s.xlatePod wc lci c false va page out (some cls) r w x k

/-- What a fresh walk leaves in its die's walk cache (02 R60). -/
def State.xlateTrail (s : State) (wc : List WalkEnt) (lci : Nat) (isPod : Bool) (va : Nat) : List WalkEnt :=
  match s.chip? lci with
  | none => []
  | some c =>
    let home := fun (pod : Nat) => match s.chipHome c.ident.gid (podChip c.ident.chw pod) with
      | .here t => s.s2Trail wc t (podOfs c.ident.chw pod)
      | .peer _ _ => []
      | .unassigned => []
    if isPod || c.flat then home va
    else if !c.s1En then []
    else
      s.s1Path wc lci c va 3 c.s1Root ++ (match s.s1Go wc lci c va 3 c.s1Root with
        | .ok out _ _ _ _ _ _ => home out
        | .nonres _ _ _ => []
        | .fail _ _ => [])

/-! ### Translation caches (02 R60 to R63) -/

/-- The walk cache after a walk: 512 table entries and 64 stripe descriptors, the newest first. -/
def keepWalk (wc new : List WalkEnt) : List WalkEnt :=
  let all := new ++ wc.filter fun w => !new.any fun n => n.lci == w.lci && n.kind == w.kind && n.at_ == w.at_
  (all.filter fun w => w.kind != 3).take 512 ++ (all.filter fun w => w.kind == 3).take 64

/-- A fresh walk by the walkers of a die. -/
def State.walkOn (s : State) (die lci : Nat) (isPod : Bool) (va : Nat) (k : AccKind) : Xl × State :=
  let wc := (s.die die).walk
  (s.xlateWalk lci isPod va k wc, s.modDie die fun d => { d with walk := keepWalk wc (s.xlateTrail wc lci isPod va) })

/-- An entry of a chip's stage 1 that covers an address. -/
def Tlb.covers (t : Tlb) (lci : Nat) (isPod : Bool) (a : Nat) : Bool :=
  t.lci == lci && t.isPod == isPod && decide (t.input ≤ a) && decide (a < t.input + t.size)

/-- Two entries of one tag whose pages meet. -/
def Tlb.meets (t u : Tlb) : Bool :=
  t.lci == u.lci && t.isPod == u.isPod && decide (t.input < u.input + u.size) && decide (u.input < t.input + t.size)

/-- The entry of a TLB that covers an address. -/
def tlbFind (tl : List Tlb) (lci : Nat) (isPod : Bool) (a : Nat) : Option Tlb := tl.find? fun t => t.covers lci isPod a

/-- The outcome that an entry gives. -/
def Tlb.out (t : Tlb) (a : Nat) : Xl :=
  match t.home with
  | .here _ mpa => .here t (mpa + (a - t.input))
  | .remote pod => .remote t (pod + (a - t.input))

/-- The entry that a walk installs: a NONRES or FAIL outcome installs none (02 R62). -/
def Xl.entry? : Xl → Option Tlb
  | .here t _ => some t
  | .remote t _ => some t
  | .nonres _ _ _ => none
  | .fail _ _ => none

/-- A fully associative TLB of `n` entries after a walk of an address: the older entries of the tag go, the new one is
put in front, and a full TLB loses its oldest (02 R60, R63, log 11). -/
def tlbWalked (n : Nat) (tl : List Tlb) (lci : Nat) (isPod : Bool) (a : Nat) (new : Option Tlb) : List Tlb :=
  let keep := tl.filter fun t => !t.covers lci isPod a
  match new with
  | none => keep
  | some t => (t :: keep.filter fun u => !u.meets t).take n

/-- Set of the second-level TLB that holds an entry: the model's choice of index (log 11). -/
def Tlb.set (t : Tlb) : Nat := t.input / 4096 % 256

/-- The second-level TLB after a walk: 8 ways to a set, of which a full one loses its oldest. -/
def stlbWalked (tl : List Tlb) (lci : Nat) (isPod : Bool) (a : Nat) (new : Option Tlb) : List Tlb :=
  let keep := tl.filter fun t => !t.covers lci isPod a
  match new with
  | none => keep
  | some t =>
    let keep := keep.filter fun u => !u.meets t
    if (keep.filter fun u => u.set == t.set).length < 8 then t :: keep
    else t :: (keep.reverse.eraseP fun u => u.set == t.set).reverse

/-- A core's TLBs after a walk of an address: no TLB of the core keeps an older entry (02 R63). -/
def Core.walked (c : Core) (fetch : Bool) (lci : Nat) (isPod : Bool) (a : Nat) (new : Option Tlb) : Core :=
  { c with
    dtlb := tlbWalked 64 c.dtlb lci isPod a (if fetch then none else new)
    itlb := tlbWalked 16 c.itlb lci isPod a (if fetch then new else none)
    stlb := stlbWalked c.stlb lci isPod a new }

/-- A fresh walk by a core, whose outcome stands in its TLBs (02 R60 to R63). -/
def State.walkCore (s : State) (core lci : Nat) (isPod : Bool) (a : Nat) (k : AccKind) : Xl × State :=
  let r := s.walkOn (dieOf core) lci isPod a k
  (r.1, r.2.modCore core fun c => c.walked (k == .fetch) lci isPod a r.1.entry?)

/-- Translation by a core: a hit of the first level, then of the second, that allows the access is used; otherwise a fresh
walk (02 R55, R60, R62, R63). -/
def State.xlateCore (s : State) (core lci : Nat) (isPod : Bool) (a : Nat) (k : AccKind) : Xl × State :=
  let c := s.core core
  match tlbFind (if k == .fetch then c.itlb else c.dtlb) lci isPod a with
  | some t => if allowed t.r t.w t.x k then (t.out a, s) else s.walkCore core lci isPod a k
  | none =>
    match tlbFind c.stlb lci isPod a with
    | some t =>
      if allowed t.r t.w t.x k then
        (t.out a, s.modCore core fun c =>
          if k == .fetch then { c with itlb := (t :: c.itlb).take 16 } else { c with dtlb := (t :: c.dtlb).take 64 })
      else s.walkCore core lci isPod a k
    | none => s.walkCore core lci isPod a k

/-- The walk-ahead TLB of a die's engine, or the TLB of its fabric unit (02 R60). -/
def Die.tlb (d : Die) (fab : Bool) : List Tlb := if fab then d.fabTlb else d.engTlb

/-- Translation by a die's engine or fabric unit (02 R55, R60 to R63). -/
def State.xlateDie (s : State) (die : Nat) (fab : Bool) (lci a : Nat) (k : AccKind) : Xl × State :=
  let walk : Xl × State :=
    let r := s.walkOn die lci false a k
    (r.1, r.2.modDie die fun d =>
      if fab then { d with fabTlb := tlbWalked 2048 d.fabTlb lci false a r.1.entry? }
      else { d with engTlb := tlbWalked 1024 d.engTlb lci false a r.1.entry? })
  match tlbFind ((s.die die).tlb fab) lci false a with
  | some t => if allowed t.r t.w t.x k then (t.out a, s) else walk
  | none => walk

/-! ### Places -/

/-- Kinds of place, Table 1.9. -/
def placeCore : Nat := 0
/-- A die. -/
def placeDie : Nat := 1
/-- A chip. -/
def placeChip : Nat := 2

/-- First index of a kind in the place table, and its size (01 R33, R34). -/
def placeBase (kind : Nat) : Nat := match kind with | 0 => 0 | 1 => 2048 | _ => 2064
/-- Entries of a kind. -/
def placeSize (kind : Nat) : Nat := match kind with | 0 => 2048 | 1 => 16 | _ => 1024

/-- A valid entry of a kind with a target. -/
def placeNames (e : Word) (kind target : Nat) : Bool :=
  bits e.toNat 31 1 == 1 && bits e.toNat 29 2 == kind && bits e.toNat 0 11 == target

/-- The lowest logical identifier of a unit; `none` when no valid entry names it (01 R37). -/
def Chip.logical? (c : Chip) (kind target : Nat) : Option Nat :=
  c.places.foldl (fun b p =>
    if placeBase kind ≤ p.1 && p.1 < placeBase kind + placeSize kind && placeNames p.2 kind target then
      match b with
      | none => some (p.1 - placeBase kind)
      | some n => some (min n (p.1 - placeBase kind))
    else b) none

/-- Resolution of a place field for a unit of its own `self` target; `none` is ACCESS_VIOLATION (01 R33). -/
def Chip.place (c : Chip) (kind self fld : Nat) : Option Nat :=
  let n : Option Int :=
    if bits fld 11 1 = 0 then some (bits fld 0 11 : Int)
    else (c.logical? kind self).map fun k => (k : Int) + toSigned 11 fld
  match n with
  | none => none
  | some n =>
    if n < 0 || (placeSize kind : Int) ≤ n then none
    else
      let e := (smGet 0 c.places (placeBase kind + n.toNat)).toNat
      let t := bits e 0 11
      if bits e 31 1 = 0 || bits e 29 2 ≠ kind then none
      else if kind = 0 && !c.res.clusters.contains (clusterOf t) then none
      else if kind = 1 && !(c.res.clusters.any fun k => k / 32 == t) then none
      else some t

/-- Resolution of a chip place: its own logical identifier is the one that names its own pod chip number (01 R33, R37). -/
def Chip.chipPlace (c : Chip) (fld : Nat) : Option Nat := c.place placeChip c.ident.pchip fld

/-- sr.taddr of a place that fails: the field, and the kind in bits [13:12] (01 R33). -/
def placeAddr (kind fld : Nat) : Nat := bits fld 0 12 + kind * 4096

end Sys2Proof.Machine
end

