-- ==== Sys2Proof/Machine/Rings.lean ====
section
/-! DEFINITION. Event rings and interrupts (15 R396 to R398), page-request queues and their records (02 R67 to R70), and
ring accesses through a chip's stage 2 (02 R493). -/

namespace Sys2Proof.Machine

/-- Function number: the local chip index, or 256 for the physical function (18 R454). -/
def Fn.num : Fn → Nat
  | .pf => 256
  | .vf lci => lci.toNat

/-- Incarnation of a function (02 R72). -/
def State.incOf (s : State) (fn : Nat) : Nat := smGet 0 s.hub.inc fn % 65536

/-- The bytes of an event record, Table 15.4. -/
def eventRecord (code info0 info1 seq inc stamp : Nat) : List Byte :=
  natLe 4 (code % 65536) ++ natLe 2 inc ++ natLe 2 seq ++ natLe 8 stamp ++ natLe 8 info0 ++ natLe 8 info1

/-- The index distance TAIL - HEAD modulo 2^32. -/
def ringUsed (tail head : Nat) : Nat := (tail + 2 ^ 32 - head % 2 ^ 32) % 2 ^ 32

/-- The ring accepts one more record beside `extra` held ones. -/
def EvRing.accepts (r : EvRing) (extra : Nat) : Bool :=
  decide (6 ≤ r.size) && decide (r.size ≤ 16) && decide (ringUsed r.tail r.head + r.done.length + extra < 2 ^ r.size)

/-- Index of the next record to write: past those that TAIL does not announce yet. -/
def EvRing.next (r : EvRing) : Nat := (r.tail + r.done.length) % 2 ^ 32

/-- A dropped event. -/
def EvRing.lose (r : EvRing) : EvRing := { r with lost := min (r.lost + 1) 0xFFFFFFFF, posts := r.posts + 1 }

/-- TAIL advances past a written record. -/
def EvRing.advance (r : EvRing) : EvRing := { r with tail := (r.tail + 1) % 2 ^ 32, arm := false }

/-- How many of the records that wait for their announcement have completed: GTC has passed their times (04 R155). -/
def dueOf (now : Nat) (l : List Nat) : Nat := (l.takeWhile fun c => decide (c < now)).length

/-- TAIL announces `n` records (04 R155). -/
def EvRing.announce (r : EvRing) (n : Nat) : EvRing :=
  { r with tail := (r.tail + n) % 2 ^ 32, done := r.done.drop n, arm := r.arm && n == 0 }

/-- The address of record `i` of a ring of 2^size records of `n` bytes. -/
def ringAddr (base size n i : Nat) : Nat := base + n * (i % 2 ^ size)

/-- Posts an event to the physical function's ring (15 R396, R397). The ring lies in host memory: its record is released
when the posted write is issued (Table 4.3). -/
def State.postPf (s : State) (code info0 info1 : Nat) : State :=
  let r := s.hub.ev
  if r.accepts 0 then
    let rec_ := eventRecord code info0 info1 (r.posts % 65536) (s.incOf 256) s.gtc
    let s := s.memWrite (ringAddr r.base r.size 32 r.tail) rec_
    let s := if r.arm then { s with irqs := s.irqs ++ [{ fn := .pf, vec := r.vec }] } else s
    s.modHub fun h => { h with ev := { r.advance with posts := r.posts + 1 } }
  else s.modHub fun h => { h with ev := r.lose }

/-! ### Stores by hardware and firmware (04 R155) -/

/-- Lines that a bank of 4 MiB holds (Table 3.1). -/
def bankLines : Nat := 32768

/-- A bank without a free line. -/
def State.bankFull (s : State) (bank : Nat) : Bool :=
  let l := (s.die (bank / 32)).lines
  decide (bankLines ≤ l.length) &&
    decide (bankLines ≤ (l.filter fun b => s.bankOf b.lci (b.line * 128) == some bank).length)

/-- What a line leaves behind when it goes: its written bit, its lease and its completion time (03 R91, 04 R121, R492). -/
def State.lineLeaves (s : State) (b : BankLine) : State :=
  let s := if b.cls = .wo then { s with written := smSet false s.written b.line b.wr } else s
  let s := if b.lv then s.raiseFloor b.lci (b.line * 128) b.lexp else s
  (s.keepBusy b).dropLine b.lci b.line

/-- Room in the bank of a line for a store by hardware or firmware: a full bank gives up a line without poison and without
an owner, written back (03 R91, R93, log 11). -/
def State.pokeRoom (s : State) (lci line : Nat) : State :=
  match s.bankLine? lci line, s.bankOf lci (line * 128) with
  | none, some bank =>
    if s.bankFull bank then
      match (s.die (bank / 32)).lines.reverse.find? (fun b =>
        s.bankOf b.lci (b.line * 128) == some bank && b.pois == 0 && b.owner.isNone) with
      | some b =>
        (((List.range 4).filter fun k => b.dirty.getLsbD k).foldl
          (fun s k => s.memWrite (b.line * 128 + 32 * k) ((b.data.drop (32 * k)).take 32)) s).lineLeaves b
      | none => s
    else s
  | _, _ => s

/-- A store by hardware or firmware to bytes of one line: a bank store of the line's class, or of its page's class where
the line is not resident, with its completion time (04 R155, 03 R92). In a hole it is discarded (03 R114). -/
def State.pokeLine (s : State) (lci mpa : Nat) (l : List Byte) (cls : Cls) : State × Nat :=
  if s.hole mpa then (s.postPf 0x0022 (mpa / 128 * 128) lci, s.gtc)
  else
    let s := s.pokeRoom lci (mpa / 128)
    let b := s.lineFor lci (mpa / 128) cls
    let c := s.completion b
    (s.putLine (b.poked (mpa % 128) l c), c)

/-- A store of any run of bytes, line by line, and the latest completion time. -/
def State.pokeGo (lci : Nat) (cls : Cls) : Nat → State × Nat → Nat → List Byte → State × Nat
  | 0, a, _, _ => a
  | k + 1, a, mpa, l =>
    if l.isEmpty then a
    else
      let m := min l.length (128 - mpa % 128)
      let r := a.1.pokeLine lci mpa (l.take m) cls
      State.pokeGo lci cls k (r.1, max a.2 r.2) (mpa + m) (l.drop m)

/-- A store of any run of bytes by hardware or firmware to a page of a class, and its completion time. -/
def State.pokeAt (s : State) (lci mpa : Nat) (l : List Byte) (cls : Cls) : State × Nat :=
  State.pokeGo lci cls (l.length / 128 + 2) (s, s.gtc) mpa l

/-- A store of any run of bytes by hardware or firmware. -/
def State.poke (s : State) (lci mpa : Nat) (l : List Byte) (cls : Cls) : State := (s.pokeAt lci mpa l cls).1

/-! ### Page-request queues -/

/-- SIZE of a page-request queue within 6 to 16 (Table 2.9). -/
def Prq.enabled (q : Prq) : Bool := decide (6 ≤ q.size) && decide (q.size ≤ 16)

/-- A full queue. -/
def Prq.full (q : Prq) : Bool := decide (2 ^ q.size ≤ ringUsed q.tail q.head + q.done.length)

/-- Index of the next record to write. -/
def Prq.next (q : Prq) : Nat := (q.tail + q.done.length) % 2 ^ 32

/-- The queue of a function: 0 guest, 1 hypervisor (02 R67). -/
def State.prqOf (s : State) (vf queue : Nat) : Prq :=
  if queue = 0 then (match s.chip? vf with | some c => c.prq | none => Prq.init) else smGet Prq.init s.hub.hypPrq vf

/-- Replaces a page-request queue. -/
def State.setPrq (s : State) (vf queue : Nat) (q : Prq) : State :=
  if queue = 0 then s.modChip vf fun c => { c with prq := q }
  else s.modHub fun h => { h with hypPrq := smSet Prq.init h.hypPrq vf q }

/-- The bytes of a page-request record, Table 2.10. -/
def PageReq.record (p : PageReq) : List Byte :=
  natLe 8 p.faddr ++ natLe 8 p.vaddr ++ natLe 2 p.inc ++ natLe 1 p.vf ++ natLe 1 (field p.kind 0 4 + field p.level 4 2 +
    field p.acc 6 2) ++ natLe 2 p.reqid ++ natLe 2 (p.src % 1024) ++ natLe 8 0

/-- Replaces a request by number. -/
def State.modPage (s : State) (vf queue reqid : Nat) (f : PageReq → PageReq) : State :=
  s.modTraffic fun t => { t with pages := t.pages.map fun p =>
    if p.vf == vf && p.queue == queue && p.reqid == reqid then f p else p }

/-- Removes a request. -/
def State.dropPage (s : State) (vf queue reqid : Nat) : State :=
  s.modTraffic fun t => { t with pages := t.pages.filter fun p =>
    !(p.vf == vf && p.queue == queue && p.reqid == reqid) }

/-- Requests of a die whose records are written (02 R70). -/
def State.pagesPosted (s : State) (die : Nat) : Nat :=
  (s.traffic.pages.filter fun p => p.die == die && p.posted).length

/-- Writes the record of a hypervisor-queue request when there is room (02 R68, R70). -/
def State.postHyp (s : State) (p : PageReq) : State :=
  let q := s.prqOf p.vf 1
  if !q.enabled || q.full || 128 ≤ s.pagesPosted p.die then s
  else
    let s := s.memWrite (ringAddr q.base q.size 32 q.tail) p.record
    let s := s.setPrq p.vf 1 { q with tail := (q.tail + 1) % 2 ^ 32 }
    let s := s.modPage p.vf 1 p.reqid fun x => { x with posted := true }
    if ringUsed q.tail q.head = 0 then s.postPf 0x0010 1 p.vf else s

/-- Two requests that one record serves: of one page, kind and function on one die (02 R70). -/
def PageReq.same (x p : PageReq) : Bool :=
  x.queue == p.queue && x.die == p.die && x.vf == p.vf && x.kind == p.kind && x.faddr / 4096 == p.faddr / 4096

/-- Adds a request or attaches to one that serves it (02 R70). -/
def State.addPage (s : State) (p : PageReq) : State :=
  s.modTraffic fun t => { t with pages :=
    if (t.pages.any fun x => x.same p) then
      (t.pages.map fun x => if x.same p then { x with waiters := x.waiters ++ p.waiters } else x)
    else t.pages ++ [p] }

/-- A request number unique among the queue's outstanding requests (02 R68, log 10). -/
def State.pageId (s : State) (vf queue : Nat) : Nat :=
  freshIn 65536 (Config.freeNat s.free)
    ((s.traffic.pages.filter fun p => p.vf == vf && p.queue == queue).map PageReq.reqid)

/-- Writes the waiting records of the hypervisor queues in order of arrival (02 R70). -/
def State.postHyps (s : State) : State :=
  s.traffic.pages.foldl (fun (s : State) p => if p.posted || p.queue != 1 then s else s.postHyp p) s

/-- Holds an item of a chip on a page of its slot, with a request of kind S2 by an engine requester, which joins one that is
outstanding for the page (02 R70, R493). -/
def State.holdItem (s : State) (lci : Nat) (it : RingItem) (pod level : Nat) : State :=
  let page := pod / 4096 * 4096
  let s := s.modChip lci fun c => { c with held := c.held ++ [{ item := it, page := page }] }
  let p : PageReq := {
    die := 0, vf := lci, queue := 1, kind := 1, faddr := page, vaddr := 0, level := level, acc := 2,
    src := (match s.chip? lci with | some c => c.ident.pchip | none => 0), inc := s.incOf lci,
    reqid := s.pageId lci 1, posted := false, waiters := [.ring lci page] }
  (State.addPage { s with free := s.free + 1 } p).postHyps

/-- The outcome of reaching a pod address of a chip's own slot through its stage 2 (02 R493): the module physical address
and the page's class. -/
inductive RingReach where
  | at_ (mpa : Nat) (cls : Cls)
  | nonres (level : Nat)
  | fail
  deriving DecidableEq, Repr

/-- Reaches a pod address of the chip's own slot. R493 names the outcomes OK, NONRES and FAIL and no permissions: a leaf
without R for a read, or without W for a write, counts as FAIL here (log 73). A page whose request cannot be posted, since
the function's hypervisor queue is disabled, counts as FAIL too (02 R70). -/
def State.reach (s : State) (lci pod : Nat) (write : Bool) : RingReach :=
  match s.chip? lci with
  | none => .fail
  | some c =>
    if 2 ^ 48 ≤ pod || podChip c.ident.chw pod ≠ c.ident.pchip then .fail
    else
      match s.s2Walk lci (podOfs c.ident.chw pod) with
      | .nonres _ _ level => if (s.prqOf lci 1).enabled then .nonres level else .fail
      | .fail _ _ => .fail
      | .ok out cls _ r w _ _ => if (write && w) || (!write && r) then .at_ out cls else .fail

/-- Whether the item is an event record. -/
def RingItem.isEvent : RingItem → Bool
  | .event _ _ => true
  | .prq _ => false
  | .svc _ => false
  | .reply => false
  | .sepia _ _ => false
  | .dump _ => false
  | .queue _ => false
  | .record _ _ _ => false

/-- Writes an event record past TAIL of a chip's ring, to be announced once GTC has passed its completion time and `after`;
or holds or drops it (15 R397, R398, 02 R493, 04 R155). -/
def State.putEvent (s : State) (lci : Nat) (r : EvRing) (rec_ : List Byte) (after : Nat) : State :=
  let a := ringAddr r.base r.size 32 r.next
  match s.reach lci a true with
  | .at_ mpa cls =>
    let w := s.pokeAt lci mpa rec_ cls
    w.1.modChip lci fun c => { c with ev := { r with done := r.done ++ [max after w.2] } }
  | .nonres level => s.holdItem lci (.event rec_ after) a level
  | .fail => s.modChip lci fun c => { c with ev := { r with lost := min (r.lost + 1) 0xFFFFFFFF } }

/-- Posts an event to a chip's ring that follows what completes at `after`; later records of a ring wait behind a held one
(15 R397, 02 R493). -/
def State.postAfter (s : State) (lci code info0 info1 after : Nat) : State :=
  match s.chip? lci with
  | none => s
  | some c =>
    let r := c.ev
    let waiting := (c.held.filter fun h => h.item.isEvent).length
    if r.accepts waiting then
      let rec_ := eventRecord code info0 info1 (r.posts % 65536) (s.incOf lci) s.gtc
      let r' := { r with posts := r.posts + 1 }
      let s := s.modChip lci fun c => { c with ev := r' }
      if waiting = 0 then s.putEvent lci r' rec_ after
      else s.modChip lci fun c => { c with
        held := c.held ++ [{ item := .event rec_ after, page := ringAddr r.base r.size 32 r.next / 4096 * 4096 }] }
    else s.modChip lci fun c => { c with ev := r.lose }

/-- Posts an event to a chip's ring (15 R397). -/
def State.postEvent (s : State) (lci code info0 info1 : Nat) : State := s.postAfter lci code info0 info1 0

/-- Posts to a chip's ring and to the physical function's ring. -/
def State.postBoth (s : State) (lci code info0 info1 : Nat) : State :=
  (s.postEvent lci code info0 info1).postPf code info0 info1

/-- What became of a guest-queue record. -/
inductive GuestPost where
  | written (s : State)
  | waits (s : State)
  | failed (s : State)
  deriving DecidableEq, Repr

/-- Writes the record of a guest-queue request past TAIL, which announces it once its store has completed (02 R67, R68,
R493, 04 R155). -/
def State.postGuest (s : State) (p : PageReq) : GuestPost :=
  let q := s.prqOf p.vf 0
  if !q.enabled || q.full || 128 ≤ s.pagesPosted p.die then .waits s
  else
    let a := ringAddr q.base q.size 32 q.next
    match s.reach p.vf a true with
    | .at_ mpa cls =>
      let w := s.pokeAt p.vf mpa p.record cls
      .written ((w.1.setPrq p.vf 0 { q with done := q.done ++ [w.2] }).modPage p.vf 0 p.reqid fun x => { x with posted := true })
    | .nonres level => .waits (s.holdItem p.vf (.prq p.reqid) a level)
    | .fail => .failed (s.dropPage p.vf 0 p.reqid)

/-- Whether a guest record of a chip is held on a page. -/
def State.guestHeld (s : State) (vf : Nat) : Bool :=
  match s.chip? vf with
  | some c => c.held.any fun h => match h.item with
    | .prq _ => true
    | .event _ _ => false
    | .svc _ => false
    | .reply => false
    | .sepia _ _ => false
    | .dump _ => false
    | .queue _ => false
    | .record _ _ _ => false
  | none => false

/-- Writes waiting records in order of arrival; the second result is the waiters of records that failed (02 R70, R493). -/
def State.postPages (s : State) : State × List PageWaiter :=
  s.traffic.pages.foldl (fun (a : State × List PageWaiter) p =>
    if p.posted || p.queue = 2 then a
    else if p.queue = 1 then (a.1.postHyp p, a.2)
    else if a.1.guestHeld p.vf then a
    else
      match a.1.postGuest p with
      | .written s => (s, a.2)
      | .waits s => (s, a.2)
      | .failed s => (s, a.2 ++ p.waiters)) (s, [])

/-- Makes a page request; `none` when its queue is disabled (02 R67, R70). -/
def State.requestPage (s : State) (die vf kind faddr vaddr level acc src : Nat) (w : PageWaiter) :
    Option (State × List PageWaiter) :=
  let queue := if kind = 0 then 0 else 1
  if !(s.prqOf vf queue).enabled then none
  else
    let p : PageReq := {
      die := die, vf := vf, queue := queue, kind := kind, faddr := faddr,
      vaddr := if kind = 1 then 0 else vaddr, level := level, acc := acc, src := src, inc := s.incOf vf,
      reqid := s.pageId vf queue, posted := false, waiters := [w] }
    let s := { s with free := s.free + 1 }
    some (State.addPage s p).postPages

/-! ### Announcements (04 R155) -/

/-- TAIL and QTAIL of a chip's rings announce the records whose stores have completed, and an armed event ring raises its
interrupt (02 R68, 14 R375, 15 R398, 04 R155). -/
def State.announceChip (s : State) (lci : Nat) : State :=
  match s.chip? lci with
  | none => s
  | some c =>
    let p := dueOf s.gtc c.prq.done
    let s :=
      if p = 0 then s
      else
        let s := s.modChip lci fun c => { c with
          prq := { c.prq with tail := (c.prq.tail + p) % 2 ^ 32, done := c.prq.done.drop p } }
        if ringUsed c.prq.tail c.prq.head = 0 then s.postEvent lci 0x0010 0 lci else s
    let q := dueOf s.gtc c.svc.done
    let s :=
      if q = 0 then s
      else
        let s := s.modChip lci fun c => { c with
          svc := { c.svc with qtail := (c.svc.qtail + q) % 2 ^ 32, done := c.svc.done.drop q } }
        if ringUsed c.svc.qtail c.svc.qhead = 0 then s.postEvent lci 0x0012 ((c.svc.qtail + 1) % 2 ^ 32) 0 else s
    let n := dueOf s.gtc c.ev.done
    if n = 0 then s
    else
      let s := if c.ev.arm then { s with irqs := s.irqs ++ [{ fn := .vf (BitVec.ofNat 8 lci), vec := c.ev.vec }] } else s
      s.modChip lci fun c => { c with ev := c.ev.announce n }

/-- The ring of a die's trace unit announces its records (17 R451, 04 R155). -/
def State.announceSepia (s : State) (die : Nat) (u : Sepia) : State :=
  let n := dueOf s.gtc u.ring.done
  if n = 0 then s
  else
    let raised : List Irq := match u.holder with
      | some f => if u.ring.arm then [{ fn := f, vec := u.ring.vec }] else []
      | none => []
    State.modMod { s with irqs := s.irqs ++ raised } fun m => { m with sepia := smSet Sepia.init m.sepia die { u with ring := u.ring.announce n } }

/-- Posts an event whose stores to another module have all been answered (13 R364, 04 R155). -/
def State.runFollow (s : State) (f : Follow) : State :=
  let mine := s.traffic.fetches.filter fun x => x.owner == f.owner
  if !(mine.all fun x => x.ans.isSome) then s
  else
    let s := s.modTraffic fun t => { t with
      fetches := t.fetches.filter fun x => x.owner != f.owner, follows := t.follows.filter fun x => x != f }
    s.postAfter f.lci f.code f.info0 f.info1 (mine.foldl (fun c x => max c x.time) 0)

/-- Every announcement that is due. -/
def State.announce (s : State) : State :=
  let s := s.traffic.follows.foldl (fun (s : State) f => s.runFollow f) s
  s.mod.sepia.foldl (fun (s : State) p => s.announceSepia p.1 p.2)
    (s.chips.foldl (fun (s : State) p => s.announceChip p.1) s)

end Sys2Proof.Machine
end

