-- ==== Sys2Proof/Machine/Serve.lean ====
section
/-! DEFINITION. What a shared-cache bank does: stores and atomics with their completion times, reads and leases, class
aliasing, ownership, write-once lines, the scope checker, recalls, write-backs and evictions (03 R89 to R93, 04 R119 to
R148, R492). -/

namespace Sys2Proof.Machine

/-! ### Atomic operations -/

/-- The new value of an atomic operation; `w` is the operand, for cas the compare value with the new value above it
(10 R290). -/
def atomNew (op : AtomOp) (old operand : Nat) : Nat :=
  match op with
  | .addN32 => (old + operand) % 2 ^ 32
  | .addN64 => (old + operand) % 2 ^ 64
  | .minI32 => if toSigned 32 old ≤ toSigned 32 operand then old else operand
  | .maxI32 => if toSigned 32 old ≤ toSigned 32 operand then operand else old
  | .minN32 => min old operand
  | .maxN32 => max old operand
  | .andB32 => old &&& operand
  | .orB32 => old ||| operand
  | .xorB32 => old ^^^ operand
  | .exchB32 => operand
  | .exchB64 => operand
  | .casB32 => if old = operand % 2 ^ 32 then operand / 2 ^ 32 else old
  | .casB64 => if old = operand % 2 ^ 64 then operand / 2 ^ 64 else old
  | .addF32 => roundTo .f32 (fsum false [fdecode .f32 old, fdecode .f32 operand]) (.rm .rne) false

/-! ### Agents and the scope checker -/

/-- `within(s, a, b)`: b is in scope s of a (04 R146). -/
def within (sc : Scope) (a b : Agent) : Bool :=
  match sc with
  | .team => a.pchip == b.pchip && a.launch == b.launch && a.team == b.team
  | .cluster => a.pchip == b.pchip && a.die == b.die && a.clus == b.clus
  | .die => a.pchip == b.pchip && a.die == b.die
  | .device => a.pchip == b.pchip
  | .pod => true
  | .system => true

/-- The verdict of the scope checker (04 R146). -/
def scopeOk (r : Option AgentRec) (sc : Scope) (b : Agent) : Bool :=
  match r with
  | none => true
  | some r => r.kind != 0 || (within r.scope r.agent b && within sc b r.agent)

/-- The agent of a team on a core (04 R117). -/
def Team.agent (t : Team) (core : Nat) : Agent :=
  { pchip := t.pchip, die := core / 128, clus := core / 4 % 32, core := core % 4, launch := t.id.handle % 4096,
    team := t.id.index % 65536 }

/-! ### Write-backs, recalls and evictions -/

/-- Bytes of a sector. -/
def sectorBytes (l : List Byte) (k : Nat) : List Byte := (l.drop (32 * k)).take 32

/-- Replaces the sectors of a mask. -/
def mergeSectors (old new : List Byte) (m : BitVec 4) : List Byte :=
  ((List.range 4).map fun k => if m.getLsbD k then sectorBytes new k else sectorBytes old k).flatten

/-- The local chip of a guest with a pod chip number. -/
def State.chipOfPod (s : State) (gid pchip : Nat) : Option Nat :=
  (s.chips.find? fun p => p.2.ident.gid == gid && p.2.ident.pchip == pchip && !p.2.ident.incoming).map (·.1)

/-- Guest of a chip. -/
def State.gidOf (s : State) (lci : Nat) : Nat := match s.chip? lci with | some c => c.ident.gid | none => 0

/-- Tells the owner of lost data of an uncorrectable error: the chip named by WPOD, unless firmware or the host wrote last,
and the physical function (03 R93). -/
def State.postLost (s : State) (b : BankLine) : State :=
  let base := b.line * 128
  let s := s.postPf 0x0020 base b.wpod
  if b.wfw then s
  else match s.chipOfPod (s.gidOf b.lci) b.wpod with
    | some lci => s.postEvent lci 0x0020 base b.wpod
    | none => s

/-- Writes the dirty sectors of a line to memory, with poison (03 R93, R113); the line becomes clean. Only an uncorrectable
error posts UE_WRITEBACK: data that was written poisoned was no loss of the bank's. -/
def State.writeBack (s : State) (b : BankLine) : State × BankLine :=
  let base := b.line * 128
  let go := fun (s : State) (g : Nat) =>
    let dirty0 := b.dirty.getLsbD (2 * g)
    let dirty1 := b.dirty.getLsbD (2 * g + 1)
    let bad := b.pois.getLsbD (2 * g) || b.pois.getLsbD (2 * g + 1)
    if !(dirty0 || dirty1) then s
    else
      let s := if dirty0 then s.memWrite (base + 64 * g) (sectorBytes b.data (2 * g)) else s
      let s := if dirty1 then s.memWrite (base + 64 * g + 32) (sectorBytes b.data (2 * g + 1)) else s
      { s with poison := smSet false s.poison (2 * b.line + g) bad }
  let s := go (go s 0) 1
  let s := if b.dirty != 0 && s.hole base then s.postPf 0x0022 base b.lci else s
  (if (b.dirty &&& b.ue) != 0 then s.postLost b else s, { b with dirty := 0, wpod := 0, wfw := false, ue := b.ue &&& ~~~ b.dirty })

/-- The core whose L1 holds a PV line of a team. -/
def State.pvCore? (s : State) (key : Home) (owner : TeamId) : Option Nat :=
  (s.cores.find? fun c => c.2.l1.any fun l => l.key == key && l.cls == .pv && l.owner == some owner).map (·.1)

/-- The L1 line of a key. -/
def Core.line? (c : Core) (key : Home) : Option L1Line := c.l1.find? fun l => l.key == key
/-- Removes an L1 line. -/
def Core.dropKey (c : Core) (key : Home) : Core := { c with l1 := c.l1.filter fun l => !(l.key == key) }
/-- Installs or replaces an L1 line. -/
def Core.putL1 (c : Core) (l : L1Line) : Core := { c with l1 := l :: c.l1.filter fun x => !(x.key == l.key) }

/-- Scope codes that a write raises: team too for SC, scratchpad and clears (Table 4.3). -/
def raisedScopes (team : Bool) : List Nat := if team then [0, 1, 2, 3, 4, 5] else [1, 2, 3, 4, 5]

/-- A group whose pending times are at least `t` at the scopes of a write (04 R125). -/
def Group.raise (g : Group) (team : Bool) (t : Nat) : Group :=
  { g with ord := { g.ord with pend :=
      (raisedScopes team).foldl (fun p k => smSet 0 p k (max t (smGet 0 p k))) g.ord.pend } }

/-- A group whose pending time at system scope is at least `t` (Table 4.3). -/
def Group.raiseSystem (g : Group) (t : Nat) : Group :=
  { g with ord := { g.ord with pend := smSet 0 g.ord.pend 5 (max t (smGet 0 g.ord.pend 5)) } }

/-- An automatic write-back of a team's PV data raises the pending times of the team's groups: any of them may have written
it (Table 4.3, log 75). -/
def State.raiseTeam (s : State) (id : TeamId) (t : Nat) : State :=
  s.modTeam id fun u => { u with groups := u.groups.map fun p => (p.1, p.2.raise false t) }

/-- Sectors of the granules that dirty sectors cover whole (03 R113). -/
def wholeGranules (d : BitVec 4) : BitVec 4 :=
  (if d &&& 0x3 = 0x3 then 0x3 else 0) ||| (if d &&& 0xC = 0xC then 0xC else 0)

/-- A line after a write-back of an owner's dirty sectors, by a chip: a granule written whole loses its poison (03 R92,
R113). -/
def BankLine.merged (b : BankLine) (data : List Byte) (dirty : BitVec 4) (wpod : Nat) : BankLine :=
  { b with data := mergeSectors b.data data dirty, dirty := b.dirty ||| dirty, wpod := wpod, wfw := false,
           pois := b.pois &&& ~~~ wholeGranules dirty, ue := b.ue &&& ~~~ wholeGranules dirty }

/-- Merges the dirty sectors of an owner's L1 copy into the bank's line and invalidates that copy (04 R133, R151). -/
def State.recall (s : State) (b : BankLine) : State × BankLine :=
  let key : Home := .here b.lci (b.line * 128)
  match b.owner with
  | none => (s, b)
  | some o =>
    match s.pvCore? key o with
    | none => (s, b)
    | some core =>
      match (s.core core).line? key with
      | none => (s, b)
      | some l =>
        let w := match s.team? o with | some t => t.pchip | none => 0
        let s := s.modCore core fun c => c.dropKey key
        if l.dirty = 0 then (s, b)
        else
          let c := s.completion b
          (s.raiseTeam o c, { b.merged l.data l.dirty w with cbusy := max b.cbusy c })

/-- A PV owner on another module stands under a local chip index from 4,096 on: 4,096 plus its pod chip number (log 42). -/
def farLci : Nat := 4096

/-- Pod chip number of an owner on another module. -/
def BankLine.farOwner? (b : BankLine) : Option Nat :=
  match b.owner with
  | some o => if farLci ≤ o.lci then some (o.lci - farLci) else none
  | none => none

/-- Sends a notice to a peer of a guest, to be acknowledged (log 33). -/
def State.notify (s : State) (gid peer : Nat) (k : NoticeKind) (who : NoticeFor) : State :=
  let r := s.fresh
  r.2.modMod fun m => { m with notices := m.notices ++ [{ id := r.1, gid := gid, peer := peer, kind := k, who := who }] }

/-- Recalls the dirty sectors of an owner on another module, once (04 R133, log 33). -/
def State.recallFar (s : State) (b : BankLine) (pchip : Nat) : State :=
  let gid := s.gidOf b.lci
  if s.mod.notices.any fun n => n.gid == gid && n.kind == .recall b.opod then s
  else
    match s.chipHome gid pchip with
    | .peer idx _ => s.notify gid idx (.recall b.opod) .none
    | .here _ => s
    | .unassigned => s

/-- Removes a line from its bank: recall, write-back, written bit, lease floor, completion time (03 R91, R93, 04 R121, R133,
R148, R492). -/
def State.evictHere (s : State) (b : BankLine) : State :=
  let r := s.recall b
  let w := r.1.writeBack r.2
  w.1.lineLeaves w.2

/-- Removes a line from its bank. The dirty sectors of an owner on another module are recalled first: the line leaves once
they have come back (04 R133, log 33). -/
def State.evictLine (s : State) (lci line : Nat) : State :=
  match s.bankLine? lci line with
  | none => s
  | some b =>
    match b.farOwner? with
    | some p => s.recallFar b p
    | none => s.evictHere b

/-- Room in the bank of a line that is not resident: a full bank gives up one of its lines, which the spec does not name
(03 R91, log 11). -/
def State.bankRoom (s : State) (lci line : Nat) : State :=
  match s.bankLine? lci line, s.bankOf lci (line * 128) with
  | none, some bank =>
    if s.bankFull bank then
      let l := (s.die (bank / 32)).lines.filter fun b => s.bankOf b.lci (b.line * 128) == some bank && b.farOwner?.isNone
      match l[Config.freeNat s.free % max 1 l.length]? with
      | some b => s.evictHere b
      | none => s
    else s
  | _, _ => s

/-- A line without an owner, and without a PV owner's record. -/
def BankLine.disowned (b : BankLine) : BankLine :=
  { b with owner := none, arec := match b.arec with | some a => if a.kind = 1 then none else some a | none => none }

/-- Ends the ownership of a PV line with its record; dirty data is merged first (04 R133). -/
def State.endOwner (s : State) (b : BankLine) : State :=
  let r := s.recall b
  r.1.putLine r.2.disowned

/-- A record leaves its bank: a kind-1 record ends the ownership (04 R148). -/
def State.dropRecord (s : State) (lci line : Nat) : State :=
  match s.bankLine? lci line with
  | none => s
  | some b =>
    match b.arec with
    | none => s
    | some a =>
      if a.kind = 1 then
        match b.farOwner? with
        | some p => s.recallFar b p
        | none => s.endOwner b
      else s.putLine { b with arec := none }

/-- Makes room for one more agent record in the bank of a line: at most 2,048, least recently used kind 0 first
(04 R145, R148). Lines stand in order of use. -/
def State.recordRoom (s : State) (lci line : Nat) : State :=
  match s.bankOf lci (line * 128) with
  | none => s
  | some bank =>
    let held := (s.die (bank / 32)).lines.filter fun b => b.arec.isSome && s.bankOf b.lci (b.line * 128) == some bank
    if held.length < 2048 then s
    else
      let kind0 := held.filter fun b => match b.arec with | some a => a.kind == 0 | none => false
      match (if kind0.isEmpty then held else kind0).getLast? with
      | some b => s.dropRecord b.lci b.line
      | none => s

/-! ### Requests at a bank -/

/-- Who asks: the agent, its team, and the writer that WPOD names (`none`: firmware or the host) (03 R92, 04 R117). -/
structure Who where
  agent : Agent
  team : Option TeamId
  writer : Option Nat
  /-- Only team agents are checked and recorded (04 R146). -/
  checked : Bool
  /-- Pod address of the line for a requester on another module. -/
  pod : Nat := 0
  deriving DecidableEq, Repr

/-- A request of one line: its home chip and line, class, order, scope and lanes (addresses are byte offsets in the
module physical space). -/
structure BankReq where
  lci : Nat
  line : Nat
  cls : Cls
  sync : Bool
  scope : Scope
  who : Who
  lanes : List TxnLane
  deriving DecidableEq, Repr

/-- What a bank answers: lanes, completion time or lease expiry, and the state. -/
structure BankRes where
  st : State
  answers : List LaneAns
  time : Nat
  deriving DecidableEq, Repr

/-- Every lane answered with one cause. -/
def failAll (l : List TxnLane) (cause : Nat) : List LaneAns :=
  l.map fun t => { lane := t.lane, data := List.replicate t.bytes 0, valid := false, cause := some (cause, t.ea), member := none }

/-- The line that a request meets, if its class agrees (04 R140). -/
def State.meetLine (s : State) (q : BankReq) : Option BankLine :=
  match s.bankLine? q.lci q.line with
  | some b => if b.cls = q.cls then some b else none
  | none => some (s.fillLine q.lci q.line q.cls)

/-- The state in which a request is served: a line that is not resident has room in its bank. -/
def State.bankReady (s : State) (q : BankReq) : State := s.bankRoom q.lci q.line

/-- The causes found before any lane is performed: CLASS_ALIAS, PV_FOREIGN, SCOPE_MISMATCH (04 R133, R140, R146). -/
def bankCause (b : BankLine) (q : BankReq) : Option Nat :=
  if q.cls = .pv && b.owner.isSome && b.owner != q.who.team then some Cause.pvForeign
  else if q.who.checked && q.sync && !scopeOk b.arec q.scope q.who.agent then some Cause.scopeMismatch
  else none

/-- The line after the request's record is kept: the PV owner, or the synchronising agent (04 R133, R146). -/
def bankRecord (b : BankLine) (q : BankReq) : BankLine :=
  if q.cls = .pv then
    if b.owner.isSome || q.who.team.isNone then b
    else { b with owner := q.who.team, opod := q.who.pod, arec := some { kind := 1, scope := .team, agent := q.who.agent } }
  else if q.who.checked && q.sync then { b with arec := some { kind := 0, scope := q.scope, agent := q.who.agent } }
  else b

/-- Whether the request adds a record. -/
def addsRecord (b : BankLine) (q : BankReq) : Bool := b.arec.isNone && (bankRecord b q).arec.isSome

/-- Applies a store lane to a line's bytes. -/
def storeLane (l : List Byte) (t : TxnLane) : List Byte := patch l (t.addr % 128) t.data

/-- The mask of sectors of all lanes. -/
def lanesSectors (l : List TxnLane) : BitVec 4 := l.foldl (fun m t => m ||| sectorsOf (t.addr % 128) t.bytes) 0

/-- Whether the lanes together cover a 64-byte granule of the line. -/
def coversGranule (l : List TxnLane) (g : Nat) : Bool :=
  (List.range 64).all fun i => l.any fun t =>
    decide (t.addr % 128 ≤ 64 * g + i) && decide (64 * g + i < t.addr % 128 + t.bytes)

/-- Sectors that a store writes with poison (03 R111). -/
def badSectors (l : List TxnLane) : BitVec 4 := lanesSectors (l.filter TxnLane.bad)

/-- The poison that a store leaves (03 R113). -/
def storePois (b : BankLine) (l : List TxnLane) : BitVec 4 :=
  badSectors l |||
    (if b.pois = 0 then 0
     else b.pois &&& ~~~ ((if coversGranule l 0 then 0x3 else 0) ||| (if coversGranule l 1 then 0xC else 0)))

/-- A performed lane's answer. -/
def laneOk (t : TxnLane) (data : List Byte) : LaneAns :=
  { lane := t.lane, data := data, valid := true, cause := none, member := none }

/-- Sectors with an uncorrectable error that a store leaves: those that stay poisoned. -/
def storeUe (b : BankLine) (l : List TxnLane) : BitVec 4 := b.ue &&& storePois b l

/-- Marks the writer of a line (03 R92). -/
def markWriter (b : BankLine) (w : Option Nat) : BankLine :=
  match w with
  | some p => { b with wpod := p, wfw := false }
  | none => { b with wpod := 0, wfw := true }

/-- A line after it has accepted a store with a completion time. -/
def BankLine.stored (b : BankLine) (q : BankReq) (c : Nat) : BankLine :=
  let b := markWriter (bankRecord b q) q.who.writer
  if q.cls = .wo then
    { b with data := q.lanes.foldl storeLane (List.replicate 128 0), dirty := 0xF, pois := badSectors q.lanes, ue := 0,
             wr := true, cbusy := max b.cbusy c }
  else
    { b with data := q.lanes.foldl storeLane b.data, dirty := b.dirty ||| lanesSectors q.lanes, pois := storePois b q.lanes,
             ue := storeUe b q.lanes, cbusy := max b.cbusy c }

/-- A bank accepts a store (04 R119, R120, R131). -/
def State.bankStore (s : State) (q : BankReq) : BankRes :=
  if s.hole (q.line * 128) then
    { st := s.postPf 0x0022 (q.line * 128) q.lci, answers := q.lanes.map fun t => laneOk t [], time := s.gtc + 4 }
  else
    let s := s.bankReady q
    match s.meetLine q with
    | none => { st := s, answers := failAll q.lanes Cause.classAlias, time := s.gtc }
    | some b =>
      match bankCause b q with
      | some c => { st := s, answers := failAll q.lanes c, time := s.gtc }
      | none =>
        if q.cls = .wo && b.wr then { st := s, answers := failAll q.lanes Cause.woRewrite, time := s.gtc }
        else
          let s := if addsRecord b q then s.recordRoom q.lci q.line else s
          let c := s.completion b
          { st := s.putLine (b.stored q c), answers := q.lanes.map fun t => laneOk t [], time := c }

/-- Width in bytes of the memory operand of an atomic (10 R289). -/
def atomWidth (op : AtomOp) : Nat :=
  match op with
  | .addN64 | .exchB64 | .casB64 => 8
  | .addN32 | .minI32 | .maxI32 | .minN32 | .maxN32 | .andB32 | .orB32 | .xorB32 | .exchB32 | .casB32 | .addF32 => 4

/-- One lane of an atomic at a line: a poisoned operand is not performed (03 R113). -/
def BankLine.atomLane (b : BankLine) (op : AtomOp) (t : TxnLane) : BankLine × LaneAns :=
  let w := atomWidth op
  if (b.pois &&& sectorsOf (t.addr % 128) w) ≠ 0 then
    (b, { lane := t.lane, data := List.replicate t.bytes 0, valid := false, cause := some (Cause.poison, t.ea), member := none })
  else
    let old := (b.data.drop (t.addr % 128)).take w
    let new := natLe w (atomNew op (leNat old) (leNat t.data))
    ({ b with data := patch b.data (t.addr % 128) new, dirty := b.dirty ||| sectorsOf (t.addr % 128) w }, laneOk t old)

/-- A line after atomics of lanes, in lane order, with their answers. -/
def BankLine.atoms (b : BankLine) (op : AtomOp) (l : List TxnLane) : BankLine × List LaneAns :=
  l.foldl (fun (a : BankLine × List LaneAns) t => let r := a.1.atomLane op t; (r.1, a.2 ++ [r.2])) (b, [])

/-- A bank performs atomics lane by lane (04 R119, R130, 10 R290). The writer is recorded only if some lane wrote (03 R92). -/
def State.bankAtomic (s : State) (q : BankReq) (op : AtomOp) : BankRes :=
  if s.hole (q.line * 128) then
    { st := s.postPf 0x0022 (q.line * 128) q.lci, answers := failAll q.lanes Cause.poison, time := s.gtc }
  else if q.cls = .wo then { st := s, answers := failAll q.lanes Cause.classIllegal, time := s.gtc }
  else
    let s := s.bankReady q
    match s.meetLine q with
    | none => { st := s, answers := failAll q.lanes Cause.classAlias, time := s.gtc }
    | some b =>
      match bankCause b q with
      | some c => { st := s, answers := failAll q.lanes c, time := s.gtc }
      | none =>
        let s := if addsRecord b q then s.recordRoom q.lci q.line else s
        let c := s.completion b
        let r := (bankRecord b q).atoms op q.lanes
        let b := if r.2.any fun a => a.cause.isNone then { markWriter r.1 q.who.writer with cbusy := max r.1.cbusy c } else r.1
        { st := s.putLine b, answers := r.2, time := c }

/-- Whether a read of a line is served now: SC and RC reads wait for the completion of accepted stores (04 R121). -/
def State.readReady (s : State) (lci line : Nat) (cls : Cls) : Bool :=
  let b := s.lineFor lci line cls
  b.cls != cls || !cls.leased || decide (b.cbusy ≤ s.gtc)

/-- A bank serves a read, with a lease of `lease` ticks when it is nonzero (04 R121, R122, R131, 03 R93). The time is
the lease expiry, or 0. -/
def State.bankRead (s : State) (q : BankReq) (lease : Nat) : BankRes :=
  if s.hole (q.line * 128) then
    { st := s.postPf 0x0022 (q.line * 128) q.lci, answers := failAll q.lanes Cause.poison, time := 0 }
  else
    let s := s.bankReady q
    match s.meetLine q with
    | none => { st := s, answers := failAll q.lanes Cause.classAlias, time := 0 }
    | some b =>
      match bankCause b q with
      | some c => { st := s, answers := failAll q.lanes c, time := 0 }
      | none =>
        let s := if addsRecord b q then s.recordRoom q.lci q.line else s
        let b := bankRecord b q
        let unwritten := b.unwritten s.gtc
        let leased := q.cls.leased && lease != 0
        let e := if leased then s.gtc + min lease 4096 else 0
        let b := if leased then { b with lexp := max b.lexp e, lv := true } else b
        let ans := q.lanes.map fun t =>
          if unwritten then { laneOk t (List.replicate t.bytes 0) with valid := false }
          else if (b.pois &&& sectorsOf (t.addr % 128) t.bytes) ≠ 0 then
            { laneOk t (List.replicate t.bytes 0) with valid := false, cause := some (Cause.poison, t.ea) }
          else laneOk t ((b.data.drop (t.addr % 128)).take t.bytes)
        { st := s.putLine b, answers := ans, time := e }

/-- One more refetch of a bank: its counter of 64 bits saturates (03 R93, 18 Table 18.1). -/
def State.countRefetch (s : State) (bank : Nat) : State :=
  s.modHub fun h => { h with refetch := smSet 0 h.refetch bank (min (smGet 0 h.refetch bank + 1) (2 ^ 64 - 1)) }

/-- An uncorrectable error in a sector of a resident line (03 R93): a clean line leaves the bank, is served again from
memory, and is counted; a dirty sector is marked poisoned. The spec gives no result for a clean sector of a line that has
other dirty sectors: there the error does nothing here (log 74). -/
def State.sectorError (s : State) (die lci line sector : Nat) : State :=
  match s.bankLine? lci line with
  | none => s
  | some b =>
    let bit := BitVec.ofNat 4 (2 ^ sector)
    if b.dirty.getLsbD sector then s.putLine { b with pois := b.pois ||| bit, ue := b.ue ||| bit }
    else if b.dirty = 0 then (s.evictLine lci line).countRefetch ((s.bankOf lci (line * 128)).getD (die * 32))
    else s

/-- The sweep of a bank clears leases that GTC has passed (03 R90). -/
def State.sweepBank (s : State) (die bank : Nat) : State :=
  let hit := fun (b : BankLine) =>
    s.bankOf b.lci (b.line * 128) == some (die * 32 + bank) && b.lv && decide (b.lexp ≤ s.gtc)
  s.modDie die fun d => { d with lines := d.lines.map fun b => if hit b then { b with lv := false } else b }

/-! ### What a debug dump shows (Tables 3.4 and 4.8) -/

/-- The state word of a line, Table 3.4. The core-local handle of a PV owner, which no rule defines, is a free value of the
team (log 76). -/
def State.lineWord (s : State) (b : BankLine) : DWord :=
  let slot := match b.owner with
    | some o => (match s.team? o with
      | some t => (match t.place with | .resident _ k => k | .parkedInPlace _ k => k | .parked => 0 | .preempted => 0)
      | none => 0)
    | none => 0
  let handle := match b.owner with | some o => Config.freeNat (o.handle * 2 ^ 32 + o.index) | none => 0
  BitVec.ofNat 64 (field b.lexp 50 14 + field (if b.lv then 1 else 0) 49 1 + field b.wpod 39 10 +
    field (if b.wfw then 1 else 0) 38 1 + field handle 27 11 + field slot 22 5 + field (if b.owner.isSome then 1 else 0) 19 1 +
    field b.dirty.toNat 15 4 + field b.pois.toNat 11 4 + field (if b.wr then 1 else 0) 10 1 + field b.cls.code 8 2)

/-- An agent record as a word, Table 4.8. -/
def AgentRec.word (r : AgentRec) : DWord :=
  BitVec.ofNat 64 (2 ^ 63 + field r.kind 62 1 + field (if r.kind = 0 then r.scope.code.toNat else 0) 59 3 + field r.agent.pchip 49 10 +
    field r.agent.die 45 4 + field r.agent.clus 40 5 + field r.agent.core 38 2 + field r.agent.launch 26 12 +
    field r.agent.team 10 16)

end Sys2Proof.Machine
end

