-- ==== Sys2Proof/Machine/Trace.lean ====
section
/-! DEFINITION. Counters (17 R453) and Sepia trace records (17 R450, R451). -/

namespace Sys2Proof.Machine

/-- A counter after `n` more events, saturating at 2^63 - 1. -/
def ctrAdd (v n : Nat) : Nat := min (v + n) (2 ^ 63 - 1)

/-- A bank after `n` events of a select. -/
def CtrBank.count (b : CtrBank) (select n : Nat) : CtrBank :=
  { b with val := (List.range 16).foldl (fun v k =>
    if smGet 0 b.sel k = select then smSet 0 v k (ctrAdd (smGet 0 v k) n) else v) b.val }

/-- Counts `n` events of a select for a chip on a die (17 R453). -/
def State.count (s : State) (die lci select n : Nat) : State :=
  if s.mod.banks.isEmpty then s
  else
    s.modMod fun m => { m with banks := m.banks.map fun p =>
      if p.1 / 8 = die && p.2.holder.isSome && (p.2.chip == none || p.2.chip == some lci) then (p.1, p.2.count select n)
      else p }

/-- PHASE of a barrier object in a team's scratchpad (Table 9.3). -/
def Team.phaseAt (t : Team) (ofs : Nat) : Nat := bits (leNat (smRead 0 t.spad ofs 16)) 80 16

/-- The record of Table 17.7. -/
def traceRecord (kind detail kphase group : Nat) (id : TeamId) (stamp info : Nat) : List Byte :=
  natLe 8 (kind % 256 + detail % 256 * 2 ^ 8 + kphase % 65536 * 2 ^ 56) ++
  natLe 8 ((kphase % 65536) / 256 + group % 32 * 2 ^ 15 + id.handle % 4096 * 2 ^ 20 + id.index % 2 ^ 32 * 2 ^ 32) ++
  natLe 8 stamp ++ natLe 8 info

/-- Whether a unit records events of a kind of a team (17 R450). -/
def Sepia.admits (u : Sepia) (id : TeamId) (kind : Nat) : Bool :=
  u.holder.isSome && (u.chip == none || u.chip == some id.lci) &&
    (u.launch == none || u.launch == some id.handle) && decide (u.teamLo ≤ id.index) && decide (id.index ≤ u.teamHi) &&
    u.kinds.testBit kind

/-- Records of a die's unit wait for a page of a chip. -/
def State.sepiaHeld (s : State) (lci die : Nat) : Bool :=
  match s.chip? lci with
  | none => false
  | some c => c.held.any fun h => match h.item with
    | .sepia d _ => d == die
    | _ => false

/-- Writes records of 32 bytes, one after the other, at TAIL of a unit's ring, or drops them whole (17 R450, R451). -/
def State.sepiaPut (s : State) (die : Nat) (u : Sepia) (recs : List (List Byte)) : State :=
  let r := u.ring
  let set := fun (s : State) (r : EvRing) =>
    s.modMod fun m => { m with sepia := smSet Sepia.init m.sepia die { smGet Sepia.init m.sepia die with ring := r } }
  if !r.accepts (recs.length - 1) then set s { r with lost := min (r.lost + 1) 0xFFFFFFFF }
  else
    match u.holder with
    | none => s
    | some .pf =>
      let s := recs.zipIdx.foldl (fun s p => s.memWrite (ringAddr r.base r.size 32 (r.tail + p.2)) p.1) s
      set (if r.arm then { s with irqs := s.irqs ++ [{ fn := .pf, vec := r.vec }] } else s)
        { r with tail := (r.tail + recs.length) % 2 ^ 32, arm := false, posts := r.posts + recs.length }
    | some (.vf lci) =>
      if s.sepiaHeld lci.toNat die then
        s.modChip lci.toNat fun c => { c with
          held := c.held ++ [{ item := .sepia die recs.flatten, page := ringAddr r.base r.size 32 r.next / 4096 * 4096 }] }
      else
      match s.reach lci.toNat (ringAddr r.base r.size 32 r.next) true with
      | .at_ mpa cls =>
        let w := recs.zipIdx.foldl (fun (a : State × List Nat) p =>
          let w := match a.1.reach lci.toNat (ringAddr r.base r.size 32 (r.next + p.2)) true with
            | .at_ m c => a.1.pokeAt lci.toNat m p.1 c
            | .nonres _ => a.1.pokeAt lci.toNat (mpa + 32 * p.2) p.1 cls
            | .fail => (a.1, a.1.gtc)
          (w.1, a.2 ++ [w.2])) (s, [])
        set w.1 { r with done := r.done ++ w.2, posts := r.posts + recs.length }
      | .nonres level => s.holdItem lci.toNat (.sepia die recs.flatten) (ringAddr r.base r.size 32 r.next) level
      | .fail => set s { r with lost := min (r.lost + 1) 0xFFFFFFFF }

/-- Records an event of a team at a core (17 R450). -/
def State.trace (s : State) (core : Nat) (t : Team) (group kind detail info : Nat) : State :=
  let die := core / 128
  match s.mod.sepia.find? fun p => p.1 = die with
  | none => s
  | some p =>
    let u := p.2
    if u.admits t.id kind then
      let kp := if u.keybar = 0xFFFFFFFF || !t.bars.contains u.keybar then 0xFFFF else t.phaseAt u.keybar
      s.sepiaPut die u [traceRecord kind detail kp group t.id s.gtc info]
    else s

end Sys2Proof.Machine
end

