-- ==== Sys2Proof/Machine/Fetch.lean ====
section
/-! DEFINITION. Program counters, fetch lines, the line word checks and `seq` (06 R180 to R187, R199, 02 R57, 04 R135). -/

namespace Sys2Proof.Machine

/-- The line address of a program counter (06 R183). -/
def pcLine (pc : Nat) : Nat := pc / 64 * 64
/-- The slot number of a program counter. -/
def pcSlot (pc : Nat) : Nat := pc % 64

/-- OP of a slot word. -/
def slotOp (w : IWord) : BitVec 8 := w.extractLsb' 88 8
/-- Family of a slot word. -/
def slotFamily (w : IWord) : Nat := (slotOp w).toNat / 16

/-- A pair that R199 allows. -/
def pairLegal (a b : IWord) : Bool :=
  let single := fun (w : IWord) => slotFamily w == 0 || decide (6 ≤ slotFamily w)
  !isFormatX (slotOp a) && !isFormatX (slotOp b) && slotFamily a != 0 && !(single a && single b) &&
    (Sched.ofWord a).stall == 0 && !(Sched.ofWord a).fin

/-- The cause of a malformed line word (Table 6.3), as far as the line itself shows. -/
def lineMalformed (l : Line) : Option Nat :=
  let slots := List.range 5
  if l.lver ≠ 0 then some Cause.reservedBits
  else if slots.any fun i => l.pair i && l.pair (i + 1) then some Cause.illegalOp
  else if slots.any fun i => l.pair i && (l.isData i || l.isData (i + 1) || !pairLegal (l.slot i) (l.slot (i + 1))) then
    some Cause.illegalOp
  else if slots.any fun i => l.tgt i && l.isData i then some Cause.illegalOp
  else if slots.any fun i => !l.isData i && isFormatX (slotOp (l.slot i)) &&
      (slots.any fun j => decide (i < j) && decide (j ≤ i + 4) && !l.isData j) then some Cause.illegalOp
  else none

/-- The outcome of a fetch: a line, or a cause; and the state with what the fetch cached. -/
inductive FetchOut where
  | line (l : Line) (s : State)
  | fail (cause : Nat) (s : State)
  deriving DecidableEq, Repr

/-- Bytes as a line. -/
def lineOf (l : List Byte) : Line := BitVec.ofNat 512 (leNat l)

/-- Reads a code line at its physical address: the instruction cache, then the shared cache or memory; a line whose
parity fails is fetched again once (06 R182). -/
def State.readCode (s : State) (core lci mpa : Nat) (cls : Cls) : FetchOut :=
  match (s.core core).icache.find? fun p => p.1 = mpa && Line.parityOk p.2 with
  | some p => .line p.2 s
  | none =>
    let alias_ := match s.bankLine? lci (mpa / 128) with | some b => b.cls != cls | none => false
    let pois := match s.bankLine? lci (mpa / 128) with | some b => b.pois | none => s.linePoison (mpa / 128)
    if alias_ then .fail Cause.classAlias s
    else if s.hole mpa then .fail Cause.poison (s.postPf 0x0022 (mpa / 128 * 128) lci)
    else if (pois &&& sectorsOf (mpa % 128) 64) ≠ 0 then .fail Cause.poison s
    else
      let l := lineOf (s.peek lci mpa 64 cls)
      let s := s.modCore core fun c => { c with icache := (mpa, l) :: c.icache.filter fun p => p.1 != mpa }
      if l.parityOk then .line l s else .fail Cause.lineParity s

/-- Notes the event of R54 when a walk met an unmapped stage-1 table (02 R54). -/
def State.noteTable (s : State) (lci : Nat) (t : Option Nat) : State :=
  match t with
  | some a => s.postPf 0x0011 a lci
  | none => s

/-- A fetch of a line by a core for a chip (02 R57, 04 R135). -/
def State.fetchLine (s : State) (core lci addr : Nat) : FetchOut :=
  if 2 ^ 57 ≤ addr then .fail Cause.access s
  else
    let r := s.xlateCore core lci false addr .fetch
    let s := r.2
    match r.1 with
    | .fail c t => .fail c (s.noteTable lci t)
    | .nonres _ _ _ => .fail Cause.invalidPage s
    | .remote _ _ => .fail Cause.invalidPage s
    | .here t mpa =>
      match t.cls with
      | .pv => .fail Cause.classIllegal s
      | .wo => .fail Cause.classIllegal s
      | .rc => s.readCode core (match t.home with | .here l _ => l | .remote _ => lci) mpa .rc
      | .sc => s.readCode core (match t.home with | .here l _ => l | .remote _ => lci) mpa .sc

/-- A line as a fetch would find it, without what the fetch caches. -/
def State.codeLine? (s : State) (core lci addr : Nat) : Option Line :=
  match s.fetchLine core lci addr with
  | .line l _ => some l
  | .fail _ _ => none

/-- The slot of a format-X instruction whose record goes on into the next line: its number is how many slots it needs there
(06 R186). -/
def lineSpill (l : Line) : Option Nat :=
  match ((List.range 5).filter fun k => !l.isData k).getLast? with
  | some i => if isFormatX (slotOp (l.slot i)) && i != 0 then some i else none
  | none => none

/-- The cause of a malformed line at `addr`: as the line itself shows, or a record that the next line does not carry on in
DATA slots. Where that line cannot be fetched, the failure belongs to the format-X instruction (06 R186, R187). -/
def State.lineCause (s : State) (core lci addr : Nat) (l : Line) : Option Nat :=
  match lineMalformed l with
  | some c => some c
  | none =>
    match lineSpill l with
    | none => none
    | some i =>
      match s.codeLine? core lci (addr + 64) with
      | none => none
      | some n => if (List.range i).all (Line.isData n) then none else some Cause.illegalOp

/-- The first instruction slot of a line at or after `i`. -/
def lineNext (l : Line) (i : Nat) : Option Nat := (List.range 5).find? fun k => decide (i ≤ k) && !l.isData k

/-- The first instruction slot of the line at `addr` and of the lines after it; a line that cannot be fetched gives its
slot 0, where the fetch fails. The address space has 2^51 lines, so that the count never ends a search. -/
def State.seqGo (s : State) (core lci : Nat) : Nat → Nat → Nat
  | 0, addr => addr
  | k + 1, addr =>
    match s.codeLine? core lci addr with
    | none => addr
    | some l =>
      match lineNext l 0 with
      | some i => addr + i
      | none => s.seqGo core lci k (addr + 64)

/-- `seq(m)`: the next instruction slot after `m`, given the line of `m` (05 R169, 06 R186). -/
def State.seqPc (s : State) (core lci : Nat) (l : Line) (m : Nat) : Nat :=
  match lineNext l (pcSlot m + 1) with
  | some i => pcLine m + i
  | none => s.seqGo core lci (2 ^ 51) (pcLine m + 64)

/-- `seq` of a program counter whose line is not at hand. -/
def State.seqOf (s : State) (core lci m : Nat) : Nat :=
  match s.codeLine? core lci (pcLine m) with
  | some l => s.seqPc core lci l m
  | none => if pcSlot m < 4 then m + 1 else pcLine m + 64

/-- What a control transfer to a target finds (09 R254). -/
inductive TargetCheck where
  | ok (s : State)
  | bad (rank cause : Nat) (s : State)
  deriving DecidableEq, Repr

/-- The checks of R254 in order; `rank` is the number of the check that fails. -/
def State.checkTarget (s : State) (core lci tgt : Nat) : TargetCheck :=
  if 2 ^ 57 ≤ tgt then .bad 1 Cause.access s
  else if 4 < pcSlot tgt then .bad 2 Cause.badTarget s
  else
    match s.fetchLine core lci (pcLine tgt) with
    | .fail c s => .bad 3 c s
    | .line l s => if l.tgt (pcSlot tgt) && !l.isData (pcSlot tgt) then .ok s else .bad 4 Cause.badTarget s

/-- The record of a format-X instruction at `m`: its four DATA slots in this line and the next (06 R186). The failure
carries the cause and the record line's address. -/
inductive RecordOut where
  | rec_ (r : Record) (s : State)
  | fail (cause addr : Nat) (s : State)
  deriving DecidableEq, Repr

/-- Four slots as a record. -/
def packRecord (l : List IWord) : Record := BitVec.ofNat 384 (l.foldr (fun w n => w.toNat + 2 ^ 96 * n) 0)

/-- Reads the record slots. -/
def State.readRecord (s : State) (core lci : Nat) (l : Line) (m : Nat) : RecordOut :=
  let i := pcSlot m
  let here := ((List.range 5).filter fun k => decide (i < k) && decide (k ≤ i + 4)).map (Line.slot l)
  if i = 0 then .rec_ (packRecord here) s
  else
    let a := pcLine m + 64
    match s.fetchLine core lci a with
    | .fail c s => .fail c a s
    | .line n s =>
      match lineMalformed n with
      | some c => .fail c a s
      | none =>
        if (List.range i).all (Line.isData n) then .rec_ (packRecord (here ++ (List.range i).map (Line.slot n))) s
        else .fail Cause.illegalOp (pcLine m) s

end Sys2Proof.Machine
end

