-- ==== Sys2Proof/Machine/Ops.lean ====
section
/-! DEFINITION. The operations every meaning is written over: register views, reads through latency windows, register
writes, the issue context, taking a trap and returning from one, unhandled traps, stops and watchpoints (05 R162 to
R166, 06 R196 to R198, 09 R262, 14 R369 to R372, 17 R442, R447). -/

namespace Sys2Proof.Machine

/-! ### Register views (05 R163) -/

/-- The lane registers that an operand names, by number. -/
def Desc.regsOf (d : Desc) (o : Opd) : List Nat :=
  match o with
  | .v n => [d.vwv / 4 + n.toNat]
  | .d n => [d.vwv / 4 + 2 * n.toNat, d.vwv / 4 + 2 * n.toNat + 1]
  | .t n => (List.range 32).map fun k => d.vwt / 4 + 32 * n.toNat + k
  | .a _ => []
  | .zero => []
  | .p _ => []
  | .c _ => []

/-- `k` consecutive v registers from a v operand, or `k` consecutive d registers from a d operand. -/
def Desc.regsFrom (d : Desc) (o : Opd) (k : Nat) : List Nat :=
  match o with
  | .v n => (List.range k).map fun i => d.vwv / 4 + n.toNat + i
  | .d n => (List.range (2 * k)).map fun i => d.vwv / 4 + 2 * n.toNat + i
  | .t _ => []
  | .a _ => []
  | .zero => []
  | .p _ => []
  | .c _ => []

/-- The team's tile number that an a operand names: its register-space address and the view base VWA (05 R163). -/
def Desc.tileOf (d : Desc) (o : Opd) : Nat :=
  match o with
  | .a n => (d.vwa - 0x10000) / 16384 + n.toNat
  | .v _ => 0
  | .d _ => 0
  | .t _ => 0
  | .zero => 0
  | .p _ => 0
  | .c _ => 0

/-! ### Lane registers and predicates -/

/-- Lane `l` of a group. -/
def Group.lane (g : Group) (l : Nat) : Lane := smGet Lane.init g.lanes l
/-- Replaces lane `l`. -/
def Group.setLane (g : Group) (l : Nat) (x : Lane) : Group := { g with lanes := smSet Lane.init g.lanes l x }
/-- Applies `f` to lane `l`. -/
def Group.modLane (g : Group) (l : Nat) (f : Lane → Lane) : Group := g.setLane l (f (g.lane l))
/-- Applies `f` to the lanes of a mask. -/
def Group.modLanes (g : Group) (m : Mask) (f : Nat → Lane → Lane) : Group :=
  (lanesOf m).foldl (fun g l => g.modLane l (f l)) g

/-- The key of predicate `k` among register keys. -/
def predKey (k : Nat) : Nat := 256 + k

/-- The stored value of a key of a lane: a register, or a predicate as 0 or 1. -/
def Group.key (g : Group) (l key : Nat) : Word :=
  if key < 256 then smGet 0 g.regs (256 * l + key)
  else if (g.lane l).preds.getLsbD (key - 256) then 1 else 0

/-- Stores a value at a key of a lane; p7 discards it. -/
def Group.setKey (g : Group) (l key : Nat) (v : Word) : Group :=
  if key < 256 then { g with regs := smSet 0 g.regs (256 * l + key) v, bad := smErase g.bad (256 * l + key) }
  else if key < 263 then
    g.modLane l fun x => { x with
      preds := if v = 0 then x.preds &&& ~~~ BitVec.ofNat 7 (2 ^ (key - 256))
        else x.preds ||| BitVec.ofNat 7 (2 ^ (key - 256)) }
  else g

/-- A write that a later read may miss (06 R196, R197). -/
def Flight.uncovered (f : Flight) (dclk : Nat) : Bool :=
  match f.cover with
  | .fixed due => decide (dclk < due)
  | .counter _ => true

/-- What a read sees through the writes in flight, newest first: the new value, or the value before the write where the
write is uncovered (06 R196, R200). A covered write hides every older one, which is dropped (05 R166). -/
def seeFlights (free dclk l key : Nat) : List Flight → Nat → Word → Word
  | [], _, v => v
  | f :: r, i, v =>
    if f.key = key && f.lanes.getLsbD l && f.acc.isNone then
      if f.uncovered dclk && (f.pair || Config.freeBit free ((1024 * i + key) * 32 + l)) then
        seeFlights free dclk l key r (i + 1) (smGet 0 f.olds l)
      else v
    else seeFlights free dclk l key r (i + 1) v

/-- A read of a key of a lane by an instruction. -/
def Group.see (g : Group) (free l key : Nat) : Word := seeFlights free g.ord.dclk l key g.ord.flights 0 (g.key l key)

/-- One register write: lane, key, value. -/
structure Wr where
  lane : Nat
  key : Nat
  val : Word
  deriving DecidableEq, Repr

/-- Keys that a list of writes names. -/
def wrKeys (ws : List Wr) : List Nat := (ws.map Wr.key).eraseDups

/-- The lanes that a list of writes writes at a key. -/
def wrLanes (ws : List Wr) (key : Nat) : Mask := maskOf ((ws.filter fun w => w.key == key).map Wr.lane)

/-- The flights that a list of writes adds, with the values the lanes held. -/
def Group.newFlights (g : Group) (ws : List Wr) (c : Cover) (acc : Option Nat) (pair : Bool) : List Flight :=
  (wrKeys ws).map fun k =>
    { key := k, lanes := wrLanes ws k, olds := (lanesOf (wrLanes ws k)).map fun l => (l, g.key l k), cover := c,
      acc := acc, pair := pair }

/-- Earlier writes still on their way lose the lanes that a later instruction writes (05 R166). -/
def dropLanes (fs : List Flight) (ws : List Wr) : List Flight :=
  (fs.map fun f => if f.acc.isSome then { f with lanes := f.lanes &&& ~~~ wrLanes ws f.key } else f).filter
    fun f => f.lanes != 0

/-- The lanes of a key among covered writes. -/
def coveredLanes (cov : List (Nat × Mask)) (key : Nat) : Mask :=
  cov.foldl (fun m p => if p.1 = key then m ||| p.2 else m) 0

/-- The writes in flight, newest first, without those that are `gone`, and without the older writes of a register that one
of these has superseded (05 R166). -/
def settleFlights (gone : Flight → Bool) : List (Nat × Mask) → List Flight → List Flight
  | _, [] => []
  | cov, f :: r =>
    if gone f then settleFlights gone ((f.key, f.lanes) :: cov) r
    else
      let m := f.lanes &&& ~~~ coveredLanes cov f.key
      if m = 0 then settleFlights gone cov r else { f with lanes := m } :: settleFlights gone cov r

/-- Flights that still matter at an issue distance: those not covered, of which no later write is (06 R196, 05 R166). -/
def liveFlights (fs : List Flight) (dclk : Nat) : List Flight :=
  settleFlights (fun f => !(f.uncovered dclk || f.acc.isSome)) [] fs

/-- Lanes of a set for which the latest write of a register in flight is not covered (05 R166, 06 R198). -/
def openLanes (dclk key : Nat) : Mask → List Flight → Mask
  | _, [] => 0
  | m, f :: r =>
    if f.key = key then
      (if f.uncovered dclk then f.lanes &&& m else 0) ||| openLanes dclk key (m &&& ~~~ f.lanes) r
    else openLanes dclk key m r

/-- The register ranges that a guard still protects and a write meets: the old value is kept for the engine (11 R310). -/
def FragGuard.note (fg : FragGuard) (g : Group) (w : Wr) : FragGuard :=
  if w.key < 256 && (fg.ranges.any fun r => decide (r.1 ≤ w.key) && decide (w.key < r.1 + r.2)) then
    { fg with olds := (256 * w.lane + w.key, g.key w.lane w.key) :: fg.olds }
  else fg

/-- A register write by a lane is met by a guard (11 R310). -/
def Group.guarded (g : Group) (key : Nat) : Bool :=
  g.guards.any fun fg => fg.strict && fg.ranges.any fun r => decide (r.1 ≤ key) && decide (key < r.1 + r.2)

/-- Writes registers and predicates of an instruction (05 R163, R166). -/
def Group.write (g : Group) (ws : List Wr) (c : Cover) (pair : Bool) : Group :=
  let fl := g.newFlights ws c none pair
  let g1 := { g with guards := g.guards.map fun fg => ws.foldl (fun fg w => fg.note g w) fg }
  let g2 := ws.foldl (fun g w => g.setKey w.lane w.key w.val) g1
  { g2 with ord := { g2.ord with flights := fl ++ dropLanes (liveFlights g2.ord.flights g2.ord.dclk) ws } }

/-- Announces writes that an access will make when it is answered (06 R196, 05 R166). -/
def Group.reserve (g : Group) (ws : List Wr) (c : Cover) (acc : Nat) (pair : Bool) : Group :=
  { g with ord := { g.ord with
      flights := g.newFlights ws c (some acc) pair ++ dropLanes (liveFlights g.ord.flights g.ord.dclk) ws } }

/-- Rows that wait for accesses, once access `acc` has landed: those that wait for no other return to the core (05 R176). -/
def owedAfter (l : List (Nat × List Nat)) (acc : Nat) : List (Nat × List Nat) :=
  (l.map fun p => (p.1, p.2.filter fun a => a != acc)).filter fun p => !p.2.isEmpty

/-- The writes of an answered access: lanes that a later instruction has written are left (05 R166). -/
def Group.land (g : Group) (ws : List Wr) (acc : Nat) : Group :=
  let mine := fun (w : Wr) => g.ord.flights.any fun f => f.acc == some acc && f.key == w.key && f.lanes.getLsbD w.lane
  let ws := ws.filter mine
  let fl := g.ord.flights.map fun f =>
    if f.acc = some acc then
      { f with acc := none, olds := (lanesOf f.lanes).map fun l => (l, g.key l f.key) } else f
  let g1 := { g with guards := g.guards.map fun fg => ws.foldl (fun fg w => fg.note g w) fg }
  let g2 := ws.foldl (fun g w => g.setKey w.lane w.key w.val) g1
  { g2 with owed := owedAfter g2.owed acc, ord := { g2.ord with flights := fl.filter fun f => f.lanes != 0 } }

/-- Queues of a chip return to arbitration when a team leaves or rows are freed (13 R366). -/
def State.unblock (s : State) (lci : Nat) : State :=
  let free := fun (l : SMap LQueue) => l.map fun p => (p.1, { p.2 with blocked := false })
  s.modChip lci fun c => { c with disp := { c.disp with queues := free c.disp.queues, pfQueues := free c.disp.pfQueues } }

/-- A change of a group that lands an access: rows that a REGSHRINK gave up may return to the core with it (05 R176, 13
R366). -/
def State.landGroup (s : State) (id : TeamId) (grp : Nat) (f : Group → Group) : State :=
  let u := s.modGroup id grp f
  match s.team? id, u.team? id with
  | some t, some t' => if (t.group grp).owed = (t'.group grp).owed then u else u.unblock id.lci
  | some _, none => u
  | none, _ => u

/-! ### Stops (17 R442) -/

/-- A debugger is attached to the team's chip (17 R439). -/
def State.attached (s : State) (lci : Nat) : Bool :=
  match s.chip? lci with
  | some c => c.dbg.holder.isSome
  | none => false

/-- A trigger of a stop (17 R442, R444). -/
def State.trigger (s : State) (id : TeamId) (trig addr : Nat) (grp : Option Nat) (wp src : Nat) : State :=
  s.modTeam id fun t =>
    if t.dbg.state = 1 || t.dbg.state = 2 then t
    else
      { t with
        dbg := { t.dbg with state := 1, trig := trig, trigT := s.gtc, taddr := addr, tgroup := grp, hits := 0, wp := wp,
                            src := src }
        groups := t.groups.map fun p => (p.1, { p.2 with skid := 0 }) }

/-- Kinds of access that a watchpoint selects. -/
inductive WatchKind where
  | load | store | atomic
  deriving DecidableEq, Repr

/-- A watchpoint that an access hits: kind, source 0 lane, 1 peer, 2 engine (Table 17.6). -/
def Watch.hits (w : Watch) (id : TeamId) (k : WatchKind) (src ofs len : Nat) : Bool :=
  w.lci == id.lci && w.handle == id.handle % 4096 && w.team == id.index && w.len != 0 &&
    decide (ofs < w.base + w.len) && decide (w.base < ofs + len) &&
    (match k with | .load => w.ld | .store => w.st | .atomic => w.at_) &&
    (match src with | 0 => w.own | 1 => w.peer | _ => w.eng)

/-- A watchpoint register that is armed: no range beyond the allocation (17 R447). -/
def Watch.fits (w : Watch) (t : Team) : Bool := decide (w.base + w.len ≤ t.spadSize)

/-- An access to a team's scratchpad meets the watchpoints of its core; a hit stops every team of the cluster
(17 R447, R448). -/
def State.watchAccess (s : State) (t : Team) (k : WatchKind) (src ofs len : Nat) : State :=
  match t.core? with
  | none => s
  | some core =>
    if (s.core core).watch.isEmpty || !s.attached t.id.lci then s
    else
      match (s.core core).watch.find? fun p => p.2.fits t && p.2.hits t.id k src ofs len with
      | none => s
      | some p =>
        if t.dbg.state != 0 && t.dbg.state != 3 then
          s.modTeam t.id fun t => { t with dbg := { t.dbg with hits := min (t.dbg.hits + 1) 0xFFFFFFFF } }
        else
          let s := s.trigger t.id 3 (max ofs p.2.base) none p.1 src
          let others := s.teams.filter fun u =>
            u.id != t.id && (match u.core? with | some c => c / 4 == core / 4 | none => false)
          others.foldl (fun s u => s.trigger u.id 5 0 none p.1 src) s

/-! ### Traps (14 R369 to R372) -/

/-- A trap about to be taken: cause, lanes, sr.taddr. -/
structure Trap where
  cause : Nat
  lanes : Mask
  addr : Nat
  deriving DecidableEq, Repr

/-- Records the first team of a grid that stops on a trap (14 R372, Table 13.4). -/
def recordStop (q : SMap LQueue) (handle index cause : Nat) : SMap LQueue :=
  q.map fun p => (p.1, { p.2 with grids := p.2.grids.map fun g =>
    if g.handle = handle && g.fcause = 0 then { g with fteam := index, fcause := cause } else g })

/-- An unhandled trap stops the team, once (14 R372, R378, log 38). -/
def State.stopTeam (s : State) (id : TeamId) (grp cause tpc addr : Nat) : State :=
  if ((s.team? id).map Team.stopping) = some true then s else
  let s := s.modTeam id fun t => { t with stopping := true }
  let s := s.modChip id.lci fun c =>
    { c with
      calls := c.calls.filter fun k => k.team != id
      disp := { c.disp with
        queues := recordStop c.disp.queues id.handle id.index cause
        pfQueues := recordStop c.disp.pfQueues id.handle id.index cause } }
  let info := cause % 256 + grp % 32 * 2 ^ 8 + id.handle % 4096 * 2 ^ 20 + id.index % 2 ^ 32 * 2 ^ 32
  (s.postEvent id.lci 0x0002 tpc info).postEvent id.lci 0x0003 addr 0

/-- Handler entry of a group: the trap registers, handler mode, and the lanes' PCs (14 R369). -/
def Group.enter (g : Group) (tr : Trap) (pc : DWord) (defer : Bool) (trapv : DWord) : Group :=
  let g := { g with
    trap := { handler := true, tcause := BitVec.ofNat 32 (tr.cause + if defer then 256 else 0), tpc := pc,
              tlanes := tr.lanes, taddr := BitVec.ofNat 64 tr.addr, tpcWritten := false }
    region := [] }
  g.modLanes tr.lanes fun _ x => { x with pc := trapv }

/-- Taking a trap in a group (14 R369, R372, 06 R185). A trap is unhandled without a TRAPV, in handler mode, or when
TRAPV is no legal target (assumption log 24). -/
def State.takeTrap (s : State) (id : TeamId) (grp core : Nat) (tr : Trap) (pc : DWord) (defer : Bool) : State :=
  match s.team? id with
  | none => s
  | some t =>
    let s := s.trace core t grp 1 tr.cause pc.toNat
    if t.desc.trapv = 0 || (t.group grp).trap.handler then s.stopTeam id grp tr.cause pc.toNat tr.addr
    else
      match s.checkTarget core id.lci t.desc.trapv.toNat with
      | .bad _ c s => s.stopTeam id grp c pc.toNat t.desc.trapv.toNat
      | .ok s => s.modGroup id grp fun g => g.enter tr pc defer t.desc.trapv

/-! ### The issue context -/

/-- What a meaning works on: the state, the issue latch, the team and group, and the active lanes (08 R234). -/
structure Ix where
  s : State
  cur : Cur
  t : Team
  g : Group
  active : Mask
  deriving DecidableEq, Repr

/-- Predicate `k` of a lane as an instruction reads it; p7 is true. -/
def Group.seePred (g : Group) (free l k : Nat) : Bool := if k = 7 then true else g.see free l (predKey k) != 0

/-- The lanes whose guard is true (06 R188). -/
def Group.guardMask (g : Group) (free : Nat) (issued : Mask) (sc : Sched) : Mask :=
  issued &&& maskWhere fun l => g.seePred free l sc.pg.toNat != sc.pn

/-- Runs a meaning on the issue latch; a state whose latch names no team stops. -/
def issue (s : State) (sc : Sched) (k : Ix → State) : Out :=
  match s.cur with
  | none => .fault .noIssuingGroup
  | some c =>
    match s.team? c.team with
    | none => .fault .noIssuingGroup
    | some t =>
      .next (k { s := s, cur := c, t := t, g := t.group c.group,
                 active := (t.group c.group).guardMask s.free c.issued sc })

/-- A read of register number `n` of a lane. -/
def Ix.reg (x : Ix) (l n : Nat) : Nat := (x.g.see x.s.free l n).toNat

/-- Registers as a number, the first lowest. -/
def Ix.regsNat (x : Ix) (l : Nat) : List Nat → Nat
  | [] => 0
  | n :: r => x.reg l n + 2 ^ 32 * x.regsNat l r

/-- The value that an operand has in a lane: a v or d register, ZERO, or a predicate as 0 or 1. -/
def Ix.rd (x : Ix) (l : Nat) (o : Opd) : Nat :=
  match o with
  | .v n => x.regsNat l (x.t.desc.regsOf (.v n))
  | .d n => x.regsNat l (x.t.desc.regsOf (.d n))
  | .t _ => 0
  | .a _ => 0
  | .zero => 0
  | .p k => if x.g.seePred x.s.free l k.toNat then 1 else 0
  | .c n => n.toNat

/-- The lowest active lane (09 R252). -/
def Ix.low (x : Ix) : Nat := lowLane x.active

/-- The writes of a value to a v, d or predicate operand of a lane. -/
def Ix.dst (x : Ix) (l : Nat) (o : Opd) (v : Nat) : List Wr :=
  match o with
  | .v n => [{ lane := l, key := x.t.desc.vwv / 4 + n.toNat, val := BitVec.ofNat 32 v }]
  | .d n => [{ lane := l, key := x.t.desc.vwv / 4 + 2 * n.toNat, val := BitVec.ofNat 32 v },
             { lane := l, key := x.t.desc.vwv / 4 + 2 * n.toNat + 1, val := BitVec.ofNat 32 (v / 2 ^ 32) }]
  | .t _ => []
  | .a _ => []
  | .zero => []
  | .p k => if k = 7 then [] else [{ lane := l, key := predKey k.toNat, val := if v = 0 then 0 else 1 }]
  | .c _ => []

/-- The first register of a list beyond the allocation, which is at most 256 (05 R164, R165). -/
def Ix.beyond (x : Ix) (regs : List Nat) : Option Nat := regs.find? fun n => decide (min x.g.alloc 256 ≤ n)

/-- The first source register, with the lanes that read it, whose write in flight is not covered (06 R198). -/
def Ix.uncovered (x : Ix) (srcs : List (Nat × Mask)) : Option Nat :=
  (srcs.find? fun p => openLanes x.g.ord.dclk p.1 p.2 x.g.ord.flights != 0).map (·.1)

/-- Registers read by the issued lanes. -/
def Ix.own (x : Ix) (regs : List Nat) : List (Nat × Mask) := regs.map fun n => (n, x.cur.issued)

/-- The lanes that an issue reads through a permutation (06 R190). -/
def Ix.fromLanes (x : Ix) (p : Perm) : Mask := maskOf ((lanesOf x.cur.issued).map p.from)

/-- Registers that the issued lanes read through a permutation (06 R190). -/
def Ix.via (x : Ix) (p : Perm) (regs : List Nat) : List (Nat × Mask) := regs.map fun n => (n, x.fromLanes p)

/-- The value of SA in lane `l`, read from lane from(l) (06 R190). -/
def Ix.rdVia (x : Ix) (p : Perm) (l : Nat) (o : Opd) : Nat := x.rd (p.from l) o

/-- The checks of every operand: REG_BOUND for all names, then SCOREBOARD_UNDERSIZE for sources and for writes that a
matrix pass has not read, with the checking scoreboard on (05 R165, 06 R198, 11 R310). -/
def Ix.nameTrap (x : Ix) (srcs : List (Nat × Mask)) (dsts : List Nat) : Option Trap :=
  match x.beyond (dsts ++ srcs.map (·.1)) with
  | some n => some { cause := Cause.regBound, lanes := x.cur.issued, addr := 4 * n }
  | none =>
    if x.t.desc.chk then
      match x.uncovered srcs with
      | some n => some { cause := Cause.scoreboard, lanes := x.cur.issued, addr := 4 * n }
      | none =>
        match dsts.find? x.g.guarded with
        | some n => some { cause := Cause.scoreboard, lanes := x.cur.issued, addr := 4 * n }
        | none => none
    else none

/-- POISON at the reader of a register that holds an uncorrectable error (18 R469). -/
def Ix.poisonTrap (x : Ix) (srcs : List (Nat × Mask)) : Option Trap :=
  if x.g.bad.isEmpty then none
  else
    let hit := fun (n l : Nat) => smGet false x.g.bad (256 * l + n)
    match srcs.find? fun p => (lanesOf p.2).any (hit p.1) with
    | some p => some { cause := Cause.poison, lanes := x.cur.issued &&& maskWhere (hit p.1), addr := 4 * p.1 }
    | none => none

/-- Every check of an instruction's operands. -/
def Ix.operandTrap (x : Ix) (srcs : List (Nat × Mask)) (dsts : List Nat) : Option Trap :=
  match x.nameTrap srcs dsts with
  | some t => some t
  | none => x.poisonTrap srcs

/-- A trap at the instruction being issued: no lane performs it, and no PC advances (14 R369). -/
def Ix.trap (x : Ix) (tr : Trap) : State := x.s.takeTrap x.t.id x.cur.group x.cur.core tr x.cur.pc false

/-- A counter as SET names it; 7 is none. -/
def setCtr (sc : Sched) : Option Nat := if sc.set = 7 then none else some sc.set.toNat

/-- A group whose counter has been raised (06 R197). -/
def Group.bump (g : Group) (j : Option Nat) : Group :=
  match j with
  | some k => { g with ord := { g.ord with sb := smSet 0 g.ord.sb k (smGet 0 g.ord.sb k + 1) } }
  | none => g

/-- A group whose counter has dropped. -/
def Group.drop (g : Group) (j : Option Nat) : Group :=
  match j with
  | some k => { g with ord := { g.ord with sb := smSet 0 g.ord.sb k (smGet 0 g.ord.sb k - 1) } }
  | none => g

/-- Notes that a counter's drop is due; the event SCOREBOARD_DECREMENT performs it. -/
def Group.due (g : Group) (j : Option Nat) : Group :=
  match j with
  | some k => { g with ord := { g.ord with drops := g.ord.drops ++ [k] } }
  | none => g

/-- Advances the issued lanes to `seq` (05 R169). -/
def Ix.advance (x : Ix) (g : Group) : Group := g.modLanes x.cur.issued fun _ y => { y with pc := x.cur.next }

/-- Puts the group and the state back. -/
def Ix.put (x : Ix) (g : Group) : State :=
  { (x.s.setTeam (x.t.setGroup x.cur.group g)) with free := x.s.free + 1 }

/-- How the results of an instruction are covered: a latency, or its SET counter. -/
def Ix.cover (x : Ix) (sc : Sched) (lat : Option Nat) : Cover :=
  match lat with
  | some n => .fixed (x.g.ord.dclk + n)
  | none => .counter (setCtr sc)

/-- Completes an instruction whose results are known at issue: writes, counter, PCs. -/
def Ix.finish (x : Ix) (sc : Sched) (lat : Option Nat) (ws : List Wr) : State :=
  x.put (x.advance (((x.g.write ws (x.cover sc lat) x.cur.first).bump (setCtr sc)).due (setCtr sc)))

/-- The instruction does not issue yet: nothing changes but the note that the group is held (05 R168). -/
def Ix.hold (x : Ix) : State :=
  x.put { x.g with ord := { x.g.ord with held := true } }

/-- Replaces the team under the group at hand. -/
def Ix.withTeam (x : Ix) (t : Team) : Ix := { x with t := t, g := t.group x.cur.group }

/-- Replaces the state and reads the team and group again. -/
def Ix.withState (x : Ix) (s : State) : Ix :=
  match s.team? x.t.id with
  | some t => { x with s := s, t := t, g := t.group x.cur.group }
  | none => { x with s := s }

/-! ### Return from a trap (09 R262) -/

/-- The target of RTT: sr.tpc, or `seq` of it. -/
def Ix.rttTarget (x : Ix) (nxt : Bool) : Nat :=
  if nxt then x.s.seqOf x.cur.core x.t.id.lci x.g.trap.tpc.toNat else x.g.trap.tpc.toNat

/-- A group that leaves handler mode: the lanes of sr.tlanes resume at `pc` (14 R371). -/
def Group.leave (g : Group) (pc : DWord) : Group :=
  let g := { g with trap := { g.trap with handler := false }, region := [] }
  g.modLanes g.trap.tlanes fun _ y => { y with pc := pc }

/-! ### Lane waits -/

/-- Puts lanes into WAITING with their PC at `seq` (05 R168). -/
def Group.await (g : Group) (m : Mask) (w : Nat → Wait) : Group :=
  g.modLanes m fun l x => { x with st := .waiting, wait := some (w l) }

/-- Puts lanes into WAITING for what will write their registers later: none of these is discarded yet (05 R176). -/
def Group.awaitReply (g : Group) (m : Mask) (w : Nat → Wait) : Group :=
  Group.await { g with lost := g.lost.filter fun k => !m.getLsbD (k / 256) } m w

/-- Returns a lane to READY. -/
def Group.wake (g : Group) (l : Nat) : Group := g.modLane l fun x => { x with st := .ready, wait := none }

/-- Lanes of a group in a state. -/
def Group.inState (g : Group) (st : LaneSt) : Mask := maskWhere fun l => (g.lane l).st == st

end Sys2Proof.Machine
end

