-- ==== Sys2Proof/Machine/Operands.lean ====
section
/-! DEFINITION. Operand forms of the register instructions: which fields name sources, permuted reads, immediates, source
modifiers, rounding with FTZ and SR, and the shared shape "read, compute, write" (06 R190, R193, 07 R214 to R219, 08
R232 to R236). -/

namespace Sys2Proof.Machine

/-- The operands that an instruction has; an absent one is neither checked nor read. -/
structure Opds where
  dst : Opd
  a : Option Opd
  perm : Perm
  b : Option Opd
  c : Option Opd
  deriving DecidableEq, Repr

/-- One lane's source values and generator state. -/
structure Args where
  lane : Nat
  a : Nat
  b : Nat
  c : Nat
  seed : Word
  deriving DecidableEq, Repr

/-- Format R with no source. -/
def opsR0 (f : FmtR) : Opds := { dst := f.dst, a := none, perm := .none, b := none, c := none }
/-- Format R with SA. -/
def opsR1 (f : FmtR) : Opds := { dst := f.dst, a := some f.sa, perm := f.perm, b := none, c := none }
/-- Format R with SA and SB. -/
def opsR2 (f : FmtR) : Opds := { dst := f.dst, a := some f.sa, perm := f.perm, b := some f.sb, c := none }
/-- Format R with SA, SB and SC. -/
def opsR3 (f : FmtR) : Opds := { dst := f.dst, a := some f.sa, perm := f.perm, b := some f.sb, c := some f.sc }
/-- Format I with SA. -/
def opsI1 (f : FmtI) : Opds := { dst := f.dst, a := some f.sa, perm := f.perm, b := none, c := none }
/-- Format I without SA. -/
def opsI0 (f : FmtI) : Opds := { dst := f.dst, a := none, perm := .none, b := none, c := none }

/-- Registers of an optional operand. -/
def Ix.regsOpt (x : Ix) (o : Option Opd) : List Nat :=
  match o with
  | some o => x.t.desc.regsOf o
  | none => []

/-- Source registers with the lanes that read them. -/
def Ix.sources (x : Ix) (o : Opds) : List (Nat × Mask) :=
  ((x.regsOpt o.a).map fun n => (n, x.fromLanes o.perm)) ++ x.own (x.regsOpt o.b) ++ x.own (x.regsOpt o.c)

/-- The value of an optional operand. -/
def Ix.rdOpt (x : Ix) (l : Nat) (o : Option Opd) : Nat :=
  match o with
  | some o => x.rd l o
  | none => 0

/-- The source values of lane `l`: SA is read from lane from(l) (06 R190). -/
def Ix.args (x : Ix) (o : Opds) (l : Nat) : Args :=
  { lane := l, a := x.rdOpt (o.perm.from l) o.a, b := x.rdOpt l o.b, c := x.rdOpt l o.c, seed := (x.g.lane l).seed }

/-- Reads, computes and writes one destination in every active lane (08 R234). -/
def Ix.alu (x : Ix) (sc : Sched) (lat : Nat) (o : Opds) (f : Args → Nat) : State :=
  match x.operandTrap (x.sources o) (x.t.desc.regsOf o.dst) with
  | some tr => x.trap tr
  | none => x.finish sc (some lat) ((lanesOf x.active).flatMap fun l => x.dst l o.dst (f (x.args o l)))

/-- The group after lane `l`'s generator has reached `seed` (07 R218). -/
def Group.setSeed (g : Group) (l : Nat) (seed : Word) : Group := g.modLane l fun y => { y with seed := seed }

/-- The group after every active lane's generator has taken the steps of the instruction (07 R218). -/
def Ix.stepSeeds (x : Ix) (o : Opds) (f : Args → Nat × Word) : Group :=
  (lanesOf x.active).foldl (fun g l => g.setSeed l (f (x.args o l)).2) x.g

/-- As `Ix.alu` for instructions that may round stochastically: the function also gives the lane's next generator state
(07 R218). -/
def Ix.aluSr (x : Ix) (sc : Sched) (lat : Nat) (o : Opds) (f : Args → Nat × Word) : State :=
  match x.operandTrap (x.sources o) (x.t.desc.regsOf o.dst) with
  | some tr => x.trap tr
  | none =>
    let y := { x with g := x.stepSeeds o f }
    y.finish sc (some lat) ((lanesOf x.active).flatMap fun l => x.dst l o.dst (f (x.args o l)).1)

/-- An immediate in a type: sign-extended for i64 (08 R233). -/
def immOf (t : Ty) (imm : Word) : Nat := if t = .i64 then wrapNat 64 imm.toInt else imm.toNat

/-- The same 16-bit value in both halves (06 R193). -/
def immPair (imm : Word) : Nat := imm.toNat % 65536 * 65537

/-- A source of a float instruction: FTZ, then the modifier bits `k` and `k + 3` (07 R214, 08 R236). -/
def fsrc (t : Ty) (mod : BitVec 11) (k x : Nat) : Fv :=
  (fread t (modBit mod 9) x).modify (modBit mod k) (modBit mod (k + 3))

/-- Rounds one element as a format-R instruction asks: RM or SR, SAT, FTZ; SR steps the generator (07 R214, R218). -/
def roundEl (t : Ty) (f : FmtR) (v : Fv) (seed : Word) : Nat × Word :=
  if modBit f.mod 10 then
    (fwriteFtz t (modBit f.mod 9) (roundTo t v (.sr (srStep seed)) f.sat), srStep seed)
  else (fwriteFtz t (modBit f.mod 9) (roundTo t v (.rm f.rm) f.sat), seed)

/-- Rounding down decides the sign of an exact zero sum; SR overrides RM (07 R213). -/
def roundsDown (f : FmtR) : Bool := f.rm == .rd && !modBit f.mod 10

/-- Half `h` of a packed pair. -/
def half (x h : Nat) : Nat := bits x (16 * h) 16

/-- Two 16-bit results in a register. -/
def pair16 (lo hi : Nat) : Nat := lo % 65536 + hi % 65536 * 65536

/-- Two elements in increasing order, threading the generator (07 R218). -/
def both (g : Nat → Word → Nat × Word) (seed : Word) : Nat × Word :=
  (pair16 (g 0 seed).1 (g 1 (g 0 seed).2).1, (g 1 (g 0 seed).2).2)

end Sys2Proof.Machine
end

