-- ==== Sys2Proof/Machine/Packets.lean ====
section
/-! DEFINITION. Fabric packets: header and control beats (16 R416 to R418, R425, R499), paths and sending (16 R419 to R424,
R498). Places of control-beat fields that Table 16.2 does not number are the model's (assumption log 40). -/

namespace Sys2Proof.Machine

/-- A beat from fields (low bit, length, value). -/
def beatOf (l : List (Nat × Nat × Nat)) : Beat := BitVec.ofNat 256 ((l.map fun f => field f.2.2 f.1 f.2.1).sum)

/-- Field of a beat. -/
def beatGet (b : Beat) (lo len : Nat) : Nat := bits b.toNat lo len

/-- A beat of bytes, little-endian. -/
def beatBytes (l : List Byte) : Beat := BitVec.ofNat 256 (leNat l)

/-- 32-byte beats of a run of bytes; `n` beats. -/
def beatsOf : Nat → List Byte → List Beat
  | 0, _ => []
  | n + 1, l => beatBytes (l.take 32) :: beatsOf n (l.drop 32)

/-- Bytes of beats. -/
def bytesOfBeats (l : List Beat) : List Byte := (l.map fun b => natLe 32 b.toNat).flatten

/-- The first payload beat. -/
def pktCtl (p : Packet) : Beat := p.beats.headD 0

/-- Identity of an agent, Table 4.8 bits [58:10], in place (16 Table 16.2). -/
def Agent.ident (a : Agent) : Nat :=
  field a.team 10 16 + field a.launch 26 12 + field a.core 38 2 + field a.clus 40 5 + field a.die 45 4 +
    field a.pchip 49 10

/-- The agent that an identity names. -/
def Agent.ofIdent (x : Nat) : Agent :=
  { pchip := bits x 49 10, die := bits x 45 4, clus := bits x 40 5, core := bits x 38 2, launch := bits x 26 12,
    team := bits x 10 16 }

/-- Order from its code (Table 4.2); reserved codes read as weak. -/
def ordOfNum (n : Nat) : Ord :=
  match n with
  | 1 => .acq | 2 => .rel | 3 => .ar | 4 => .sc | _ => .weak

/-- Scope from its code (Table 4.1); reserved codes read as system. -/
def scopeOfNum (n : Nat) : Scope :=
  match n with
  | 0 => .team | 1 => .cluster | 2 => .die | 3 => .device | 4 => .pod | _ => .system

/-- Packet types, Table 16.2. -/
def ptLoad : Nat := 0
/-- LOAD_RSP. -/
def ptLoadRsp : Nat := 1
/-- STORE. -/
def ptStore : Nat := 2
/-- STORE_ACK. -/
def ptStoreAck : Nat := 3
/-- ATOMIC. -/
def ptAtomic : Nat := 4
/-- ATOMIC_RSP. -/
def ptAtomicRsp : Nat := 5
/-- MSG_REQ. -/
def ptMsgReq : Nat := 6
/-- MSG_DATA. -/
def ptMsgData : Nat := 7
/-- TOKEN. -/
def ptToken : Nat := 8
/-- DEFER. -/
def ptDefer : Nat := 9
/-- RESUME. -/
def ptResume : Nat := 10
/-- NAK. -/
def ptNak : Nat := 11
/-- ERROR. -/
def ptError : Nat := 12
/-- PREQ. -/
def ptPreq : Nat := 13

/-- LEN values that a type allows (16 R417). -/
def lenOk (ty len : Nat) : Bool :=
  match ty with
  | 0 => decide (len ≤ 1)
  | 1 => decide (1 ≤ len) && decide (len ≤ 5)
  | 2 => decide (2 ≤ len) && decide (len ≤ 5)
  | 4 => decide (2 ≤ len) && decide (len ≤ 5)
  | 5 => decide (1 ≤ len) && decide (len ≤ 3)
  | 7 => decide (1 ≤ len) && decide (len ≤ 8)
  | 3 | 6 | 8 | 9 | 10 | 11 | 12 | 13 => len == 1
  | _ => false

/-- A packet of a guest before it has a route: type, chips, address, MSGID, priority, class, scope, beats. -/
structure Draft where
  ty : Nat
  src : Nat
  dst : Nat
  addr : Nat
  msgid : Nat
  prio : Nat
  cls : Nat
  scope : Nat
  beats : List Beat
  deriving DecidableEq, Repr

/-- The packet of a draft under a label on a strand. The tag is a free value (15 R412, log 15). -/
def Draft.packet (d : Draft) (label strand lseq : Nat) (epoch : Bool) (tag : Nat) : Packet :=
  { atag := BitVec.ofNat 128 tag, addr := BitVec.ofNat 48 d.addr, src := BitVec.ofNat 10 d.src,
    dst := BitVec.ofNat 10 d.dst, route := BitVec.ofNat 12 label, lseq := BitVec.ofNat 12 lseq,
    msgid := BitVec.ofNat 16 d.msgid, prio := BitVec.ofNat 2 d.prio, cls := BitVec.ofNat 2 d.cls,
    scope := BitVec.ofNat 3 d.scope, epoch := epoch, strand := BitVec.ofNat 3 strand,
    len := BitVec.ofNat 4 d.beats.length, type := BitVec.ofNat 5 d.ty, beats := d.beats, authentic := true }

/-! ### Route entries (Table 16.4) -/

/-- GUEST. -/
def rGuest (e : DWord) : Nat := bits e.toNat 48 16
/-- STRANDS. -/
def rStrands (e : DWord) : Nat := bits e.toNat 40 8
/-- V. -/
def rV (e : DWord) : Bool := e.getLsbD 38
/-- PORT. -/
def rPort (e : DWord) : Nat := bits e.toNat 34 4
/-- RELAY. -/
def rRelay (e : DWord) : Nat := bits e.toNat 30 4
/-- RV. -/
def rRv (e : DWord) : Bool := e.getLsbD 29
/-- FWD. -/
def rFwd (e : DWord) : Bool := e.getLsbD 28

/-- The route entry of a label at a port; port 16 and up is the hub's table. -/
def State.route (s : State) (port label : Nat) : DWord :=
  if port < 16 then smGet 0 (s.die port).port.routes label else smGet 0 s.hub.hubRoutes label

/-- Ports towards a cell position, in increasing number: the bonded group of a peer in a cell of 8, or the direct port and
port 15 of the partner in one of 9 to 16 (16 R420). -/
def portsTo (eight : Bool) (mine peer : Nat) : List Nat :=
  let k := if mine < peer then peer - 1 else peer
  if eight then [2 * k, 2 * k + 1] ++ (if Nat.xor mine 4 = peer then [14, 15] else [])
  else k :: (if Nat.xor mine 8 = peer then [15] else [])

/-- The ports towards a relay that are up (16 R424). -/
def State.relayUp (s : State) (relay : Nat) : List Nat :=
  (portsTo Config.cellOfEight s.hub.position relay).filter fun p => p < 16 && (s.die p).port.up

/-- Ports whose table sends a label of a guest out of this module. -/
def State.routePorts (s : State) (gid label : Nat) : List Nat :=
  (List.range 16).filter fun p => rV (s.route p label) && !rFwd (s.route p label) && rGuest (s.route p label) == gid

/-- The port that carries a label for a pair of chips: one of its bonded group that is up, or the relay's (16 R420,
R424). -/
def State.egress (s : State) (gid label src dst : Nat) (so : Bool) : Option Nat :=
  if so then some 16
  else
    let ports := s.routePorts gid label
    let up := ports.filter fun p => (s.die p).port.up && !(s.die p).port.detour
    if up.isEmpty then
      match ports with
      | [] => none
      | p :: _ =>
        let via := s.relayUp (rRelay (s.route p label))
        if rRv (s.route p label) then via[(Nat.xor src dst) % via.length]? else none
    else up[(Nat.xor src dst) % up.length]?

/-- The lowest strand of a mask (16 R427). -/
def lowStrand (m : Nat) : Nat := ((List.range 8).find? fun k => m.testBit k).getD 0

/-- Puts a packet on a port: it takes the port's next LSEQ and stays until it is acknowledged (16 R414). -/
def State.emit (s : State) (port : Nat) (p : Packet) : State :=
  if port < 16 then
    let q := { p with lseq := BitVec.ofNat 12 (s.die port).port.lseq }
    let s := s.modDie port fun d => { d with port :=
      { d.port with lseq := (d.port.lseq + 1) % 4096, unacked := d.port.unacked ++ [q] } }
    { s with outbox := q :: s.outbox }
  else { s with outbox := p :: s.outbox }

/-- No peer state. -/
def Peer.init : Peer := { isolated := false, lost := false, offset := 0 }

/-- Whether a peer of this module is isolated (16 R434). -/
def State.isolated (s : State) (peer : Nat) : Bool := (smGet Peer.init s.mod.peers peer).isolated

/-- Key of a virtual link in the key table: its epoch in bit 0, and above it the packets sent under the key (15 R412). -/
def linkKey (gid src dst : Nat) : Nat := (gid * 1024 + src) * 1024 + dst

/-- Holds a packet of a paused guest (15 R401). -/
def State.holdPacket (s : State) (gid : Nat) (p : Packet) : State :=
  s.setGuest gid { s.guest gid with waiting := (s.guest gid).waiting ++ [p] }

/-- Where a draft can go (16 R421, R434, R498). -/
inductive Reach where
  | sent (s : State)
  /-- The destination chip is on this module. -/
  | here (lci : Nat)
  | lost
  | unassigned
  deriving DecidableEq, Repr

/-- Sends a draft of a guest (16 R421). -/
def State.sendDraft (s : State) (gid : Nat) (d : Draft) : Reach :=
  match s.chipHome gid d.dst with
  | .unassigned => .unassigned
  | .here lci => .here lci
  | .peer idx label =>
    if s.isolated idx then .lost
    else if (s.guest gid).paused then .sent (s.holdPacket gid (d.packet 0 0 0 false 0))
    else
      match s.egress gid label d.src d.dst (decide (16 ≤ idx)) with
      | none => .lost
      | some port =>
        let strand := lowStrand (rStrands (s.route (if port < 16 && !(s.routePorts gid label).contains port
          then ((s.routePorts gid label).headD port) else port) label))
        let key := smGet 0 s.mod.keys (linkKey gid d.src d.dst)
        let s := s.modMod fun m => { m with keys := smSet 0 m.keys (linkKey gid d.src d.dst) (key + 2) }
        let s := match s.chipHome gid d.src with
          | .here lci => s.count (if port < 16 then port else 0) lci 0xA (32 * (1 + d.beats.length))
          | .peer _ _ => s
          | .unassigned => s
        .sent ({ (s.emit port (d.packet label strand 0 (key % 2 == 1) (Config.freeNat s.free))) with free := s.free + 1 })

/-- Sends an answer, which goes nowhere when its peer cannot be reached. -/
def State.reply (s : State) (gid : Nat) (d : Draft) : State :=
  match s.sendDraft gid d with
  | .sent s => s
  | .here _ => s
  | .lost => s
  | .unassigned => s

/-- MSGIDs of this module's outstanding requests. -/
def State.msgidsUsed (s : State) : List Nat :=
  (s.traffic.txns.map Txn.msgid) ++ (s.traffic.drained.map (·.1)) ++ (s.traffic.sends.map Send.msgid) ++ (s.traffic.pages.flatMap fun p =>
    p.waiters.filterMap fun w => match w with
      | .far _ m => some m
      | .lane _ _ _ => none
      | .job _ _ => none
      | .ring _ _ => none
      | .walk _ _ => none
      | .msg _ => none)

/-- A MSGID that no outstanding request of this module has (16 R416, log 10). -/
def State.newMsgid (s : State) : Nat := freshIn 65536 (Config.freeNat s.free) s.msgidsUsed

/-! ### Control beats -/

/-- LOAD: word mask of the line in [31:0], the ORD in [34:32], identity in [127:64], S2C in 255. -/
def loadCtl (words : Nat) (ord : Nat) (ident : Nat) (s2c : Bool) : Beat :=
  beatOf [(0, 32, words), (32, 3, ord), (64, 64, ident), (255, 1, if s2c then 1 else 0)]

/-- LOAD_RSP: valid words in [31:0], cause in [39:32], read instant in [127:64]. -/
def loadRspCtl (valid cause instant : Nat) : Beat := beatOf [(0, 32, valid), (32, 8, cause), (64, 64, instant)]

/-- STORE: byte mask in [127:0], identity in [191:128], ORD in [194:192], S2C in 255; the sectors whose data is poisoned in
[199:196], and a copy's token number in [239:224] with bit 240, which the spec gives no place (log 30, log 56). -/
def storeCtl (mask ident ord : Nat) (s2c : Bool) (bad : BitVec 4 := 0) (tok : Option Nat := none) : Beat :=
  beatOf [(0, 128, mask), (128, 64, ident), (192, 3, ord), (196, 4, bad.toNat), (224, 16, tok.getD 0),
    (240, 1, if tok.isSome then 1 else 0), (255, 1, if s2c then 1 else 0)]

/-- STORE_ACK: C in [63:0], valid words in [95:64], cause in [103:96]. -/
def storeAckCtl (c valid cause : Nat) : Beat := beatOf [(0, 64, c), (64, 32, valid), (96, 8, cause)]

/-- Operand bytes per lane in an ATOMIC packet (16 R418). -/
def atomOperand (op : AtomOp) : Nat :=
  match op with
  | .casB64 => 16
  | .addN64 | .exchB64 | .casB32 => 8
  | .addN32 | .minI32 | .maxI32 | .minN32 | .maxN32 | .andB32 | .orB32 | .xorB32 | .exchB32 | .addF32 => 4

/-- The 32 words of a line that lanes touch. -/
def laneWords (l : List TxnLane) : Nat :=
  (List.range 32).foldl (fun m k =>
    if l.any fun t => decide (t.addr % 128 < 4 * k + 4) && decide (4 * k < t.addr % 128 + t.bytes) then m + 2 ^ k else m) 0

/-- ATOMIC (16 R418). -/
def atomicBeats (op : AtomOp) (ord scope : Nat) (ret s2c : Bool) (ident : Nat) (l : List TxnLane) : List Beat :=
  let w := atomOperand op
  let desc := l.zipIdx.map fun p => (96 + 16 * p.2, 16, p.1.lane % 32 + p.1.addr % 128 / 4 * 32)
  let data := (l.map fun t => (t.data ++ List.replicate w 0).take w).flatten
  beatOf ([(0, 64, ident), (64, 8, op.code.toNat), (72, 3, ord), (75, 3, scope), (80, 4, l.length), (88, 1, if ret then 1 else 0),
    (255, 1, if s2c then 1 else 0)] ++ desc) :: beatsOf (ceilDiv data.length 32) data

/-- The 128 bytes and the byte mask of a store's lanes. -/
def storeLine (l : List TxnLane) : List Byte × Nat :=
  (l.foldl storeLane (List.replicate 128 0),
   (List.range 128).foldl (fun m k =>
     if l.any fun t => decide (t.addr % 128 ≤ k) && decide (k < t.addr % 128 + t.data.length) then m + 2 ^ k else m) 0)

/-- Packets of lanes of one line, at most `n` lanes to a packet. -/
def chunksOf {α : Type} (n : Nat) : Nat → List α → List (List α)
  | 0, _ => []
  | k + 1, l => if l.isEmpty then [] else l.take n :: chunksOf n k (l.drop n)

end Sys2Proof.Machine
end

