-- ==== Sys2Proof/Machine/Order.lean ====
section
/-! DEFINITION. Accesses and their order: pending times, the conditions of fences, transactions on their way, the
write-combining buffer's drains, and the boundaries at which causes are delivered (04 R123 to R129, R141, R153, 10 R286,
16 R425, R434). -/

namespace Sys2Proof.Machine

/-! ### Pending times (04 R125, Table 4.3) -/

/-- Open accesses of a group. -/
def State.openOf (s : State) (id : TeamId) (grp : Nat) : List Access :=
  s.traffic.accesses.filter fun a => a.team == id && a.group == grp

/-- A clear, or a drain to the own scratchpad, which contributes at every scope (Table 4.3). -/
def Access.isClear (a : Access) : Bool :=
  match a.dst with
  | .woclr _ _ _ => true
  | .drain _ => a.scope == .team
  | _ => false

/-- Whether a write's kind contributes at a scope: a global store that is not SC does not at team scope. -/
def Access.counts (a : Access) (sc : Nat) : Bool := a.isStore && (sc != 0 || a.isSc || a.isClear)

/-- Every earlier load and atomic of the group has returned its data. -/
def State.readsDone (s : State) (id : TeamId) (grp : Nat) : Bool := (s.openOf id grp).all fun a => !a.isLoad

/-- GTC > P[s] with every contributing write accepted and answered (04 R125). -/
def State.writesDone (s : State) (id : TeamId) (grp sc : Nat) (pend : SMap Nat) : Bool :=
  ((s.openOf id grp).all fun a => !a.counts sc) &&
    (sc == 0 || s.traffic.txns.all fun t => !t.contribs.contains (id, grp)) &&
    (sc == 0 || s.traffic.drained.all fun w => !w.2.groups.contains (id, grp)) &&
    (sc == 0 || s.cores.all fun c => c.2.wcb.all fun w => !w.groups.contains (id, grp)) &&
    decide (smGet 0 pend sc < s.gtc)

/-- The rel condition of R126 at a scope. -/
def State.relDone (s : State) (id : TeamId) (grp sc : Nat) (pend : SMap Nat) : Bool :=
  s.readsDone id grp && s.writesDone id grp sc pend

/-! ### Accesses and transactions -/

/-- Adds an access. -/
def State.addAccess (s : State) (a : Access) : State :=
  s.modTraffic fun t => { t with accesses := t.accesses ++ [a] }

/-- Applies `f` to an access. -/
def State.modAccess (s : State) (id : Nat) (f : Access → Access) : State :=
  s.modTraffic fun t => { t with accesses := t.accesses.map fun a => if a.id == id then f a else a }

/-- An access after answers of one of its parts. -/
def Access.got (a : Access) (part : Nat) (ans : List LaneAns) (eff : Nat) : Access :=
  { a with answers := a.answers ++ ans, open_ := a.open_.filter fun k => k != part, effect := max a.effect eff }

/-- Raises the pending times of groups. -/
def State.raiseGroups (s : State) (l : List (TeamId × Nat)) (team : Bool) (t : Nat) : State :=
  l.foldl (fun s p => s.modGroup p.1 p.2 fun g => g.raise team t) s

/-- Raises the pending times at system scope of groups. -/
def State.raiseSystem (s : State) (l : List (TeamId × Nat)) (t : Nat) : State :=
  l.foldl (fun s p => s.modGroup p.1 p.2 fun g => g.raiseSystem t) s

/-- The answer of a transaction: it leaves, its access notes the lanes, and the groups that read its bytes by forwarding
take its effect time (04 R123); `post` is the time of a posted write to host memory (Table 4.3). -/
def State.answerTxn (s : State) (t : Txn) (ans : List LaneAns) (eff : Nat) (post : Nat := 0) : State :=
  let s := s.modTraffic fun x => { x with txns := x.txns.filter fun u => u.id != t.id }
  let s := (s.raiseGroups t.contribs (t.cls == .sc) eff).raiseSystem t.contribs post
  match t.acc with
  | some a => s.modAccess a fun x =>
      { x.got t.id (ans.map fun n => { n with member := t.member }) eff with posted := max x.posted post }
  | none => s.modTraffic fun x => { x with fetches := x.fetches.map fun f =>
      if f.txn == t.id then { f with ans := some ans, time := eff } else f }

/-- The bank request of a transaction of a team whose home is on this module. -/
def Txn.who (t : Txn) : Who := { agent := t.agent, team := t.team, writer := some t.agent.pchip, checked := true }

/-- The effective-address cause list of lanes whose home failed: the pod address (02 R58). -/
def failLanes (l : List TxnLane) (cause : Nat) (pod : Nat) : List LaneAns :=
  l.map fun t => { lane := t.lane, data := List.replicate t.bytes 0, valid := false,
                   cause := some (cause, pod + t.addr % 128), member := none }

/-- Lanes that are not performed and raise nothing. -/
def voidLanes (l : List TxnLane) : List LaneAns :=
  l.map fun t => { lane := t.lane, data := List.replicate t.bytes 0, valid := false, cause := none, member := none }

/-- A table of dropped stores by chip, with one more. -/
def dropNoted (l : SMap (Nat × Nat)) (lci pod : Nat) : SMap (Nat × Nat) :=
  match l.find? (fun p => p.1 == lci) with
  | some p => (lci, (min p.2.1 pod, p.2.2 + 1)) :: l.filter fun q => q.1 != lci
  | none => (lci, (pod, 1)) :: l

/-- Counts a dropped store of a chip (16 R434, R437). -/
def State.noteDrop (s : State) (lci pod : Nat) : State :=
  s.modMod fun m => { m with dropped := dropNoted m.dropped lci pod }

/-- The pod address of a remote line. -/
def Txn.pod (t : Txn) : Nat := match t.home with | .remote p => p | .here _ _ => 0

/-- The lci of the requester. -/
def Txn.lci (t : Txn) (s : State) : Nat :=
  match t.team with
  | some id => id.lci
  | none => (s.chipOfPod 0 t.agent.pchip).getD 0

/-- A request towards a lost peer is answered here (16 R434). -/
def State.loseTxn (s : State) (t : Txn) (lci cause : Nat) : State :=
  match t.kind with
  | .store => (s.noteDrop lci t.pod).answerTxn t (voidLanes t.lanes) 0
  | .load => s.answerTxn t (failLanes t.lanes cause t.pod) 0
  | .atomic _ _ => s.answerTxn t (failLanes t.lanes cause t.pod) 0

/-- The request packet of a transaction whose home is on another module (02 R58, 16 R416 to R418). -/
def Txn.draft (t : Txn) (dst : Nat) (ord : Ord) : Draft :=
  let ident := t.agent.ident
  let o := ord.code.toNat
  let d : Draft := { ty := ptLoad, src := t.agent.pchip, dst := dst, addr := t.pod, msgid := t.msgid,
                     prio := (t.pull.map (·.1)).getD 0, cls := t.cls.code, scope := t.scope.code.toNat, beats := [] }
  match t.kind with
  | .load => { d with beats := [loadCtl (laneWords t.lanes) o (if t.sync || t.cls == .pv then ident else 0) t.s2cls] }
  | .store =>
    let l := storeLine t.lanes
    { d with ty := ptStore, beats := storeCtl l.2 ident o t.s2cls (badSectors t.lanes) (t.pull.map (·.2)) :: beatsOf 4 l.1 }
  | .atomic op ret =>
    { d with ty := ptAtomic, beats := atomicBeats op o t.scope.code.toNat ret t.s2cls ident t.lanes }

/-- Sends a transaction to its remote home. -/
def State.sendTxn (s : State) (lci : Nat) (t : Txn) : State :=
  match s.chip? lci with
  | none => s.loseTxn t lci Cause.peerLost
  | some c =>
    match s.sendDraft c.ident.gid (t.draft (podChip c.ident.chw t.pod) (if t.sync then .acq else .weak)) with
    | .sent s => s
    | .here _ => s.loseTxn t lci Cause.fabric
    | .lost => s.loseTxn t lci Cause.peerLost
    | .unassigned => s.loseTxn t lci Cause.fabric

/-- Two transactions that their core keeps in order: of one line and class, and the accesses of one team to PV lines
(04 R128, R134, Table 4.6). -/
def Txn.sameQueue (t u : Txn) : Bool :=
  t.core == u.core &&
    (if t.cls == .pv && u.cls == .pv then t.team == u.team && (t.home == u.home || (t.acc.isSome && u.acc.isSome))
     else t.home == u.home && t.cls == u.cls)

/-- A WO line with a store of the core that has not completed: its loads wait for it (04 R123, R131). -/
def State.woLate (s : State) (t : Txn) : Bool :=
  t.cls == .wo && (s.core t.core).late.any fun p => p.1 == t.home && decide (s.gtc < p.2)

/-- Notes a WO store of a core until its effect time, and forgets those that have completed (04 R123). -/
def State.noteLate (s : State) (core : Nat) (home : Home) (cls : Cls) (c : Nat) : State :=
  if cls != .wo then s
  else s.modCore core fun x => { x with late := (x.late.filter fun p => decide (s.gtc < p.2)) ++ [(home, c)] }

/-- Adds a transaction and, for a remote home, sends its packet. PV accesses stay with the owner's L1, and a load of a WO
line waits for the core's own stores to it. Packets of one line arrive in the order in which they leave (16 R418). -/
def State.addTxn (s : State) (lci : Nat) (t : Txn) : State :=
  let waits := (t.cls == .pv && !t.s2cls) || (t.kind == .load && s.woLate t)
  match t.home with
  | .here _ _ => s.modTraffic fun x => { x with txns := x.txns ++ [t] }
  | .remote _ =>
    let s := s.modTraffic fun x => { x with txns := x.txns ++ [{ t with sent := !waits }] }
    if waits then s else s.sendTxn lci t

/-- Sends a transaction that has waited at its core. -/
def State.sendLate (s : State) (t : Txn) (as : Txn) : State :=
  let s := s.modTraffic fun x => { x with txns := x.txns.map fun u => if u.id == t.id then { u with sent := true } else u }
  s.sendTxn (t.lci s) { as with sent := true }

/-- A core's copy of a line leaves its L1. -/
def State.dropCopy (s : State) (core : Nat) (home : Home) (cls : Cls) : State :=
  match (s.core core).line? home with
  | some l => if l.cls == cls then s.modCore core fun c => c.dropKey home else s
  | none => s

/-! ### The write-combining buffer (10 R286, 16 R425) -/

/-- The bytes and mask of an entry as a line. -/
def Wcb.image (w : Wcb) : List Byte × Nat :=
  ((List.range 128).map fun k => smGet 0 w.bytes k,
   w.bytes.foldl (fun m p => m + 2 ^ p.1) 0)

/-- The core of an agent. -/
def Agent.coreId (a : Agent) : Nat := a.die * 128 + a.clus * 4 + a.core

/-- The answer of a drained line: every contributing lane alike (16 R425). A store that was not performed leaves no trace in
the core's own copy, and a WO store that was is waited for until its effect time (04 R123, R131). -/
def State.answerWcb (s : State) (w : Wcb) (valid : Bool) (cause eff : Nat) : State :=
  let s := if valid then s.noteLate w.agent.coreId (.remote w.pod) w.cls eff
    else s.dropCopy w.agent.coreId (.remote w.pod) w.cls
  let s := s.raiseGroups w.groups false eff
  let ans := fun (ln ea : Nat) =>
    ({ lane := ln, data := [], valid := valid,
       cause := if cause = 0 then none
         else some (cause, if cause = Cause.fabric || cause = Cause.peerLost then w.pod + ea % 128 else ea),
       member := none } : LaneAns)
  let s := w.accs.foldl (fun s p => s.modAccess p.1 fun a => { a with answers := a.answers ++ [ans p.2.1 p.2.2] }) s
  ((w.accs.map (·.1)).eraseDups).foldl (fun s k => s.modAccess k fun a => a.got w.id [] eff) s

/-- An entry leaves the buffer as one STORE packet. -/
def State.drainEntry (s : State) (core : Nat) (w : Wcb) : State :=
  let s := s.modCore core fun c => { c with wcb := c.wcb.filter fun x => x.id != w.id }
  let lost := fun (s : State) => (s.noteDrop w.lci w.pod).answerWcb w false 0 0
  match s.chip? w.lci with
  | none => lost s
  | some c =>
    let id := s.newMsgid
    let r := { s with free := s.free + 1 }.fresh
    let s := r.2
    let w := { w with sentAs := r.1 }
    let im := w.image
    match s.sendDraft c.ident.gid {
      ty := ptStore, src := w.pchip, dst := podChip c.ident.chw w.pod, addr := w.pod, msgid := id, prio := 0,
      cls := w.cls.code, scope := w.scope.code.toNat, beats := storeCtl im.2 w.agent.ident 0 false :: beatsOf 4 im.1 } with
    | .sent s => s.modTraffic fun t => { t with drained := t.drained ++ [(id, w)] }
    | .here _ => lost s
    | .lost => lost s
    | .unassigned => lost s

/-- Drains every line that holds stores of a group (04 R126, R153). -/
def State.drainGroup (s : State) (core : Nat) (id : TeamId) (grp : Nat) : State :=
  ((s.core core).wcb.filter fun w => w.groups.contains (id, grp)).foldl (fun s w => s.drainEntry core w) s

/-- Drains one entry by number. -/
def State.drainOne (s : State) (core wid : Nat) : State :=
  match (s.core core).wcb.find? (fun w => w.id == wid) with
  | some w => s.drainEntry core w
  | none => s

/-! ### Boundaries (04 R141) -/

/-- Delivers the oldest cause that a group holds. -/
def State.deliver (s : State) (id : TeamId) (grp core : Nat) (d : Deferred) : State :=
  let s := s.modGroup id grp fun g => { g with ord := { g.ord with deferred := g.ord.deferred.erase d } }
  s.takeTrap id grp core { cause := d.cause, lanes := d.lanes, addr := d.addr } d.pc d.issuedAfter

/-- The boundary before a FENCE, an EXIT or a synchronising access: it waits until the answers that may carry a cause are
in (`stores` too, not only loads), and delivers what they brought. `none`: the instruction may execute. -/
def Ix.boundary (x : Ix) (stores : Bool) : Option State :=
  let waiting := (x.s.openOf x.t.id x.cur.group).any fun a => a.isLoad || (stores && a.isStore)
  let buffered := stores && (x.s.core x.cur.core).wcb.any fun w => w.groups.contains (x.t.id, x.cur.group)
  if waiting || buffered then
    some (if stores then (x.withState (x.s.drainGroup x.cur.core x.t.id x.cur.group)).hold else x.hold)
  else
    match x.g.ord.deferred with
    | [] => none
    | d :: _ => some (x.s.deliver x.t.id x.cur.group x.cur.core d)

/-- The wait of a release at a scope (04 R126): `none` when the condition holds. -/
def Ix.awaitRel (x : Ix) (sc : Scope) : Option State :=
  let k := sc.code.toNat
  if x.s.relDone x.t.id x.cur.group k x.g.ord.pend then none
  else if k = 0 then some x.hold
  else some (x.withState (x.s.drainGroup x.cur.core x.t.id x.cur.group)).hold

end Sys2Proof.Machine
end

