-- ==== Sys2Proof/Machine/Issue.lean ====
section
/-! DEFINITION. Which group may issue, what an issue fetches and decodes, and what follows an issue: counters, the issue
distance clock, runs, YIELD and steps (05 R168 to R172, 06 R187, R197, R200, R203, 14 R369, 17 R443, R449). -/

namespace Sys2Proof.Machine

/-! ### Eligibility -/

/-- Lanes of a group that may issue: READY, and in handler mode only those of sr.tlanes (05 R168, 14 R369). -/
def Group.readyMask (g : Group) : Mask :=
  if g.trap.handler then g.inState .ready &&& g.trap.tlanes else g.inState .ready

/-- The least PC of a set of lanes (05 R169). -/
def Group.minPc (g : Group) (m : Mask) : Nat :=
  match (lanesOf m).map fun l => (g.lane l).pc.toNat with
  | [] => 0
  | a :: r => r.foldl min a

/-- The lanes that an issue takes: those at the least PC. -/
def Group.issuedMask (g : Group) : Mask :=
  let m := g.readyMask
  let p := g.minPc m
  maskWhere fun l => m.getLsbD l && (g.lane l).pc.toNat == p

/-- Every counter that WAIT names is zero (06 R197). -/
def waitsMet (sc : Sched) (g : Group) : Bool :=
  (List.range 6).all fun j => !sc.wait.getLsbD j || smGet 0 g.ord.sb j == 0

/-- SET names no counter at 63, beside `k` other instructions that raise it now (06 R197). -/
def setRoom (sc : Sched) (g : Group) (k : Nat) : Bool :=
  sc.set == 7 || decide (smGet 0 g.ord.sb sc.set.toNat + k < 63)

/-- Whether the debug state of the team lets a group issue (17 R442, R443, R448, R449). -/
def Team.dbgLets (t : Team) (grp : Nat) (n : Nat) (skidding : Bool) : Bool :=
  match t.dbg.state with
  | 0 => true
  | 1 => skidding && !(t.dbg.tgroup == some grp && (t.dbg.trig == 2 || t.dbg.trig == 4)) && !t.dbg.mark &&
      decide ((t.group grp).skid + n ≤ if t.dbg.trig = 5 then 16 else 8)
  | 2 => false
  | _ => (t.group grp).stepping

/-- A group that may issue, apart from the instruction it would issue: its team runs on a core, it has a lane to issue and
nothing holds it. -/
def Team.groupFree (t : Team) (grp : Nat) (skidding : Bool) : Bool :=
  t.core?.isSome && !t.stopping && !t.ended && (t.leave == 0 || (t.leave == 2 && (t.group grp).run.isSome)) && decide (grp < t.desc.groupCount) &&
    t.dbgLets grp 1 skidding && (t.group grp).ord.holds.isEmpty && (t.group grp).readyMask != 0

/-- The WAIT condition of what stands at a group's least PC: of both members for a pair (06 R197, R200). -/
def lineLets (g : Group) (l : Line) (m : Nat) : Bool :=
  let ok := fun (w : IWord) => waitsMet (Sched.ofWord w) g
  ok (l.slot (pcSlot m)) && (!l.pair (pcSlot m) || ok (l.slot (pcSlot m + 1)))

/-- The SET condition of what stands at a group's least PC: where it fails, the instruction waits at issue (06 R197). A pair
issues in one cycle (06 R200), and the spec does not say whether one whose members both SET a counter at 62 waits: here it
does, so that the counter of 6 bits stays one (log 80). -/
def lineRoom (g : Group) (l : Line) (m : Nat) : Bool :=
  let a := Sched.ofWord (l.slot (pcSlot m))
  let b := Sched.ofWord (l.slot (pcSlot m + 1))
  setRoom a g 0 && (!l.pair (pcSlot m) || setRoom b g (if a.set = b.set then 1 else 0))

/-- A group that is eligible to start a run (05 R170). -/
def State.eligible (s : State) (t : Team) (grp : Nat) : Bool :=
  t.groupFree grp false && t.leave == 0 && (t.resumeAfter == 0 || decide (t.resumeAfter < s.gtc)) && !(t.group grp).ord.held &&
    (match t.core? with
     | none => false
     | some core =>
       let g := t.group grp
       match s.codeLine? core t.id.lci (pcLine (g.minPc g.readyMask)) with
       | none => true
       | some l => (s.lineCause core t.id.lci (pcLine (g.minPc g.readyMask)) l).isSome || lineLets g l (g.minPc g.readyMask))

/-! ### What an issue finds -/

/-- The outcome of looking at a group's next instruction. -/
inductive Prep where
  /-- The group issues nothing. -/
  | idle
  /-- The run ends before an instruction that waits (05 R170), or the group is held at its issue (06 R197). -/
  | waits (s : State)
  /-- The instruction trapped before it was performed (06 R203). -/
  | trapped (s : State)
  /-- The instruction, the state with the issue latch set, its line and its PC. -/
  | run (i : Instr) (s : State) (l : Line) (m : Nat)
  deriving DecidableEq, Repr

/-- Ends a group's run; the group becomes eligible anew (05 R170, 13 R367). -/
def Group.endRun (g : Group) (now : Nat) : Group := { g with run := none, eligibleAt := now }

/-- A trap at fetch or decode for every issued lane, which ends the run (06 R203). -/
def State.decodeTrap (s : State) (id : TeamId) (grp core m : Nat) (issued : Mask) (cause addr : Nat) : State :=
  (s.takeTrap id grp core { cause := cause, lanes := issued, addr := addr } (BitVec.ofNat 64 m) false).modGroup id grp
    fun g => g.endRun s.gtc

/-- The cause of a failed decode check. -/
def decodeCause : DecodeTrap → Nat
  | .reservedBits => Cause.reservedBits
  | .illegalOp => Cause.illegalOp

/-- Decodes the slot at `m` of a line that has been fetched, and sets the issue latch (06 R186, R203). -/
def State.decodeAt (s : State) (id : TeamId) (grp core : Nat) (l : Line) (m : Nat) (issued : Mask) (first : Bool) :
    Prep :=
  let w := l.slot (pcSlot m)
  let go := fun (s : State) (r : Record) =>
    match decode w r with
    | .error e => Prep.trapped (s.decodeTrap id grp core m issued (decodeCause e) (pcLine m))
    | .ok i =>
      .run i
        { s with
          cur := some {
            team := id, group := grp, core := core, pc := BitVec.ofNat 64 m,
              next := BitVec.ofNat 64 (s.seqPc core id.lci l m), issued := issued, line := BitVec.ofNat 64 (pcLine m),
              first := first } } l m
  if l.isData (pcSlot m) then .trapped (s.decodeTrap id grp core m issued Cause.badTarget m)
  else if isFormatX (slotOp w) then
    match s.readRecord core id.lci l m with
    | .fail c a s => .trapped (s.decodeTrap id grp core m issued c a)
    | .rec_ r s => go s r
  else go s 0

/-- Writes whose counter is about to have been waited on are covered (06 R197). -/
def Group.waited (g : Group) (sc : Sched) : Group :=
  let gone := fun (f : Flight) =>
    match f.cover with
    | .fixed _ => false
    | .counter none => false
    | .counter (some j) => f.acc.isNone && sc.wait.getLsbD j
  { g with ord := { g.ord with flights := settleFlights gone [] g.ord.flights } }

/-- The oldest cause whose counter the WAIT field of what issues next names (04 R141). -/
def waitCause (g : Group) (l : Line) (m : Nat) : Option Deferred :=
  let names := fun (w : IWord) (j : Nat) => (Sched.ofWord w).wait.getLsbD j
  g.ord.deferred.find? fun d =>
    match d.ctr with
    | none => false
    | some j => names (l.slot (pcSlot m)) j || (l.pair (pcSlot m) && names (l.slot (pcSlot m + 1)) j)

/-- Fetches what stands at a group's least PC and checks whether it may issue. -/
def State.prepare (s : State) (id : TeamId) (grp : Nat) : Prep :=
  match s.team? id with
  | none => .idle
  | some t =>
    match t.core? with
    | none => .idle
    | some core =>
      let g := t.group grp
      if !t.groupFree grp true || g.run.isNone then .idle
      else
        let issued := g.issuedMask
        let m := g.minPc g.readyMask
        match s.fetchLine core id.lci (pcLine m) with
        | .fail c s => .trapped (s.decodeTrap id grp core m issued c (pcLine m))
        | .line l s =>
          match s.lineCause core id.lci (pcLine m) l with
          | some c => .trapped (s.decodeTrap id grp core m issued c (pcLine m))
          | none =>
            let pair := l.pair (pcSlot m)
            let count := match g.run with | some r => r.count | none => 0
            if !lineLets g l m || (pair && (decide (23 ≤ count) || !t.dbgLets grp 2 true)) then
              .waits (s.modGroup id grp fun g => g.endRun s.gtc)
            else
              match waitCause g l m with
              | some d => .trapped ((s.deliver id grp core d).modGroup id grp fun g => g.endRun s.gtc)
              | none =>
                if !lineRoom g l m then
                  .waits (s.modGroup id grp fun g => { g with ord := { g.ord with held := true } })
                else
                  let s := s.modGroup id grp fun g =>
                    let g := g.waited (Sched.ofWord (l.slot (pcSlot m)))
                    if pair then g.waited (Sched.ofWord (l.slot (pcSlot m + 1))) else g
                  s.decodeAt id grp core l m issued pair

/-! ### What follows an issue -/

/-- Whether the first member of a pair completed: it was not held and did not trap (06 R200). -/
def State.firstDone (before after : State) (id : TeamId) (grp : Nat) : Bool :=
  match before.team? id, after.team? id with
  | some t, some u =>
    !(u.group grp).ord.held && !u.stopping && !((u.group grp).trap.handler && !(t.group grp).trap.handler)
  | some _, none => false
  | none, _ => false

/-- Lanes in a YIELD that an issue to `issued` releases (05 R172). -/
def Group.releaseYield (g : Group) (issued : Mask) : Group :=
  let waits := maskWhere fun l => (g.lane l).st == .waiting && (g.lane l).wait == some .yield
  let out := waits &&& ~~~ issued
  let g := (lanesOf out).foldl Group.wake g
  if g.inState .ready = 0 then (lanesOf waits).foldl Group.wake g else g

/-- Issue distance after an instruction, and the writes in flight that still matter (06 R196). -/
def Group.tickDist (g : Group) (n : Nat) : Group :=
  let fl := (g.ord.flights.map fun f => { f with pair := false })
  { g with ord := { g.ord with dclk := g.ord.dclk + n, flights := liveFlights fl (g.ord.dclk + n) } }

/-- The run of a group after it issued `k` instructions, one or the two adjacent ones of a pair, the last at `m` with `seq`
`nx` (05 R170). -/
def Group.runAfter (g : Group) (now k m nx : Nat) (fin trapped : Bool) : Group :=
  match g.run with
  | none => g
  | some r =>
    let pcs := ((List.range k).map fun i => m - i) ++ r.pcs
    let p := g.minPc g.readyMask
    if fin || decide (24 ≤ r.count + k) || trapped || g.readyMask == 0 || !(p == nx || pcs.contains p) then g.endRun now
    else { g with run := some { r with count := r.count + k, pcs := pcs } }

/-- Accesses and causes of a group that an issue has followed (04 R141); `n` accesses were numbered before it, and `k`
causes were held. -/
def State.follow (s : State) (id : TeamId) (grp n k : Nat) : State :=
  let s := s.modTraffic fun t => { t with accesses := t.accesses.map fun a =>
    if a.team == id && a.group == grp && decide (a.id < n) then { a with followed := true } else a }
  s.modGroup id grp fun g => { g with ord := { g.ord with
    deferred := (g.ord.deferred.take k).map (fun d => { d with issuedAfter := true }) ++ g.ord.deferred.drop k } }

/-- The end of a step: the group that stepped stops again (17 R449). -/
def State.endStep (s : State) (id : TeamId) (grp pc : Nat) : State :=
  s.modTeam id fun t =>
    if t.dbg.state = 3 && (t.group grp).stepping then
      { t.modGroup grp (fun g => { g with stepping := false, skid := 0 }) with
        dbg := { t.dbg with state := 1, trig := 4, trigT := s.gtc, taddr := pc, tgroup := some grp } }
    else t

/-- What follows an issue of `k` instructions of a group, the last with scheduling fields `sc` at `m`. -/
def State.afterIssue (before s : State) (c : Cur) (sc : Sched) (k : Nat) : State :=
  let held := match before.team? c.team with | some t => (t.group c.group).ord.deferred.length | none => 0
  let s := if before.firstDone s c.team c.group then s.follow c.team c.group before.ids held else s
  let s := { s with cur := none }
  match s.team? c.team with
  | none => s
  | some t =>
    let g := t.group c.group
    if g.ord.held then s
    else
      let done := before.firstDone s c.team c.group
      let s := if done then s.count (dieOf c.core) c.team.lci 2 k else s
      let g := g.tickDist (if done then 1 + sc.stall.toNat else 0)
      let g := if done then g.releaseYield c.issued else g
      let g := g.runAfter s.gtc k c.pc.toNat c.next.toNat sc.fin (!done)
      let g := { g with skid := if t.dbg.state = 1 then g.skid + k else g.skid }
      (s.setTeam (t.setGroup c.group g)).endStep c.team c.group c.pc.toNat

/-- Groups whose last attempt was held may try again after any other step. -/
def State.clearHeld (s : State) : State :=
  if s.teams.any fun t => t.groups.any fun p => p.2.ord.held then
    { s with teams := s.teams.map fun t => { t with groups := t.groups.map fun p =>
        (p.1, { p.2 with ord := { p.2.ord with held := false } }) } }
  else s

/-- A hold that still lasts; one on an access ends with its answer (05 R168, 04 R127, R141). -/
def State.holdLasts (s : State) (id : TeamId) (grp : Nat) (pend : SMap Nat) (h : Hold) : Bool :=
  match h with
  | .answer _ => true
  | .clock t => decide (s.gtc ≤ t)
  | .pending sc => !s.writesDone id grp sc.code.toNat pend

/-- Drops the holds that have ended. -/
def State.dropHolds (s : State) : State :=
  if s.teams.any fun t => t.groups.any fun p => !p.2.ord.holds.isEmpty then
    { s with teams := s.teams.map fun t => { t with groups := t.groups.map fun p =>
        (p.1, { p.2 with ord := { p.2.ord with holds := p.2.ord.holds.filter (s.holdLasts t.id p.1 p.2.ord.pend) } }) } }
  else s

/-- The least PC of a group, where it stands before an issue. -/
def State.leastPc (s : State) (id : TeamId) (grp : Nat) : Nat :=
  match s.team? id with
  | some t => (t.group grp).minPc (t.group grp).readyMask
  | none => 0

end Sys2Proof.Machine
end

