-- ==== Sys2Proof/Machine/Agenda.lean ====
section
/-! DEFINITION. Turns that no opcode-table row names (evictions and uncorrectable errors), the group that issues by default,
and what every step does to the clocks (assumption log 4, 5, 11). -/

namespace Sys2Proof.Machine

/-- An instruction cache line leaves (06 R182). -/
def State.evictCode (s : State) (core line : Nat) : State :=
  s.modCore core fun c => { c with icache := c.icache.filter fun p => p.1 != line }

/-- A translation leaves the TLBs of a core (02 R60). -/
def State.evictTlb (s : State) (core lci input : Nat) : State :=
  let keep := fun (t : Tlb) => !(t.lci == lci && t.input == input)
  s.modCore core fun c => { c with dtlb := c.dtlb.filter keep, itlb := c.itlb.filter keep, stlb := c.stlb.filter keep }

/-- An uncorrectable error in a register of a lane (18 R469, 11 R314). -/
def State.registerError (s : State) (id : TeamId) (grp lane reg : Nat) : State :=
  s.modGroup id grp fun g => { g with bad := smSet false g.bad (256 * (lane % 32) + reg % 256) true }

/-- An uncorrectable error in an accumulator element (03 R111). -/
def State.accError (s : State) (id : TeamId) (elem : Nat) : State :=
  s.modTeam id fun t => { t with accPoison := smSet false t.accPoison elem true }

/-- One more error that a unit corrects (03 R111, 18 R469). -/
def State.noteCorrected (s : State) (u : EccUnit) : State :=
  s.modHub fun x =>
    let l := if x.corrected.any fun p => p.1 == u then x.corrected.map fun p => if p.1 == u then (u, p.2 + 1) else p
      else x.corrected ++ [(u, 1)]
    { x with corrected := l }

/-- A host access to bytes of one line of device memory: an RC access of system scope at the bank of its home chip, which
takes effect at its C there. On a line of another class it is not performed, ends with an error on the host link, and posts
CLASS_ALIAS_HOST (04 R140, R155, log 86). -/
def State.hostAccess (s : State) (lci mpa : Nat) (data : Option (List Byte)) : State :=
  if (s.chip? lci).isNone || mpaRegion mpa != 0 then s
  else if (s.bankLine? lci (mpa / 128)).any fun b => b.cls != .rc then s.postPf 0x0023 mpa 0
  else
    match data with
    | some l => (s.pokeLine lci mpa (l.take (128 - mpa % 128)) .rc).1
    | none =>
      if s.hole mpa then s.postPf 0x0022 (mpa / 128 * 128) lci
      else
        let s := s.bankRoom lci (mpa / 128)
        s.putLine (s.lineFor lci (mpa / 128) .rc)

/-- The first group that holds an issue slot and may issue. -/
def State.runningGroup (s : State) : Option (TeamId × Nat) :=
  s.teams.findSome? fun t =>
    (t.groupNums.find? fun n => t.groupFree n true && (t.group n).run.isSome && !(t.group n).ord.held).map fun n => (t.id, n)

/-- The times from which a team has had no READY lane and a group has been eligible (05 R177, 13 R367). -/
def State.clocksOf (s : State) (t : Team) : Team :=
  { t with
    idleSince := if t.core?.isSome && (t.dbg.state != 0 || t.groups.any fun p => p.2.inState .ready != 0) then s.gtc else t.idleSince
    groups := t.groups.map fun p =>
      (p.1, if p.2.run.isNone && !s.eligible t p.1 then { p.2 with eligibleAt := s.gtc } else p.2) }

/-- GTC some ticks later: a counter of 64 bits (00 R4). -/
def State.later (s : State) (n : Nat) : State := { s with gtc := (s.gtc + n) % 2 ^ 64 }

/-- Time and the counter of free values advance with every step; holds end and rings announce what has completed (assumption
log 4, 04 R155). -/
def State.settle (s : State) : State :=
  let s := (State.later { s with free := s.free + 1 } 1).announce.dropHolds
  { s with teams := s.teams.map s.clocksOf }

end Sys2Proof.Machine
end

