-- ==== Sys2Proof/Machine/Flags.lean ====
section
/-! DEFINITION. Predicate results: compares, truth tables and predicate vectors (08 R239 to R241). The part has no flags
register; its predicates are its flags. -/

namespace Sys2Proof.Machine

/-- CMP, MOD[8:5] (08 R239). -/
def cmpOf (f : FmtR) : Nat := modField f.mod 5 4

/-- A predicate as 0 or 1. -/
def flag (b : Bool) : Nat := if b then 1 else 0

/-- The bit of a truth table for inputs a, b, c (Table 8.1). -/
def lutBit (lut a b c : Nat) : Bool := lut.testBit (a + 2 * b + 4 * c)

/-- Bit `i` of LUT3 for every bit of three words (08 R238). -/
def lut3Word (lut a b c : Nat) : Nat :=
  (List.range 32).foldl (fun n i => n + if lutBit lut (bits a i 1) (bits b i 1) (bits c i 1) then 2 ^ i else 0) 0

/-- The predicates of a lane as P2V gives them: p0 to p6 and p7, which is true (08 R241). -/
def Ix.predBits (x : Ix) (l : Nat) : Nat :=
  (List.range 8).foldl (fun n k => n + if x.g.seePred x.s.free l k then 2 ^ k else 0) 0

/-- Writes of the predicates that a mask selects, from the bits of a value (08 R241). -/
def predWrites (l mask v : Nat) : List Wr :=
  ((List.range 7).filter fun k => mask.testBit k).map fun k =>
    { lane := l, key := predKey k, val := if v.testBit k then 1 else 0 }

/-- The predicate after the one an operand names: the second half of HSETP2 (08 R240). -/
def predNext (o : Opd) : Opd :=
  match o with
  | .p k => .p (k + 1)
  | .v _ => .zero
  | .d _ => .zero
  | .t _ => .zero
  | .a _ => .zero
  | .zero => .zero
  | .c _ => .zero

end Sys2Proof.Machine
end

