-- ==== Sys2Proof/Machine/GroupOps.lean ====
section
/-! DEFINITION. Group operations over the active lanes of one issue, Tables 8.9 and 8.10 (08 R250, R251). -/

namespace Sys2Proof.Machine

/-- Reads SA in every active lane, and writes to each the value of a function of the lane and of those values. -/
def groupOp (f : FmtR) (s : State) (x : (Nat → Nat) → List Nat → Nat → Nat) : Out :=
  issue s f.sched fun i =>
    i.alu f.sched 6 (opsR1 f) fun r => x (fun m => (i.args (opsR1 f) m).a) (lanesOf i.active) r.lane

/-- VOTE by MOD[1:0]: all, any, uni, ballot. -/
def execVote (f : FmtR) (s : State) : Out :=
  groupOp f s fun val act _ =>
    match modField f.mod 0 2 with
    | 0 => flag (act.all fun m => val m == 1)
    | 1 => flag (act.any fun m => val m == 1)
    | 2 => flag (act.all (fun m => val m == 1) || act.all (fun m => val m == 0))
    | _ => (maskOf (act.filter fun m => val m == 1)).toNat

/-- MATCH: the active lanes that hold this lane's value. -/
def execMatchv (f : FmtR) (s : State) : Out :=
  groupOp f s fun val act l => (maskOf (act.filter fun m => val m == val l)).toNat

/-- The identity of an operation in a type (Table 8.10). -/
def reduceId (op : Nat) (t : Ty) : Nat :=
  match op with
  | 0 => 0
  | 1 => if t = .f32 then 0x7F800000 else iwrite t false (imax t)
  | 2 => if t = .f32 then 0xFF800000 else iwrite t false (imin t)
  | 3 => 0xFFFFFFFF
  | _ => 0

/-- A reduction of register values (08 R251): an add is exact and then rounded or narrowed once. -/
def reduceVals (op : Nat) (t : Ty) (rm : Rm) (sat : Bool) (l : List Nat) : Nat :=
  let fs := l.map (fdecode .f32)
  let ints := l.map (iread t)
  let out := fun (v : Fv) => roundTo .f32 v (.rm .rne) false
  match l with
  | [] => reduceId op t
  | a :: r =>
    match op with
    | 0 => if t = .f32 then roundTo .f32 (fsum (rm == .rd) fs) (.rm rm) sat else iwrite t sat ints.sum
    | 1 => if t = .f32 then out (fs.tail.foldl (fminmax false) (fdecode .f32 a))
           else iwrite t false (ints.tail.foldl min (iread t a))
    | 2 => if t = .f32 then out (fs.tail.foldl (fminmax true) (fdecode .f32 a))
           else iwrite t false (ints.tail.foldl max (iread t a))
    | 3 => r.foldl (· &&& ·) a
    | 4 => r.foldl (· ||| ·) a
    | _ => r.foldl (· ^^^ ·) a

/-- REDUX: the reduction over all active lanes. -/
def execRedux (f : FmtR) (s : State) : Out :=
  groupOp f s fun val act _ => reduceVals (modField f.mod 0 3) f.ty f.rm f.sat (act.map val)

/-- SCAN: the reduction over the active lanes up to this one, exclusive with MOD[3]. -/
def execScan (f : FmtR) (s : State) : Out :=
  groupOp f s fun val act l =>
    reduceVals (modField f.mod 0 3) f.ty f.rm f.sat
      ((act.filter fun m => if modBit f.mod 3 then decide (m < l) else decide (m ≤ l)).map val)

/-- FIRST: SA of the lowest active lane. -/
def execFirst (f : FmtR) (s : State) : Out := groupOp f s fun val act _ => val (act.headD 0)

/-- PERM: lane l receives SA of lane from(SB[4:0]), read whatever its state. -/
def execPerm (f : FmtR) (s : State) : Out :=
  issue s f.sched fun i =>
    let from_ := fun l => f.perm.from (i.rd l f.sb % 32)
    let srcs := ((i.t.desc.regsOf f.sa).map fun n => (n, maskOf ((lanesOf i.cur.issued).map from_))) ++
      i.own (i.t.desc.regsOf f.sb)
    match i.operandTrap srcs (i.t.desc.regsOf f.dst) with
    | some tr => i.trap tr
    | none => i.finish f.sched (some 6) ((lanesOf i.active).flatMap fun l => i.dst l f.dst (i.rd (from_ l) f.sa))

end Sys2Proof.Machine
end

