-- ==== Sys2Proof/Machine/Bars.lean ====
section
/-! DEFINITION. Barrier objects: their fields, `bar_update`, and what an update releases (09 R263 to R270, 17 R450). -/

namespace Sys2Proof.Machine

/-- A number with bits [lo + len - 1 : lo] replaced. -/
def setBits (x lo len v : Nat) : Nat := x - bits x lo len * 2 ^ lo + v % 2 ^ len * 2 ^ lo

/-- The object at an offset of a team's scratchpad. -/
def Team.bar (t : Team) (ofs : Nat) : Nat := leNat (smRead 0 t.spad ofs 16)
/-- Replaces an object. -/
def Team.putBar (t : Team) (ofs o : Nat) : Team := { t with spad := smWrite 0 t.spad ofs (natLe 16 o) }

/-- GEN. -/
def barGen (o : Nat) : Nat := bits o 0 4
/-- OVERFLOW. -/
def barOvf (o : Nat) : Bool := bits o 4 1 == 1
/-- PTRAP. -/
def barPtrap (o : Nat) : Bool := bits o 5 1 == 1
/-- SLEEP. -/
def barSleep (o : Nat) : Bool := bits o 6 1 == 1
/-- EXPECT. -/
def barExpect (o : Nat) : Nat := bits o 8 11
/-- PENDING. -/
def barPending (o : Nat) : Nat := bits o 19 11
/-- INBOUND. -/
def barIn (o : Nat) : Int := toSigned 24 (bits o 32 24)
/-- OUTBOUND. -/
def barOut (o : Nat) : Int := toSigned 24 (bits o 56 24)
/-- PHASE. -/
def barPhase (o : Nat) : Nat := bits o 80 16

/-- A count within its field. -/
def countFits (x : Int) : Bool := decide (-(2 ^ 23 : Int) ≤ x) && decide (x < (2 ^ 23 : Int))

/-- `bar_update`: the status, or `none` when refused, and the object (09 R267). -/
def barStep (o n : Nat) (u w : Int) : Option Nat × Nat :=
  let i := barIn o + u
  let b := barOut o + w
  if barOvf o || decide (barPending o < n) || !countFits i || !countFits b then (none, setBits o 4 1 1)
  else
    let p := barPending o - n
    let o1 := setBits (setBits (setBits o 19 11 p) 32 24 (wrapNat 24 i)) 56 24 (wrapNat 24 b)
    let st := barPhase o * 65536 + barGen o
    if p = 0 && i = 0 then
      (some (st + 16), setBits (setBits (setBits o1 0 4 (barGen o + 1)) 80 16 (barPhase o + 1)) 19 11 (barExpect o))
    else (some st, o1)

/-- BARWAIT would wait on an object for a generation (09 R270). -/
def barWaits (o gen : Nat) (out : Bool) : Bool := barGen o == gen % 16 || (out && barOut o != 0)

/-- A wait names the object at an offset. -/
def waitNames (w : Option Wait) (ofs : Nat) : Bool :=
  match w with
  | some (.barrier _ a _ _) => a == ofs
  | some (.sleep _ _ (some p)) => p.1 == ofs
  | _ => false

/-- A lane of a group waits in BARWAIT on an offset and its condition no longer holds. -/
def barFreed (x : Lane) (ofs o : Nat) : Bool :=
  match x.wait with
  | some (.barrier _ a gen out) => x.st == .waiting && a == ofs && !barWaits o gen out
  | _ => false

/-- Applies `f` to every group of a team. -/
def Team.mapGroups (t : Team) (f : Group → Group) : Team := { t with groups := t.groups.map fun p => (p.1, f p.2) }
/-- Applies `f` to every lane of a group. -/
def Group.mapLanes (g : Group) (f : Lane → Lane) : Group := { g with lanes := g.lanes.map fun q => (q.1, f q.2) }
/-- A lane that no longer waits. -/
def Lane.ready (x : Lane) : Lane := { x with st := .ready, wait := none }

/-- SLEEP is set while any lane of the team waits on the object (Table 9.3). -/
def Team.markSleep (t : Team) (ofs : Nat) : Team :=
  let busy := t.groups.any fun p => p.2.lanes.any fun q => q.2.st == .waiting && waitNames q.2.wait ofs
  let o := t.bar ofs
  if barSleep o == busy then t else t.putBar ofs (setBits o 6 1 (if busy then 1 else 0))

/-- Lanes that an object no longer holds become READY (09 R270). -/
def Team.freeWaiters (t : Team) (ofs : Nat) : Team :=
  let o := t.bar ofs
  (t.mapGroups fun g => g.mapLanes fun x => if barFreed x ofs o then x.ready else x).markSleep ofs

/-- The lanes of a group that wait in BARWAIT on an offset, by the PC of their BARWAIT. -/
def Group.barWaiters (g : Group) (ofs : Nat) : List (Nat × Mask) :=
  let l := (List.range 32).filterMap fun k =>
    match (g.lane k).wait with
    | some (.barrier pc a _ _) => if a == ofs && (g.lane k).st == .waiting then some (k, pc) else none
    | _ => none
  ((l.map fun p => p.2).eraseDups).map fun pc => (pc, maskOf ((l.filter fun p => p.2 == pc).map fun p => p.1))

/-- OVERFLOW of an object has become set: lanes that wait in BARWAIT on it take BARRIER_OVERFLOW there (12 R336). -/
def State.overflowTrap (s : State) (id : TeamId) (ofs : Nat) : State :=
  match s.team? id with
  | none => s
  | some t =>
    let hits := t.groupNums.flatMap fun n => ((t.group n).barWaiters ofs).map fun p => (n, p.1, p.2)
    let s := hits.foldl (fun s h =>
      let s := s.modGroup id h.1 fun g => g.modLanes h.2.2 fun _ x => x.ready
      s.takeTrap id h.1 (t.spadCore?.getD 0) { cause := Cause.barOverflow, lanes := h.2.2, addr := ofs }
        (BitVec.ofNat 64 h.2.1) false) s
    if hits.isEmpty then s else s.modTeam id fun t => t.markSleep ofs

/-- An update of a team's object: releases, trace, and the status. A refused one leaves those that wait where they are (09
R267, R268, R270, 17 Table 17.8). -/
def State.barUpdate (s : State) (id : TeamId) (ofs n : Nat) (u w : Int) : State × Option Nat :=
  match s.team? id with
  | none => (s, none)
  | some t =>
    let r := barStep (t.bar ofs) n u w
    let t' := (t.putBar ofs r.2).freeWaiters ofs
    let s := s.setTeam t'
    match r.1 with
    | some st =>
      if st.testBit 4 then (s.trace (t.spadCore?.getD 0) t' 0 2 (barGen r.2) ofs, r.1) else (s, r.1)
    | none => (s, none)

/-- An engine count at a team's barrier, with its watchpoints (09 R267, 17 R447); `false` where the offset names no registered
object, which the counter's job answers for (09 R264). A count that is refused traps the lanes that wait on the object (12
R336, log 81). -/
def State.engineCount (s : State) (id : TeamId) (ofs n : Nat) (u w : Int) : State × Bool :=
  match s.team? id with
  | none => (s, false)
  | some t =>
    if !t.bars.contains ofs then (s, false)
    else
      let s := s.watchAccess t .atomic 2 ofs 16
      match s.barUpdate id ofs n u w with
      | (s, some _) => (s, true)
      | (s, none) => (s.overflowTrap id ofs, true)

/-- Why a barrier address cannot be used: range, alignment, registration (09 R264). -/
def Team.barCause (t : Team) (ofs : Nat) : Option Nat :=
  if t.spadSize ≤ ofs then some Cause.access
  else if ofs % 16 ≠ 0 then some Cause.misaligned
  else if t.bars.contains ofs then none
  else some Cause.access

/-- Sets OVERFLOW of an object (09 R268). -/
def Team.overflow (t : Team) (ofs : Nat) : Team := t.putBar ofs (setBits (t.bar ofs) 4 1 1)

/-- A job that faults sets OVERFLOW of a registered object (12 R336). -/
def State.overflowAt (s : State) (id : TeamId) (ofs : Nat) : State :=
  match s.team? id with
  | none => s
  | some t => if t.bars.contains ofs then (s.modTeam id fun t => t.overflow ofs).overflowTrap id ofs else s

end Sys2Proof.Machine
end

