-- ==== Sys2Proof/Machine/JobFault.lean ====
section
/-! DEFINITION. Jobs of the transfer engines: lookup, faults, and the failure of what waits for a page (12 R336, R344, 02
R65, R493). -/

namespace Sys2Proof.Machine

/-- The job of a number. -/
def State.job? (s : State) (id : Nat) : Option Job := s.traffic.jobs.find? fun j => j.id == id

/-- Applies `f` to a job. -/
def State.modJob (s : State) (id : Nat) (f : Job → Job) : State :=
  s.modTraffic fun t => { t with jobs := t.jobs.map fun j => if j.id == id then f j else j }

/-- A channel. -/
def State.channel (s : State) (die ch : Nat) : Channel := smGet Channel.init (s.die die).channels ch

/-- Applies `f` to a channel. -/
def State.modChannel (s : State) (die ch : Nat) (f : Channel → Channel) : State :=
  s.modDie die fun d => { d with channels := smSet Channel.init d.channels ch (f (smGet Channel.init d.channels ch)) }

/-- Barriers that a job counts on. -/
def Job.bars (j : Job) : List Nat := (j.bar.toList ++ j.obar.toList ++ j.cbar.toList).eraseDups

/-- A fault on a channel: the cause is kept and JOB_FAULT is posted; a walk stops (12 R336, R344). -/
def State.channelFault (s : State) (die ch lci cause va : Nat) (stops : Bool) : State :=
  let s := s.modChannel die ch fun c =>
    { c with lcause := cause, walk := if stops then none else c.walk, walkTeam := if stops then none else c.walkTeam }
  s.postEvent lci 0x0005 va (field cause 0 8 + field ch 8 8)

/-- A job faults: no further row starts, its barriers overflow, the cause is kept and posted (12 R336). -/
def State.jobFault (s : State) (id cause va : Nat) : State :=
  match s.job? id with
  | none => s
  | some j =>
    if j.outcome != 0 then s.modJob id fun x => { x with held := false, skip := true }
    else
      let s := s.modJob id fun x => { x with outcome := 2, cause := cause, held := false }
      let s := j.bars.foldl (fun s o => s.overflowAt j.team o) s
      s.channelFault j.die j.ch j.lci cause va j.record.isSome

/-- An engine count of a job on an optional barrier. A refused one has set OVERFLOW and the job continues; an offset that names
no registered object fails the job with ACCESS_VIOLATION (09 R264, 12 R339, R358, log 82). -/
def State.countOn (s : State) (j : Job) (bar : Option Nat) (n : Nat) (u w : Int) : State :=
  match bar with
  | some o =>
    let r := s.engineCount j.team o n u w
    if r.2 then r.1 else r.1.jobFault j.id Cause.access o
  | none => s

/-- The collective card of a number. -/
def State.card? (s : State) (id : Nat) : Option Card := s.traffic.cards.find? fun c => c.id == id

/-- Applies `f` to a card. -/
def State.modCard (s : State) (id : Nat) (f : Card → Card) : State :=
  s.modTraffic fun t => { t with cards := t.cards.map fun c => if c.id == id then f c else c }

/-- Element bytes of a card's DT; q8 codes. -/
def Card.elem (c : Card) : Nat := if c.dt = 0 then 4 else if c.dt = 1 then 2 else 1
/-- Bytes of SEND. -/
def Card.sendBytes (c : Card) : Nat :=
  if c.op = 1 then c.nmem * c.count * c.elem else if c.op = 3 && c.rank != c.root then 0 else c.count * c.elem
/-- Bytes of RECV (12 R350). -/
def Card.recvBytes (c : Card) : Nat := (if c.op = 0 then c.nmem else 1) * c.count * c.elem
/-- Chunks of RECV (12 R351). -/
def Card.chunkCount (c : Card) : Nat := ceilDiv c.recvBytes c.chunk

/-- The byte spans of a card's buffers. -/
def Card.foot (c : Card) : List Foot :=
  [{ spad := false, write := false, lo := c.send, len := c.sendBytes : Foot },
   { spad := false, write := true, lo := c.recv, len := c.recvBytes : Foot }] ++
    (if c.dt = 2 then
      [{ spad := false, write := false, lo := c.sscale, len := c.sendBytes / 32 : Foot },
       { spad := false, write := true, lo := c.rscale, len := c.recvBytes / 32 : Foot }]
     else [])

/-- A card still moves data. -/
def Card.moving (c : Card) : Bool := c.outcome == 0 && !c.chunks.isEmpty || !c.begun.isEmpty

/-- Barriers that a card counts on. -/
def Card.bars (c : Card) : List Nat :=
  if c.barb = 0xFFFF then [] else (List.range c.nbar).map fun i => 16 * c.barb + 16 * i

/-- Barriers that the chunks of a card count on (12 R351). -/
def Card.counted (c : Card) : List Nat :=
  if c.barb = 0xFFFF then [] else (List.range (min c.nbar c.chunkCount)).map fun i => 16 * c.barb + 16 * i

/-- A card faults as a job does (12 R351). -/
def State.cardFault (s : State) (id cause va : Nat) : State :=
  match s.card? id with
  | none => s
  | some c =>
    if c.outcome != 0 then s.modCard id fun x => { x with held := false, skip := true }
    else
      let s := s.modCard id fun x => { x with outcome := 2, cause := cause, held := false }
      let s := c.bars.foldl (fun s o => s.overflowAt c.team o) s
      s.channelFault c.die c.ch c.lci cause va c.record.isSome

/-- An engine count of a card on one of its barriers, as for a job (09 R264, 12 R351). -/
def State.cardCount (s : State) (c : Card) (ofs : Nat) (u : Int) : State :=
  let r := s.engineCount c.team ofs 0 u 0
  if r.2 then r.1 else r.1.cardFault c.id Cause.access ofs

/-- A walk that cannot read its record stops (12 R344; log 45). -/
def State.walkFault (s : State) (die ch cause : Nat) : State :=
  let c := s.channel die ch
  match c.walk, c.walkTeam with
  | some va, some t => s.channelFault die ch t.lci cause va true
  | _, _ => s

/-- Engine requesters of a page that could not be brought: their jobs end with a fault (02 R65, R71, R493). -/
def State.failEngines (s : State) (w : List PageWaiter) (cause : Nat := Cause.invalidPage) : State :=
  w.foldl (fun s p =>
    match p with
    | .job id va => (s.jobFault id cause va).cardFault id cause va
    | .walk die ch => s.walkFault die ch cause
    | .lane _ _ _ => s
    | .far _ _ => s
    | .msg id => s.modTraffic fun t => { t with msgs := t.msgs.map fun m => if m.id == id then { m with fault := true } else m }
    | .ring _ _ => s) s

/-- Engine requesters of a page that is resident now go on. -/
def State.freeEngines (s : State) (w : List PageWaiter) : State :=
  w.foldl (fun s p =>
    match p with
    | .job id _ => (s.modJob id fun j => { j with held := false }).modCard id fun c => { c with held := false }
    | .walk _ _ => s
    | .lane _ _ _ => s
    | .far _ _ => s
    | .msg _ => s
    | .ring _ _ => s) s

end Sys2Proof.Machine
end

