-- ==== Sys2Proof/Machine/Move.lean ====
section
/-! DEFINITION. Moves and computed register access, Table 8.8 (08 R248, R249, 05 R162, 03 R111). -/

namespace Sys2Proof.Machine

/-- MOV: a register, ZERO or a predicate to a register or a predicate. -/
def execMov (f : FmtR) (s : State) : Out := issue s f.sched fun i => i.alu f.sched 4 (opsR1 f) fun r => r.a
/-- MOVI: the immediate. -/
def execMovi (f : FmtI) (s : State) : Out := issue s f.sched fun i => i.alu f.sched 4 (opsI0 f) fun _ => f.imm.toNat
/-- MOVD: 64 bits. -/
def execMovd (f : FmtR) (s : State) : Out := issue s f.sched fun i => i.alu f.sched 4 (opsR1 f) fun r => r.a

/-- First register-space address of the accumulator range (Table 5.3). -/
def accBase : Nat := 0x10000

/-- A register-space address inside the valid parts of Table 5.3. -/
def Ix.regSpaceOk (x : Ix) (a : Nat) : Bool :=
  decide (a < 4 * min x.g.alloc 256) || (decide (accBase ≤ a) && decide (a < accBase + 16384 * x.t.desc.acc))

/-- The trap of a computed register-space access, if any: misalignment in any active lane, then a range failure; the
lowest failing lane's address (08 R249, 05 R165). -/
def Ix.regSpaceTrap (x : Ix) (addr : Nat → Nat) : Option Trap :=
  let odd := x.active &&& maskWhere fun l => addr l % 4 != 0
  let out := x.active &&& maskWhere fun l => !x.regSpaceOk (addr l)
  if odd ≠ 0 then some { cause := Cause.misaligned, lanes := odd, addr := addr (lowLane odd) }
  else if out ≠ 0 then some { cause := Cause.regBound, lanes := out, addr := addr (lowLane out) }
  else none

/-- The scoreboard check of computed lane registers that an instruction reads, or writes before a matrix pass has read
them (06 R198, 11 R310). -/
def Ix.computedTrap (x : Ix) (addr : Nat → Nat) (write : Bool) : Option Trap :=
  let bad := x.active &&& maskWhere fun l => decide (addr l < accBase) &&
    (if write then x.g.guarded (addr l / 4) else (x.uncovered [(addr l / 4, maskOf [l])]).isSome)
  if x.t.desc.chk && bad ≠ 0 then
    some { cause := Cause.scoreboard, lanes := x.cur.issued, addr := addr (lowLane bad) }
  else none

/-- The 32 bits at a register-space address of a lane. -/
def Ix.regSpaceRead (x : Ix) (l a : Nat) : Nat :=
  if a < accBase then x.reg l (a / 4) else (smGet 0 x.t.acc ((a - accBase) / 4)).toNat

/-- A group that holds a cause of lanes of the instruction at hand for its boundary (04 R141). -/
def Ix.deferCause (x : Ix) (sc : Sched) (cause : Nat) (lanes : Mask) (addr : Nat) : Group :=
  if lanes = 0 then x.g
  else
    { x.g with ord := { x.g.ord with deferred := x.g.ord.deferred ++
        [{ pc := x.cur.pc, lanes := lanes, cause := cause, addr := addr, ctr := setCtr sc, issuedAfter := false }] } }

/-- RGET. A poisoned accumulator element is not written, and its lanes take POISON at a later boundary (03 R111). -/
def execRget (f : FmtR) (s : State) : Out :=
  issue s f.sched fun i =>
    let addr := fun l => (i.args (opsR1 f) l).a
    match i.operandTrap (i.sources (opsR1 f)) (i.t.desc.regsOf f.dst) with
    | some tr => i.trap tr
    | none =>
      match i.regSpaceTrap addr with
      | some tr => i.trap tr
      | none =>
        match i.computedTrap addr false with
        | some tr => i.trap tr
        | none =>
          let bad := i.active &&& maskWhere fun l =>
            decide (accBase ≤ addr l) && smGet false i.t.accPoison ((addr l - accBase) / 4)
          Ix.finish { i with g := i.deferCause f.sched Cause.poison bad (addr (lowLane bad)) } f.sched (some 4)
            ((lanesOf (i.active &&& ~~~ bad)).flatMap fun l => i.dst l f.dst (i.regSpaceRead l (addr l)))

/-- Writes an accumulator element; the write clears its poison (03 R111). -/
def Team.setAcc (t : Team) (k : Nat) (v : Word) : Team :=
  { t with acc := smSet 0 t.acc k v, accPoison := smErase t.accPoison k }

/-- RSET: lane registers, or accumulator elements in rising lane order (05 R162). -/
def execRset (f : FmtR) (s : State) : Out :=
  issue s f.sched fun i =>
    let addr := fun l => (i.args (opsR2 f) l).a
    match i.operandTrap (i.sources (opsR2 f)) [] with
    | some tr => i.trap tr
    | none =>
      match i.regSpaceTrap addr with
      | some tr => i.trap tr
      | none =>
        match i.computedTrap addr true with
        | some tr => i.trap tr
        | none =>
          let val := fun l => BitVec.ofNat 32 (i.args (opsR2 f) l).b
          let shared := (lanesOf i.active).filter fun l => decide (accBase ≤ addr l)
          let t := shared.foldl (fun t l => t.setAcc ((addr l - accBase) / 4) (val l)) i.t
          (i.withTeam t).finish f.sched (some 4)
            (((lanesOf i.active).filter fun l => decide (addr l < accBase)).map fun l =>
              { lane := l, key := addr l / 4, val := val l })

end Sys2Proof.Machine
end

