-- ==== Sys2Proof/Machine/Conv.lean ====
section
/-! DEFINITION. Convergence registers and the posting of matrix requests (09 R271 to R274, 11 R306 to R308). -/

namespace Sys2Proof.Machine

/-- The state of register `k`. -/
def Team.convReg (t : Team) (k : Nat) : Conv := smGet (Conv.init t.desc.groupCount) t.conv k
/-- Replaces register `k`. -/
def Team.setConv (t : Team) (k : Nat) (c : Conv) : Team := { t with conv := (k, c) :: t.conv.filter fun p => p.1 != k }

/-- Lane `l` of group `g` is in the declared set: named by the masks, existing and not exited (09 R271). -/
def Team.declares (t : Team) (c : Conv) (g l : Nat) : Bool :=
  c.gmask.getLsbD g && c.lmask.getLsbD l && decide (g < t.desc.groupCount) && ((t.group g).lane l).st != .exited

/-- Lanes of group `g` in the declared set. -/
def Team.declaredOf (t : Team) (c : Conv) (g : Nat) : Mask := maskWhere fun l => t.declares c g l

/-- Every lane of a declared set that has a lane has signed (09 R271, R274). -/
def Team.convFull (t : Team) (c : Conv) : Bool :=
  (t.groupNums.any fun g => t.declaredOf c g != 0) &&
    t.groupNums.all fun g => (t.declaredOf c g &&& ~~~ (c.signed.extractLsb' (32 * g) 32)) == 0

/-- The lanes of a mask whose signature counts: declared and not signed yet. -/
def Team.countable (t : Team) (c : Conv) (g : Nat) (m : Mask) : Mask :=
  m &&& t.declaredOf c g &&& ~~~ (c.signed.extractLsb' (32 * g) 32)

/-- Signs lanes of a group. -/
def Conv.sign (c : Conv) (g : Nat) (m : Mask) : Conv :=
  { c with signed := c.signed ||| (m.setWidth 1024) <<< (32 * g) }

/-- Lanes that CWAIT holds on register `k` for another phase than its own become READY (09 R273). -/
def Team.freePhase (t : Team) (k : Nat) : Team :=
  let ph := (t.convReg k).phase.toNat
  t.mapGroups fun g => g.mapLanes fun x =>
    match x.wait with
    | some (.phase c p) => if x.st == .waiting && c == k && p != ph then x.ready else x
    | _ => x

/-- Entries in use of a reservation table (11 R306). -/
def Cluster.used (c : Cluster) : Nat := c.table.length + (if c.granted.isSome then 1 else 0)

/-- Waiting requests move to free entries in order (11 R306). -/
def Cluster.refill (c : Cluster) : Cluster :=
  let n := 32 - c.used
  { c with table := c.table ++ (c.postbuf.take n).map (fun r => { r with age := c.grants }), postbuf := c.postbuf.drop n }

/-- Posts a request: to the table, or behind it (11 R306). -/
def State.postRequest (s : State) (core : Nat) (r : MxReq) : State :=
  s.modCluster (clusterOf core) fun c => ({ c with postbuf := c.postbuf ++ [r] }).refill

/-- Contributions in team group order (11 R308). -/
def passOrder (l : List Contrib) : List Contrib := l.mergeSort fun a b => decide (a.group ≤ b.group)

/-- Completes the phase of register `k`: PHASE advances, signatures clear, waiters go on and contributions post as one
request (09 R271, 11 R307). -/
def State.completePhase (s : State) (id : TeamId) (core k : Nat) : State :=
  match s.team? id with
  | none => s
  | some t =>
    let c := t.convReg k
    let t := (t.setConv k { c with phase := c.phase + 1, signed := 0, contribs := [] }).freePhase k
    let s := s.setTeam t
    if c.contribs.isEmpty then s
    else
      let f := s.fresh
      f.2.postRequest core {
        id := f.1, team := id, group := 0, passes := passOrder c.contribs, op := none, ctr := none, pc := 0,
        prio := t.desc.prio, age := 0, frags := [], acc := none }

/-- Completes the phase of register `k` when every declared lane has signed. -/
def State.evalPhase (s : State) (id : TeamId) (core k : Nat) : State :=
  match s.team? id with
  | none => s
  | some t => if t.convFull (t.convReg k) then s.completePhase id core k else s

/-- Exits re-evaluate every register (09 R274). -/
def State.evalPhases (s : State) (id : TeamId) (core : Nat) : State :=
  (List.range 8).foldl (fun s k => s.evalPhase id core k) s

end Sys2Proof.Machine
end

