-- ==== Sys2Proof/Machine/Service.lean ====
section
/-! DEFINITION. Traps of waiting lanes, and the service ring: request records, their posting and what waits for space (09
R258, R260, 14 R374 to R378, 02 R493). -/

namespace Sys2Proof.Machine

/-- A trap at an instruction that lanes of a group were waiting in: they are READY again and enter the handler (09 R258,
R260, 10 R293). -/
def State.trapLanes (s : State) (id : TeamId) (grp : Nat) (lanes : Mask) (cause addr pc : Nat) : State :=
  match s.team? id with
  | none => s
  | some t =>
    let s := s.modGroup id grp fun g => g.modLanes lanes fun _ x => x.ready
    s.takeTrap id grp (t.spadCore?.getD 0) { cause := cause, lanes := lanes, addr := addr } (BitVec.ofNat 64 pc) false

/-- The request ring accepts records at all (14 R374). -/
def SvcRing.reqOn (r : SvcRing) : Bool := decide (4 ≤ r.qsize) && decide (r.qsize ≤ 16)
/-- The reply ring is enabled. -/
def SvcRing.repOn (r : SvcRing) : Bool := decide (4 ≤ r.rsize) && decide (r.rsize ≤ 16)
/-- The request ring is full (14 R375). -/
def SvcRing.reqFull (r : SvcRing) : Bool := decide (2 ^ r.qsize ≤ ringUsed r.qtail r.qhead + r.done.length)
/-- Index of the next request record to write. -/
def SvcRing.next (r : SvcRing) : Nat := (r.qtail + r.done.length) % 2 ^ 32

/-- A service request record, Table 9.2. -/
def svcRecord (id inc code lane grp stamp : Nat) (t : TeamId) (args : List Nat) : List Byte :=
  natLe 8 id ++ natLe 8 (code % 65536 + field inc 16 16 + field lane 32 5 + field grp 37 5 + field t.handle 42 12) ++
  natLe 8 (field t.index 32 32) ++ natLe 8 stamp ++ (args.map fun a => natLe 8 a).flatten

/-- Whether an item is a service request. -/
def RingItem.isSvc : RingItem → Bool
  | .svc _ => true
  | _ => false

/-- Nothing of the chip waits to be posted: no held record and no lane without one (09 R260). -/
def State.svcClear (s : State) (lci : Nat) : Bool :=
  match s.chip? lci with
  | none => false
  | some c =>
    !(c.held.any fun h => h.item.isSvc) &&
      s.teams.all fun t => t.id.lci != lci || t.stopping || t.groups.all fun p => p.2.lanes.all fun q =>
        match q.2.wait with
        | some (.post _ _ _) => q.2.st != .waiting
        | _ => true

/-- The outcome of posting one service call. -/
inductive SvcPost where
  | posted (s : State)
  | wait
  | fail
  deriving DecidableEq, Repr

/-- A d register of a lane as stored. -/
def Team.dReg (t : Team) (grp l d : Nat) : Nat :=
  let b := t.desc.vwv / 4 + 2 * d
  ((t.group grp).key l b).toNat + 2 ^ 32 * ((t.group grp).key l (b + 1)).toNat

/-- Writes a request record past QTAIL, which announces it once its store has completed (14 R375, 04 R155). -/
def State.writeSvc (s : State) (lci mpa : Nat) (cls : Cls) (rec_ : List Byte) : State :=
  let w := s.pokeAt lci mpa rec_ cls
  w.1.modChip lci fun c => { c with svc := { c.svc with done := c.svc.done ++ [w.2] } }

/-- Posts the call of a lane, or holds its record on a page (09 R260, 02 R493). The lane then waits for its CALLID. -/
def State.postSvc (s : State) (id : TeamId) (grp l pc code d : Nat) : SvcPost :=
  match s.chip? id.lci, s.team? id with
  | some c, some t =>
    if c.svc.reqFull then .wait
    else
      let cid := freshIn (2 ^ 64) (Config.freeNat s.free) (c.calls.map Call.id)
      let args := (List.range 4).map fun k => t.dReg grp l (d + k)
      let rec_ := svcRecord cid (s.incOf id.lci) code l grp s.gtc id args
      let call : Call := { id := cid, team := id, group := grp, lane := l, d := d, pc := pc, record := BitVec.ofNat 512 (leNat rec_) }
      let waiting := fun (s : State) =>
        (State.modGroup { s with free := s.free + 1 } id grp fun g => g.await (maskOf [l]) fun _ => .call cid d).modChip
          id.lci fun c => { c with calls := c.calls ++ [call] }
      let a := ringAddr c.svc.qbase c.svc.qsize 64 c.svc.next
      match s.reach id.lci a true with
      | .at_ mpa cls => .posted ((waiting s).writeSvc id.lci mpa cls rec_)
      | .nonres level => .posted ((waiting s).holdItem id.lci (.svc cid) a level)
      | .fail => .fail
  | _, _ => .wait

/-- Lanes of a team waiting for ring space, in order: group, lane, PC, code, register. -/
def Team.postWaits (t : Team) : List (Nat × Nat × Nat × Nat × Nat) :=
  t.groupNums.flatMap fun g => ((t.group g).lanes.filterMap fun q =>
    match q.2.wait with
    | some (.post pc code d) => if q.2.st == .waiting then some (g, q.1, pc, code, d) else none
    | _ => none)

/-- Posts waiting calls of a chip while there is space; a call whose page cannot be reached traps (09 R260, 02 R493). -/
def State.postSvcWaits (s : State) (lci : Nat) : State :=
  let all := (s.teams.filter fun t => t.id.lci == lci && !t.stopping).flatMap fun t => t.postWaits.map fun w => (t.id, w)
  (all.foldl (fun (a : State × Bool) p =>
    let s := a.1
    let held := match s.chip? lci with | some c => c.held.any fun h => h.item.isSvc | none => true
    if a.2 || held then (s, true)
    else
      match s.postSvc p.1 p.2.1 p.2.2.1 p.2.2.2.1 p.2.2.2.2.1 p.2.2.2.2.2 with
      | .posted s => (s, false)
      | .wait => (s, true)
      | .fail => (s.trapLanes p.1 p.2.1 (maskOf [p.2.2.1]) Cause.access p.2.2.2.2.1 p.2.2.2.1, false)) (s, false)).1

end Sys2Proof.Machine
end

