-- ==== Sys2Proof/Machine/Peer.lean ====
section
/-! DEFINITION. Scratchpad and peer windows: gangs, ranges, rights and the window rules (01 R17, R20 to R22, 03 R97, R101
to R106). -/

namespace Sys2Proof.Machine

/-- The team of a gang rank in a team's gang (01 R21, R22). -/
def State.gangPeer (s : State) (t : Team) (rank : Nat) : Option Team :=
  if t.gangSize ≤ rank then none
  else s.team? { t.id with index := t.id.index - t.gangRank + rank }

/-- A window address: rank and offset (Table 1.3). -/
def winRank (a : Nat) : Nat := bits a 19 2
/-- POFS. -/
def winOfs (a : Nat) : Nat := a % 2 ^ 19

/-- Where `len` bytes at a scratchpad or window address lie: the owning team and the offset; `none` where they are not all in
the allocation. The range check of an address takes the one byte at it (01 R17, R20, R21). -/
def State.spadAt (s : State) (t : Team) (win : Bool) (a : Int) (len : Nat) : Option (Team × Nat) :=
  if a < 0 then none
  else
    let n := a.toNat
    if win then
      if 2 ^ 21 ≤ n then none
      else
        match s.gangPeer t (winRank n) with
        | none => none
        | some p => if winOfs n < p.spadSize && decide (winOfs n + len ≤ p.spadSize) then some (p, winOfs n) else none
    else if n < t.spadSize && n + len ≤ t.spadSize then some (t, n) else none

/-- A byte of a team's allocation is covered by an entry of its own (03 R106). -/
def Team.coveredAt (t : Team) (ofs : Nat) : Bool :=
  t.ranges.any fun r => r.state != 0 && decide (128 * r.base ≤ ofs) && decide (ofs < 128 * (r.base + r.len))

/-- Every byte of a run may be touched (03 R105, R106). -/
def Team.rightsOk (t : Team) (ofs len : Nat) : Bool :=
  !t.ranges.any fun r => r.state != 0 && decide (128 * r.base < ofs + len) && decide (ofs < 128 * (r.base + r.len))

/-- A window that is closed. -/
def Window.closed : Window := { isOpen := false, held := false, hrank := 0 }

/-- The window of an offset. -/
def Team.window (t : Team) (ofs : Nat) : Window := smGet Window.closed t.windows (ofs / 128)
/-- Replaces a window. -/
def Team.setWindow (t : Team) (k : Nat) (w : Window) : Team := { t with windows := smSet Window.closed t.windows k w }

/-- Table 3.6 for a lane access: `peer` for ASP 0x2, `rank` of the accessing team. -/
def windowOk (w : Window) (peer store : Bool) (rank : Nat) : Bool :=
  if peer then
    if store then w.isOpen && w.held && w.hrank == rank else w.isOpen || w.held
  else if store then !w.held || w.hrank == rank else true

/-- The checks of R97 for one access of a team: the rank of the failing check and its cause. The address is in range or not
before its alignment is looked at; an aligned access of a lane never passes the end of an allocation, and a row of a
fragment that does fails the range check (01 R17, R18, R20, R21). -/
def State.spadCheck (s : State) (t : Team) (win store : Bool) (a : Int) (len align : Nat) : Option (Nat × Nat) :=
  match s.spadAt t win a 1 with
  | none => some (1, Cause.access)
  | some p =>
    if p.2 % align ≠ 0 then some (2, Cause.misaligned)
    else if p.1.spadSize < p.2 + len then some (1, Cause.access)
    else if !p.1.rightsOk p.2 len then some (3, Cause.spadRights)
    else if windowOk (p.1.window p.2) win store t.gangRank &&
        windowOk (p.1.window (p.2 + len - 1)) win store t.gangRank then none
    else some (4, Cause.window)

/-- Bytes of a team's scratchpad. -/
def Team.spadRead (t : Team) (ofs n : Nat) : List Byte := smRead 0 t.spad ofs n
/-- Writes bytes of a team's scratchpad, whose poison goes. -/
def Team.spadWrite (t : Team) (ofs : Nat) (l : List Byte) : Team :=
  { t with spad := smWrite 0 t.spad ofs l, spadPoison := t.spadPoison.filter fun p => !(decide (ofs ≤ p.1) && decide (p.1 < ofs + l.length)) }
/-- Some byte of a run of a team's scratchpad is poisoned (11 R324). -/
def Team.spadBad (t : Team) (ofs n : Nat) : Bool := t.spadPoison.any fun p => p.2 && decide (ofs ≤ p.1) && decide (p.1 < ofs + n)
/-- Writes bytes of a team's scratchpad poisoned (11 R324). -/
def Team.spadSpoil (t : Team) (ofs : Nat) (l : List Byte) : Team :=
  let u := t.spadWrite ofs l
  { u with spadPoison := (List.range l.length).foldl (fun m k => smSet false m (ofs + k) true) u.spadPoison }

end Sys2Proof.Machine
end

