-- ==== Sys2Proof/Machine/Barrier.lean ====
section
/-! DEFINITION. Barrier instructions, Table 9.4 (09 R264 to R270). -/

namespace Sys2Proof.Machine

/-- Runs the rest of an instruction on its scratchpad address once the registers are checked; with no active lane nothing
happens. -/
def Ix.onBar (x : Ix) (f : FmtR) (k : Nat → State) : State :=
  match x.operandTrap (x.via f.perm (x.t.desc.regsOf f.sa) ++ x.own (x.t.desc.regsOf f.sb)) (x.t.desc.regsOf f.dst) with
  | some tr => x.trap tr
  | none => if x.active = 0 then x.finish f.sched (some 4) [] else k (x.rdVia f.perm x.low f.sa)

/-- A trap of the active lanes. -/
def Ix.trapActive (x : Ix) (cause addr : Nat) : State := x.trap { cause := cause, lanes := x.active, addr := addr }

/-- The object that BARINIT writes (09 R266). -/
def barInitial (old expect : Nat) (fresh ptrap : Bool) : Nat :=
  (if fresh then 0 else (barGen old + 1) % 16 + (barPhase old + 1) % 65536 * 2 ^ 80) + (if ptrap then 32 else 0) +
    bits old 6 1 * 64 + expect * 2 ^ 8 + expect * 2 ^ 19

/-- BARINIT. -/
def execBarinit (f : FmtR) (s : State) : Out :=
  issue s f.sched fun i => i.onBar f fun ofs =>
    let expect := i.rd i.low f.sb
    if i.t.spadSize ≤ ofs then i.trapActive Cause.access ofs
    else if ofs % 16 ≠ 0 then i.trapActive Cause.misaligned ofs
    else if 2048 ≤ expect then i.trapActive Cause.barOverflow ofs
    else
      let fresh := !i.t.bars.contains ofs
      if fresh && i.t.desc.bars ≤ i.t.bars.length then i.trapActive Cause.access 0xFFFFFFFF
      else
        let t := i.t.putBar ofs (barInitial (i.t.bar ofs) expect fresh (modBit f.mod 0))
        let t := (if fresh then { t with bars := t.bars ++ [ofs] } else t).freeWaiters ofs
        let s := if fresh then i.s else i.s.trace i.cur.core t i.cur.group 2 (barGen (t.bar ofs)) ofs
        ((i.withState s).withTeam t).finish f.sched (some 4) []

/-- BARINIT.free. -/
def execBarinitFree (f : FmtR) (s : State) : Out :=
  issue s f.sched fun i => i.onBar f fun ofs =>
    match i.t.barCause ofs with
    | some c => i.trapActive c ofs
    | none =>
      if barSleep (i.t.bar ofs) then i.trapActive Cause.access ofs
      else (i.withTeam { i.t with bars := i.t.bars.filter fun b => b != ofs }).finish f.sched (some 4) []

/-- An arrival of `n` arrivals and `u` units at an own object (09 R267, R268). -/
def Ix.arrive (x : Ix) (f : FmtR) (ofs n : Nat) (u : Int) : State :=
  match x.t.barCause ofs with
  | some c => x.trapActive c ofs
  | none =>
    let r := x.s.barUpdate x.t.id ofs n u 0
    let y := x.withState r.1
    match r.2 with
    | none => y.trapActive Cause.barOverflow ofs
    | some st => y.finish f.sched (some 4) ((lanesOf y.active).flatMap fun l => y.dst l f.dst st)

/-- An arrival at a peer's object: checked as a peer load, and posted (09 R269). -/
def Ix.arriveWindow (x : Ix) (f : FmtR) (a n : Nat) (u : Int) : State :=
  match x.s.spadCheck x.t true false a 16 16 with
  | some c => x.trapActive c.2 (if c.2 = Cause.spadRights then winOfs a else a)
  | none =>
    match x.s.spadAt x.t true a 16 with
    | none => x.trapActive Cause.access a
    | some p =>
      if !p.1.bars.contains p.2 then x.trapActive Cause.access a
      else
        let r := x.s.fresh
        let s := r.2.modTraffic fun t => { t with barUpds := t.barUpds ++
          [{ id := r.1, team := p.1.id, ofs := p.2, n := n, u := u, sender := x.t.id, sgroup := x.cur.group }] }
        (x.withState s).finish f.sched (some 4) []

/-- Arrivals of an instruction: its active lanes, or 1 (09 R267). -/
def Ix.arrivals (x : Ix) (f : FmtR) : Nat := if modBit f.mod 1 then 1 else (lanesOf x.active).length

/-- BARARR: a release of cluster scope. -/
def execBararr (f : FmtR) (s : State) : Out :=
  issue s f.sched fun i => i.onBar f fun a =>
    match i.awaitRel .cluster with
    | some s => s
    | none => if modBit f.mod 0 then i.arriveWindow f a (i.arrivals f) 0 else i.arrive f a (i.arrivals f) 0

/-- BAREXP. -/
def execBarexp (f : FmtR) (s : State) : Out :=
  issue s f.sched fun i => i.onBar f fun a =>
    let n := i.rd i.low f.sb
    match i.awaitRel .cluster with
    | some s => s
    | none =>
      if n % 16 ≠ 0 then i.trapActive Cause.misaligned n
      else if modBit f.mod 0 then i.arriveWindow f a (i.arrivals f) (n / 16 : Nat)
      else i.arrive f a (i.arrivals f) (n / 16 : Nat)

/-- BARWAIT: lanes whose generation still stands wait (09 R270). -/
def execBarwait (f : FmtR) (s : State) : Out :=
  issue s f.sched fun i => i.onBar f fun ofs =>
    match i.t.barCause ofs with
    | some c => i.trapActive c ofs
    | none =>
      let o := i.t.bar ofs
      if barOvf o then i.trapActive Cause.barOverflow ofs
      else
        let out := modBit f.mod 0
        let gen := fun l => i.rd l f.sb % 16
        let m := i.active &&& maskWhere fun l => barWaits o (gen l) out
        let g := (i.advance ((i.g.bump (setCtr f.sched)).due (setCtr f.sched))).await m fun l => .barrier i.cur.pc.toNat ofs (gen l) out
        (i.put g).modTeam i.t.id fun t => t.markSleep ofs

/-- BARTEST. -/
def execBartest (f : FmtR) (s : State) : Out :=
  issue s f.sched fun i => i.onBar f fun ofs =>
    match i.t.barCause ofs with
    | some c => i.trapActive c ofs
    | none =>
      let o := i.t.bar ofs
      if barOvf o then i.trapActive Cause.barOverflow ofs
      else i.finish f.sched (some 4) ((lanesOf i.active).flatMap fun l =>
        i.dst l f.dst (if barWaits o (i.rd l f.sb % 16) (modBit f.mod 0) then 0 else 1))

end Sys2Proof.Machine
end

