-- ==== Sys2Proof/Machine/Blank.lean ====
section
/-! DEFINITION. A new chip and a new team: the state at creation (15 R391, Table 15.2) and at team start (05 R158, Table
5.1, 07 R219). -/

namespace Sys2Proof.Machine

/-- Empty residency. -/
def Residency.blank : Residency :=
  { resident := false, suspended := none, clusters := [], pool := [], out := [], banks := [], channels := [],
    sliceEnd := none, endedAt := none, drainAt := none, everRan := false, nextQos := none, saveFull := false, movedFrom := 0 }

/-- No queue and no team. -/
def Dispatch.blank : Dispatch := { queues := [], pfQueues := [], rr := 0, resume := [], launches := 0 }

/-- No debugger. -/
def ChipDbg.blank : ChipDbg :=
  { holder := none, errCode := 0, named := none, dumpBase := 0, slots := [], pending := [], marks := [] }

/-- A chip of an identity with every context disabled. -/
def Chip.blank (id : ChipId) : Chip :=
  { ident := id, s1 := 0, s2 := 0, places := [], qos := Qos.init, res := Residency.blank, disp := Dispatch.blank,
    cmdq := QDesc.init, lqd := [], ev := EvRing.init, svc := SvcRing.init, calls := [], prq := Prq.init, held := [],
    logs := [], posts := [], mcast := [], seqs := [], colls := [], stale := [], dbg := ChipDbg.blank }

/-- The role of each group, in team group order, with its number within the role (05 R157). -/
def Desc.groupRoles (d : Desc) : List (Nat × Nat × Role) :=
  (d.roles.zipIdx.map fun p => (List.range p.1.groups).map fun k => (p.2, k, p.1)).flatten

/-- The role of a group. -/
def Desc.roleOf (d : Desc) (grp : Nat) : Role :=
  match d.groupRoles[grp]? with
  | some p => p.2.2
  | none => { rprio := 0, nregs := 0, groups := 0, entry := 0 }

/-- Role number of a group, and its number within the role. -/
def Desc.roleNum (d : Desc) (grp : Nat) : Nat × Nat :=
  match d.groupRoles[grp]? with
  | some p => (p.1, p.2.1)
  | none => (0, 0)

/-- A group at team start (Table 5.1). -/
def Desc.startGroup (d : Desc) (index grp : Nat) : Group :=
  let r := d.roleOf grp
  { Group.init with
    alloc := roundUp r.nregs 8
    lanes := (List.range 32).map fun l =>
      (l, { pc := r.entry, st := .ready, wait := none, preds := 0, seed := srSeed d.seed index grp l }) }

/-- A team that has just been placed (Table 5.1, 03 R95, R101, 09 R271). -/
def Team.start (id : TeamId) (pchip lq : Nat) (d : Desc) (gangRank gangSize order core slot spadBase : Nat) : Team :=
  { id := id, pchip := pchip, lq := lq, desc := d, x := id.index % d.gx, y := id.index / d.gx % d.gy,
    z := id.index / (d.gx * d.gy), gangRank := gangRank, gangSize := gangSize, place := .resident core slot,
    stopping := false, leave := 0, ended := false, order := order,
    groups := (List.range d.groupCount).map fun g => (g, d.startGroup id.index g), spadBase := spadBase,
    spadSize := d.spad * 1024, spad := [], acc := [], accPoison := [], spadPoison := [], tileMap := [], bars := [], tags := [], tagRR := [],
    windows := [], ranges := [], conv := (List.range 8).map fun c => (c, Conv.init d.groupCount), qflags := 0,
    idleSince := 0, resumeAfter := 0, dbg := TeamDbg.init }

end Sys2Proof.Machine
end

