-- ==== Sys2Proof/Machine/Resources.lean ====
section
/-! DEFINITION. Resources of a core: register rows, scratchpad runs, tiles, barrier slots, tags and team slots (13 R366, 03
R94, R95, R98, R109, 05 R164, R174, R175), and gangs. -/

namespace Sys2Proof.Machine

/-! ### Rows -/

/-- Rows that a group needs at the larger of its allocation and its request (05 R174). A group whose lanes have all ended
counts with its allocation, also where a resuming team is placed: R174 says "each group" and nothing of R159's return of its
rows (log 78). -/
def Group.rowDemand (g : Group) : Nat := ceilDiv (max g.alloc (g.grow.getD 0)) 8
/-- Row demand of a team. -/
def Team.rowDemand (t : Team) : Nat := (t.groupNums.map fun n => (t.group n).rowDemand).sum

/-- Every lane has ended (05 R159). -/
def Group.allExited (g : Group) : Bool := g.inState .exited == 0xFFFFFFFF

/-- Rows of discarded registers that writes still on their way keep (05 R176). -/
def Group.rowsOwed (g : Group) : Nat := (g.owed.map (·.1)).sum

/-- Rows that a group holds: none of its allocation once it has ended, its writes have landed and its contributions have
been read (05 R159, R176, 11 R307). -/
def Group.rowsHeld (g : Group) : Nat :=
  (if g.allExited && g.guards.isEmpty && !(g.ord.flights.any fun f => f.acc.isSome) then 0 else g.alloc / 8) + g.rowsOwed

/-- Rows of a team. -/
def Team.rowsHeld (t : Team) : Nat := (t.groupNums.map fun n => (t.group n).rowsHeld).sum

/-- Teams resident on a core that have not ended. -/
def State.onCore (s : State) (core : Nat) : List Team := s.teams.filter fun t => t.core? == some core && !t.ended

/-- Free rows of a core (05 R164). -/
def State.freeRows (s : State) (core : Nat) : Nat := 512 - ((s.onCore core).map Team.rowsHeld).sum

/-! ### REGGROW requests (05 R173, R175) -/

/-- Waiting requests of a core: order, index, group, team and rows asked, in age order. -/
def State.growWaits (s : State) (core : Nat) : List (Nat × Nat × Nat × TeamId) :=
  let all := (s.onCore core).flatMap fun t =>
    (t.groupNums.filter fun n => (t.group n).grow.isSome).map fun n => (t.order, t.id.index, n, t.id)
  all.mergeSort fun a b => decide (a.1 < b.1) || (a.1 == b.1 && (decide (a.2.1 < b.2.1) || (a.2.1 == b.2.1 && decide (a.2.2.1 ≤ b.2.2.1))))

/-- Rows by which a group's request grows it. -/
def Group.growRows (g : Group) : Nat := ((g.grow.getD g.alloc) - g.alloc) / 8

/-- The oldest request of a core, when it fits. -/
def State.grantable (s : State) (core : Nat) : Option (TeamId × Nat) :=
  match s.growWaits core with
  | [] => none
  | w :: _ =>
    match s.team? w.2.2.2 with
    | some t => if (t.group w.2.2.1).growRows ≤ s.freeRows core then some (w.2.2.2, w.2.2.1) else none
    | none => none

/-- A lane that waits in REGGROW becomes READY. -/
def Lane.grown (x : Lane) : Lane := if x.st == .waiting && x.wait == some .grow then x.ready else x

/-- A group whose request is granted: its new registers read zero, as no entry lists them (05 R173). -/
def Group.granted (g : Group) : Group :=
  let g1 := g.growSets.foldl (fun g j => g.due (some j)) g
  { g1.mapLanes Lane.grown with alloc := g.grow.getD g.alloc, grow := none, growSets := [] }

/-- Numbers of a team's gang (R161). -/
def Team.gangKey (t : Team) : TeamId := { t.id with index := t.id.index - t.gangRank }

/-- The teams of a gang that exist, by rank. -/
def State.gangOf (s : State) (key : TeamId) : List Team :=
  (s.teams.filter fun t => t.gangKey == key).mergeSort fun a b => decide (a.gangRank ≤ b.gangRank)

/-- Begins the departure of a gang's teams. -/
def State.setLeave (s : State) (key : TeamId) (k : Nat) : State :=
  { s with teams := s.teams.map fun t => if t.gangKey == key && !t.ended then { t with leave := k } else t }

/-- A group that waits in REGGROW: a waiting request and no READY lane. -/
def Group.growing (g : Group) : Bool := g.grow.isSome && g.inState .ready == 0

/-- When every group of a core waits in REGGROW and no request fits, the youngest team's gang parks (05 R175). -/
def State.deadlockPark (s : State) (core : Nat) : State :=
  let on := s.onCore core
  let stuck := on.all fun t => t.leave == 0 && t.groupNums.all fun n => (t.group n).growing || (t.group n).allExited
  if !stuck || (s.growWaits core).isEmpty || (s.grantable core).isSome then s
  else
    match (on.mergeSort fun a b => decide (b.order < a.order) || (a.order == b.order && decide (b.id.index ≤ a.id.index))).head? with
    | some t => s.setLeave t.gangKey 1
    | none => s

/-! ### Scratchpad runs (03 R94, R95) -/

/-- The runs of scratchpad in use on a core: first KiB and length. -/
def State.spadRuns (s : State) (core : Nat) : List (Nat × Nat) :=
  (s.teams.filter fun t => t.spadCore? == some core && t.spadSize != 0).map fun t => (t.spadBase, t.spadSize / 1024)

/-- The lowest free run of `n` KiB. -/
def freeRun (runs : List (Nat × Nat)) (n : Nat) : Option Nat :=
  let fits := fun (b : Nat) => decide (b + n ≤ 320) && runs.all fun r => decide (b + n ≤ r.1) || decide (r.1 + r.2 ≤ b)
  if n = 0 then some 0 else ((0 :: runs.map fun r => r.1 + r.2).mergeSort.find? fits)

/-! ### Jobs of a team -/

/-- The job reads or writes its team's scratchpad. -/
def Job.usesSpad (j : Job) : Bool :=
  match j.kind with
  | .copy => true
  | .gather _ => true
  | .listed _ _ => true
  | .send _ _ _ spad => spad
  | .copyOut _ => false
  | .card _ => false

/-- The job touches its team's scratchpad or counts on its barriers. -/
def Job.holds (j : Job) : Bool := j.usesSpad || j.bar.isSome || j.obar.isSome || j.cbar.isSome

/-- A job or card of a team that has not ended and touches its scratchpad or counts on its barriers (12 R337, 14 R380). -/
def State.holdsPlace (s : State) (id : TeamId) : Bool :=
  (s.traffic.jobs.any fun j => j.team == id && j.holds) ||
    s.traffic.cards.any fun c => c.team == id && decide (c.barb != 0xFFFF)

/-! ### The placement check (13 R366) -/

/-- Barrier slots in use on a core. -/
def State.barsHeld (s : State) (core : Nat) : Nat :=
  ((s.teams.filter fun t => t.spadCore? == some core && (!t.ended || s.holdsPlace t.id)).map fun t => t.desc.bars).sum

/-- Entries of a team's tag partition (03 R98). -/
def Desc.tagNeed (d : Desc) : Nat := min 1024 (roundUp d.tags 8)

/-- The team's allocation is on the core already. -/
def Team.inPlaceOn (t : Team) (core : Nat) : Bool := match t.place with | .parkedInPlace c _ => c == core | _ => false

/-- A core passes the check for a team. The saved range entries of a parked or pre-empted team may not fit the core's
64-entry table beside those that stand there; R108 does not say whether that keeps the team off the core, and here the table
is not looked at (03 R105, R108; log 78). -/
def State.passes (s : State) (core : Nat) (t : Team) : Bool :=
  let on := s.onCore core
  let spad := t.inPlaceOn core || (freeRun (s.spadRuns core) (t.spadSize / 1024)).isSome
  let here := match t.place with | .parkedInPlace c _ => c == core | _ => true
  if t.ended then here && spad
  else
    here && spad && decide (on.length < 32) &&
      decide ((on.map fun u => u.desc.groupCount).sum + t.desc.groupCount ≤ 32) &&
      decide (t.rowDemand ≤ s.freeRows core) && (s.growWaits core).isEmpty &&
      decide ((on.map fun u => u.desc.acc).sum + t.desc.acc ≤ 32) &&
      (t.inPlaceOn core || decide (s.barsHeld core + t.desc.bars ≤ 256)) &&
      decide ((on.map fun u => u.desc.tagNeed).sum + t.desc.tagNeed ≤ 1024)

end Sys2Proof.Machine
end

