-- ==== Sys2Proof/Machine/Regs.lean ====
section
/-! DEFINITION. Convergence instructions, REGGROW and REGSHRINK, and the special registers (09 R272, R273, R275, R277,
R278, 05 R160, R173 to R176, 01 R37). -/

namespace Sys2Proof.Machine

/-- The convergence register that an operand names. -/
def convNum (o : Opd) : Nat := match o with | .c n => n.toNat | _ => 0

/-- The status of a CSIGN in a lane (09 R272). -/
def csignStatus (phase : Nat) (completed outside again : Bool) : Nat :=
  phase + (if completed then 2 ^ 16 else 0) + (if outside then 2 ^ 30 else 0) + (if again then 2 ^ 31 else 0)

/-- CSIGN: the active lanes sign; a release of team scope. -/
def execCsign (f : FmtR) (s : State) : Out :=
  issue s f.sched fun i =>
    match i.operandTrap [] (i.t.desc.regsOf f.dst) with
    | some tr => i.trap tr
    | none =>
      if i.active = 0 then i.finish f.sched (some 4) []
      else
        match i.awaitRel .team with
        | some s => s
        | none =>
          let k := convNum f.sa
          let c := i.t.convReg k
          let decl := i.t.declaredOf c i.cur.group
          let had := c.signed.extractLsb' (32 * i.cur.group) 32
          let t := i.t.setConv k (c.sign i.cur.group (i.t.countable c i.cur.group i.active))
          let done := t.convFull (t.convReg k)
          let y := i.withState ((i.s.setTeam t).evalPhase i.t.id i.cur.core k)
          y.finish f.sched (some 4) ((lanesOf y.active).flatMap fun l => y.dst l f.dst
            (csignStatus c.phase.toNat done (!decl.getLsbD l) (decl.getLsbD l && had.getLsbD l)))

/-- CSIGN.decl: completes the running phase and installs the masks. -/
def execCsignDecl (f : FmtR) (s : State) : Out :=
  issue s f.sched fun i =>
    match i.operandTrap (i.own (i.t.desc.regsOf f.sb ++ i.t.desc.regsOf f.sc)) (i.t.desc.regsOf f.dst) with
    | some tr => i.trap tr
    | none =>
      if i.active = 0 then i.finish f.sched (some 4) []
      else
        match i.awaitRel .team with
        | some s => s
        | none =>
          let k := convNum f.sa
          let gm := BitVec.ofNat 32 (i.rd i.low f.sb)
          let lm := BitVec.ofNat 32 (i.rd i.low f.sc)
          let s := i.s.completePhase i.t.id i.cur.core k
          let s := s.modTeam i.t.id fun t => t.setConv k { t.convReg k with gmask := gm, lmask := lm }
          let y := i.withState s
          y.finish f.sched (some 4) ((lanesOf y.active).flatMap fun l => y.dst l f.dst (y.t.convReg k).phase.toNat)

/-- CWAIT. -/
def execCwait (f : FmtR) (s : State) : Out :=
  issue s f.sched fun i =>
    match i.operandTrap (i.own (i.t.desc.regsOf f.sb)) [] with
    | some tr => i.trap tr
    | none =>
      let k := convNum f.sa
      let ph := fun l => i.rd l f.sb % 65536
      let m := i.active &&& maskWhere fun l => (i.t.convReg k).phase.toNat == ph l
      i.put ((i.advance ((i.g.bump (setCtr f.sched)).due (setCtr f.sched))).await m fun l => .phase k (ph l))

/-! ### Register allocation -/

/-- REGGROW (05 R173, R174). The spec does not say what a second REGGROW by other lanes of a group does while the group's
first request waits: here the two become one request of the larger A', which is granted as a whole (log 77). -/
def execReggrow (f : FmtR) (s : State) : Out :=
  issue s f.sched fun i =>
    let a := modField f.mod 0 9
    let j := setCtr f.sched
    if i.active = 0 || a ≤ i.g.alloc then i.put (i.advance ((i.g.bump j).due j))
    else
      let g := { i.g with grow := some (max a (i.g.grow.getD 0)) }
      if 256 < a || 512 < (i.t.setGroup i.cur.group g).rowDemand then i.trapActive Cause.regGrow a
      else
        let g := { g with growSets := g.growSets ++ j.toList }
        (i.put ((i.advance (g.bump j)).await i.active fun _ => .grow)).deadlockPark i.cur.core

/-- Lane registers 256 l + n from `a` on of the lanes that wait for a reply or a page. -/
def Group.awaited (g : Group) (a : Nat) : List Nat :=
  (List.range 32).flatMap fun l =>
    match (g.lane l).wait with
    | some (.call _ _) => (List.range (256 - a)).map fun k => 256 * l + a + k
    | some (.post _ _ _) => (List.range (256 - a)).map fun k => 256 * l + a + k
    | some (.page _ _ _ _) => (List.range (256 - a)).map fun k => 256 * l + a + k
    | some (.barrier _ _ _ _) => []
    | some (.phase _ _) => []
    | some (.sleep _ _ _) => []
    | some .grow => []
    | some .yield => []
    | none => []

/-- Accesses on their way to registers from `a` on. -/
def Group.accsFrom (g : Group) (a : Nat) : List Nat :=
  ((g.ord.flights.filter fun f => decide (a ≤ f.key) && decide (f.key < 256)).filterMap Flight.acc).eraseDups

/-- A group whose registers from `a` on are discarded: their values and errors, the writes on their way to them, and what a
guard still needs. The rows return once the accesses among these writes have landed (05 R176, log 79). -/
def Group.shrink (g : Group) (a : Nat) : Group :=
  let gone := g.regs.filter fun p => decide (a ≤ p.1 % 256)
  let ws : List Wr := gone.map fun p => { lane := p.1 / 256, key := p.1 % 256, val := 0 }
  let accs := g.accsFrom a
  { g with
    alloc := a
    owed := if accs.isEmpty then g.owed else g.owed ++ [((g.alloc - a) / 8, accs)]
    lost := (g.lost ++ g.awaited a).eraseDups
    guards := g.guards.map fun fg => ws.foldl (fun fg w => fg.note g w) fg
    regs := g.regs.filter fun p => decide (p.1 % 256 < a)
    bad := g.bad.filter fun p => decide (p.1 % 256 < a)
    ord := { g.ord with flights := g.ord.flights.filter fun f => decide (f.key < a) || decide (256 ≤ f.key) } }

/-- REGSHRINK (05 R176). -/
def execRegshrink (f : FmtR) (s : State) : Out :=
  issue s f.sched fun i =>
    let a := modField f.mod 0 9
    let j := setCtr f.sched
    if i.active = 0 || i.g.alloc ≤ a then i.put (i.advance ((i.g.bump j).due j))
    else (i.put (i.advance (((i.g.shrink a).bump j).due j))).unblock i.t.id.lci

/-! ### Special registers -/

/-- A logical identifier, or all ones (01 R37). -/
def logicalOr (o : Option Nat) : Nat := o.getD 0xFFFFFFFF

/-- The chip's own place numbers and widths (Table 1.10). -/
def Ix.chipReg (x : Ix) (n : Nat) : Nat :=
  match x.s.chip? x.t.id.lci with
  | none => 0
  | some c =>
    match n with
    | 0x10 => logicalOr (c.logical? placeCore x.cur.core)
    | 0x11 => logicalOr (c.logical? placeDie (dieOf x.cur.core))
    | 0x12 => logicalOr (c.logical? placeChip c.ident.pchip)
    | 0x13 => c.ident.pchip
    | 0x14 => c.ident.chw
    | _ => x.t.gangRank % 4 + (x.t.gangSize - 1) % 4 * 4

/-- The value of special register `n` in a lane (Table 9.7). -/
def Ix.special (x : Ix) (l n : Nat) : Nat :=
  let d := x.t.desc
  match n with
  | 0x00 => l
  | 0x01 => x.cur.group
  | 0x02 => (d.roleNum x.cur.group).2
  | 0x03 => (d.roleNum x.cur.group).1
  | 0x04 => d.groupCount
  | 0x08 => x.t.id.index
  | 0x09 => x.t.x
  | 0x0A => x.t.y
  | 0x0B => x.t.z
  | 0x0C => d.gx - 1
  | 0x0D => d.gy - 1
  | 0x0E => d.gz - 1
  | 0x20 => x.s.gtc
  | 0x21 => (x.g.lane l).seed.toNat
  | 0x22 => x.t.qflags.toNat
  | 0x30 => x.g.trap.tcause.toNat
  | 0x31 => x.g.trap.tpc.toNat
  | 0x32 => x.g.trap.tlanes.toNat
  | 0x33 => x.g.trap.taddr.toNat
  | _ => x.chipReg n

/-- SRD. -/
def execSrd (f : FmtI) (s : State) : Out :=
  issue s f.sched fun i =>
    match i.operandTrap [] (i.t.desc.regsOf f.dst) with
    | some tr => i.trap tr
    | none =>
      i.finish f.sched (some 4) ((lanesOf i.active).flatMap fun l => i.dst l f.dst (i.special l (Accept.srNum f.imm)))

/-- A group after a write of a trap register (09 R278, 14 R370). -/
def Group.setTrapReg (g : Group) (n v : Nat) : Group :=
  match n with
  | 0x30 => { g with trap := { g.trap with tcause := BitVec.ofNat 32 (v % 512) } }
  | 0x31 => { g with trap := { g.trap with tpc := BitVec.ofNat 64 v, tpcWritten := true } }
  | 0x32 => { g with trap := { g.trap with tlanes := BitVec.ofNat 32 v } }
  | _ => { g with trap := { g.trap with taddr := BitVec.ofNat 64 v } }

/-- SWR: a lane register in every active lane, or a group or team register from the highest one (09 R278). -/
def execSwr (f : FmtI) (s : State) : Out :=
  issue s f.sched fun i =>
    match i.operandTrap (i.via f.perm (i.t.desc.regsOf f.sa)) [] with
    | some tr => i.trap tr
    | none =>
      if i.active = 0 then i.finish f.sched (some 4) []
      else
        let n := Accept.srNum f.imm
        let v := i.rdVia f.perm (highLane i.active) f.sa
        if n = 0x21 then
          let g := (lanesOf i.active).foldl (fun g l => g.setSeed l (srFix (BitVec.ofNat 32 (i.rdVia f.perm l f.sa)))) i.g
          Ix.finish { i with g := g } f.sched (some 4) []
        else if n = 0x22 then
          (i.withTeam { i.t with qflags := BitVec.ofNat 32 (v % 4) }).finish f.sched (some 4) []
        else Ix.finish { i with g := i.g.setTrapReg n v } f.sched (some 4) []

end Sys2Proof.Machine
end

