-- ==== Sys2Proof/Machine/Access.lean ====
section
/-! DEFINITION. Lane accesses to global and pod memory: effective addresses, the checks of R281, grouping by line,
forwarding, L1 hits, and the transactions of loads, stores and atomics (01 R17 to R24, 02 R56, 03 R79 to R83, 04 R119 to
R141, R152, R153, 10 R279 to R291). -/

namespace Sys2Proof.Machine

/-! ### Addresses and checks -/

/-- The effective address of a lane, exact (01 R17). -/
def Ix.ea (x : Ix) (f : FmtM) (l : Nat) : Int := (x.rd l f.sa : Int) + toSigned 24 f.ofs.toNat

/-- An address modulo 2^64, as sr.taddr holds it. -/
def addr64 (a : Int) : Nat := wrapNat 64 a

/-- The trap of the active lanes that fail a check, with the lowest one's address. -/
def Ix.failTrap (x : Ix) (cause : Nat) (bad : Nat → Bool) (addr : Nat → Nat) : Option Trap :=
  let m := x.active &&& maskWhere bad
  if m = 0 then none else some { cause := cause, lanes := m, addr := addr (lowLane m) }

/-- The first trap of a list. -/
def firstTrap : List (Option Trap) → Option Trap
  | [] => none
  | some t :: _ => some t
  | none :: r => firstTrap r

/-- Whether the instruction names pod space. -/
def isPodM (f : FmtM) : Bool := f.asp == .pod

/-- Range and alignment of a global or pod access; pod space needs a privileged kernel (01 R17, R18, R23). -/
def Ix.rangeTrap (x : Ix) (f : FmtM) (bytes : Nat) : Option Trap :=
  let a := fun l => addr64 (x.ea f l)
  let lim : Int := if isPodM f then 2 ^ 48 else 2 ^ 57
  firstTrap [
    if isPodM f && !x.t.desc.priv then x.failTrap Cause.access (fun _ => true) a else none,
    x.failTrap Cause.access (fun l => decide (x.ea f l < 0) || decide (lim ≤ x.ea f l)) a,
    x.failTrap Cause.misaligned (fun l => a l % bytes != 0) a]

/-- A lane with its address and translation. -/
structure LaneX where
  lane : Nat
  ea : Nat
  out : Xl
  deriving DecidableEq, Repr

/-- One more address of a list, with the translation that a core gives it. -/
def State.xlateInto (lci : Nat) (f : State → Nat → Xl × State) (a : List LaneX × State) (p : Nat × Nat) :
    List LaneX × State :=
  let r := f a.2 p.2
  let s := match r.1 with
    | .fail _ t => r.2.noteTable lci t
    | _ => r.2
  (a.1 ++ [{ lane := p.1, ea := p.2, out := r.1 }], s)

/-- Translates addresses in lane order through the core's TLBs (02 R55, R56). -/
def State.xlateLanes (s : State) (core lci : Nat) (isPod : Bool) (k : AccKind) (l : List (Nat × Nat)) :
    List LaneX × State :=
  l.foldl (State.xlateInto lci fun s a => s.xlateCore core lci isPod a k) ([], s)

/-- Fresh walks of addresses in lane order, whose outcomes stand in the core's TLBs (02 R63, R66). -/
def State.xlateWalks (s : State) (core lci : Nat) (isPod : Bool) (k : AccKind) (l : List (Nat × Nat)) :
    List LaneX × State :=
  l.foldl (State.xlateInto lci fun s a => s.walkCore core lci isPod a k) ([], s)

/-- The cause of a failed translation. -/
def LaneX.failed (x : LaneX) : Option Nat := match x.out with | .fail c _ => some c | _ => none

/-- The class that the requester knows (02 R55); `none` when it is the home's to decide, or nothing is accessed. -/
def LaneX.cls? (x : LaneX) : Option Cls :=
  match x.out with
  | .here t _ => some t.cls
  | .remote t _ => if t.s2cls then none else some t.cls
  | _ => none

/-- The trap of the lanes whose translation failed with the lowest such lane's cause (02 R56). -/
def failedTrap (l : List LaneX) : Option Trap :=
  match l.filterMap fun x => x.failed.map fun c => (x, c) with
  | [] => none
  | p :: r => some { cause := p.2, lanes := maskOf (((p :: r).filter fun q => q.2 == p.2).map fun q => q.1.lane), addr := p.1.ea }

/-- The class rules that the requester applies (10 R281, Table 4.5). -/
def classTrap (l : List LaneX) (bad : Cls → Bool) : Option Trap :=
  match l.filter fun x => match x.cls? with | some c => bad c | none => false with
  | [] => none
  | p :: r => some { cause := Cause.classIllegal, lanes := maskOf ((p :: r).map LaneX.lane), addr := p.ea }

/-- A range of a started job of the chip on the executing die meets an access, by a test of the range (04 R152). -/
def State.footAny (s : State) (t : Team) (core : Nat) (store : Bool) (meets : TeamId → Foot → Bool) : Bool :=
  let hit := fun (team : TeamId) (foot : List Foot) =>
    team.lci == t.id.lci && foot.any fun p => (store || p.write) && meets team p
  t.desc.fpg && ((s.traffic.jobs.any fun j => j.started && j.die == dieOf core && hit j.team j.foot) ||
    s.traffic.cards.any fun c => c.started && c.die == dieOf core && hit c.team c.foot)

/-- An access to global addresses, or to the scratchpad of `owner`, meets the footprint of such a job. -/
def State.footHit (s : State) (t : Team) (core : Nat) (owner : Option TeamId) (store : Bool) (a len : Nat) : Bool :=
  s.footAny t core store fun team p =>
    p.spad == owner.isSome && (match owner with | some o => team == o | none => true) &&
      decide (p.lo < a + len) && decide (a < p.lo + p.len)

/-- FOOTPRINT_HAZARD of lane accesses to global addresses (04 R152). -/
def Ix.footTrap (x : Ix) (store : Bool) (bytes : Nat) (addr : Nat → Nat) : Option Trap :=
  x.failTrap Cause.footprint (fun l => x.s.footHit x.t x.cur.core none store (addr l) bytes) addr

/-- Where a translation leads: on this module by physical address, elsewhere by pod address. -/
def Xl.target : Xl → Option (Bool × Nat)
  | .here _ a => some (true, a)
  | .remote _ a => some (false, a)
  | .nonres _ _ _ => none
  | .fail _ _ => none

/-- A footprint, page by page, meets bytes that an access reaches under another address (04 R152). -/
def State.footTarget (s : State) (lci : Nat) (p : Foot) (at_ : Bool × Nat) (bytes : Nat) : Bool :=
  !p.spad && (List.range ((p.lo + p.len + 4095) / 4096 - p.lo / 4096)).any fun k =>
    let lo := max p.lo ((p.lo / 4096 + k) * 4096)
    let len := min (p.lo + p.len) ((p.lo / 4096 + k + 1) * 4096) - lo
    match (s.xlateWalk lci false lo .read).target with
    | some q => q.1 == at_.1 && decide (q.2 < at_.2 + bytes) && decide (at_.2 < q.2 + len)
    | none => false

/-- FOOTPRINT_HAZARD of lane accesses to pod space. -/
def Ix.podFootTrap (x : Ix) (store : Bool) (bytes : Nat) (l : List LaneX) : Option Trap :=
  let hit := fun (z : LaneX) => match z.out.target with
    | some a => x.s.footAny x.t x.cur.core store fun team p => x.s.footTarget team.lci p a bytes
    | none => false
  match l.filter hit with
  | [] => none
  | p :: r => some { cause := Cause.footprint, lanes := maskOf ((p :: r).map LaneX.lane), addr := p.ea }

/-- The outcome of every check of an access. -/
inductive Checked where
  | stop (s : State)
  | ok (x : Ix) (l : List LaneX)
  deriving DecidableEq, Repr

/-- The checks of R281 for one access of each active lane. -/
def Ix.memCheck (x : Ix) (f : FmtM) (bytes : Nat) (k : AccKind) (bad : Cls → Bool) : Checked :=
  match x.rangeTrap f bytes with
  | some tr => .stop (x.trap tr)
  | none =>
    let r := x.s.xlateLanes x.cur.core x.t.id.lci (isPodM f) k ((lanesOf x.active).map fun l => (l, (x.ea f l).toNat))
    let y := x.withState r.2
    match firstTrap [failedTrap r.1, classTrap r.1 bad,
        if isPodM f then y.podFootTrap (k == .write || k == .atomic) bytes r.1
        else y.footTrap (k == .write || k == .atomic) bytes fun l => (x.ea f l).toNat] with
    | some tr => .stop (y.trap tr)
    | none => .ok y r.1

/-- Classes on which an order other than weak is illegal. -/
def badOrd (o : Ord) (c : Cls) : Bool := o != .weak && c == .pv

/-! ### Lines -/

/-- The lanes of one instruction in one line. -/
structure LineGrp where
  home : Home
  cls : Cls
  s2cls : Bool
  lanes : List TxnLane
  deriving DecidableEq, Repr

/-- The line, class and lane record of a translated lane. -/
def LaneX.place (x : LaneX) (bytes : Nat) (data : List Byte) : Option (Home × Cls × Bool × TxnLane) :=
  match x.out with
  | .here t a =>
    match t.home with
    | .here lci _ => some (.here lci (a / 128 * 128), t.cls, false, { lane := x.lane, addr := a, bytes := bytes, data := data, ea := x.ea })
    | .remote _ => none
  | .remote t a =>
    some (.remote (a / 128 * 128), t.cls, t.s2cls, { lane := x.lane, addr := a, bytes := bytes, data := data, ea := x.ea })
  | .nonres _ _ _ => none
  | .fail _ _ => none

/-- Adds a lane to its line's group. -/
def addLine (l : List LineGrp) (p : Home × Cls × Bool × TxnLane) : List LineGrp :=
  if l.any fun g => g.home == p.1 && g.cls == p.2.1 then
    l.map fun g => if g.home == p.1 && g.cls == p.2.1 then { g with lanes := g.lanes ++ [p.2.2.2] } else g
  else l ++ [{ home := p.1, cls := p.2.1, s2cls := p.2.2.1, lanes := [p.2.2.2] }]

/-- Lanes by line. -/
def byLine (l : List LaneX) (bytes : Nat) (data : Nat → List Byte) : List LineGrp :=
  (l.filterMap fun x => x.place bytes (data x.lane)).foldl addLine []

/-- Lanes suppressed by non-residency (02 R56). -/
def voided (l : List LaneX) (bytes : Nat) : List LaneAns :=
  (l.filter fun x => match x.out with | .nonres _ _ _ => true | _ => false).map fun x =>
    { lane := x.lane, data := List.replicate bytes 0, valid := false, cause := none, member := none }

/-! ### The core's own copies -/

/-- Bytes of lanes by offset in the line, in lane order. -/
def lanePatch (m : SMap Byte) (l : List TxnLane) : SMap Byte :=
  l.foldl (fun m n => n.data.zipIdx.foldl (fun m p => (n.addr % 128 + p.2, p.1) :: m.filter fun q => q.1 != n.addr % 128 + p.2) m) m

/-- Stores of a core to a line that are on their way to its home. -/
def State.ownStores (s : State) (core : Nat) (home : Home) : List Txn :=
  s.traffic.txns.filter fun t => t.core == core && t.home == home && t.kind == .store && t.acc.isSome

/-- Lines that a core's buffer has sent to a home, and that are not yet answered. -/
def State.drainedOf (s : State) (core : Nat) (home : Home) : List Wcb :=
  (s.traffic.drained.map (·.2)).filter fun w => w.agent.coreId == core && home == .remote w.pod

/-- The write-combined entries of a core that hold a line, oldest first. -/
def State.wcbOf (s : State) (core : Nat) (pod : Nat) : List Wcb := (s.core core).wcb.filter fun w => w.pod == pod

/-- The entries of the buffer for a line, by its home. -/
def State.wcbAt (s : State) (core : Nat) (home : Home) : List Wcb :=
  match home with
  | .here _ _ => []
  | .remote pod => s.wcbOf core pod

/-- Puts an entry in its place in a list that rises by number. -/
def insertAt (p : Nat × SMap Byte) : List (Nat × SMap Byte) → List (Nat × SMap Byte)
  | [] => [p]
  | q :: r => if p.1 < q.1 then p :: q :: r else q :: insertAt p r

/-- The bytes of a line that stores of a core leave and that its home has not yet accepted, by offset (04 R123): those sent,
in the order in which they were sent, then those in the write-combining buffer. -/
def State.unaccepted (s : State) (core : Nat) (home : Home) : SMap Byte :=
  let own := (s.ownStores core home).map fun t => (t.id, lanePatch [] t.lanes)
  let gone := (s.drainedOf core home).map fun w => (w.sentAs, w.bytes)
  ((((own ++ gone).foldl (fun l p => insertAt p l) []).map (·.2)) ++ (s.wcbAt core home).map Wcb.bytes).foldl
    (fun m b => b.foldl (fun m q => q :: m.filter fun p => p.1 != q.1) m) []

/-- A line with bytes by offset on top. -/
def bytesOver (l : List Byte) (m : SMap Byte) : List Byte := m.foldl (fun b p => patch b p.1 [p.2]) l

/-- Whether bytes by offset hold every byte that lanes read. -/
def coversLanes (m : SMap Byte) (l : List TxnLane) : Bool :=
  l.all fun n => (List.range n.bytes).all fun i => m.any fun p => p.1 == n.addr % 128 + i

/-- The bytes of lanes from a line. -/
def readLanes (line : List Byte) (l : List TxnLane) : List LaneAns :=
  l.map fun n => laneOk n ((line.drop (n.addr % 128)).take n.bytes)

/-- An L1 hit of a weak load (03 R80). -/
def State.l1Hit (s : State) (core : Nat) (g : LineGrp) : Option L1Line :=
  match (s.core core).line? g.home with
  | some l =>
    let need := lanesSectors g.lanes
    if l.cls == g.cls && (need &&& ~~~ l.valid) == 0 && (l.cls == .wo || decide (s.gtc < l.expiry)) then some l else none
  | none => none

/-- Updates the core's own copy of an RC or WO line (03 Table 3.2, 04 R123). -/
def State.l1Store (s : State) (core : Nat) (g : LineGrp) : State :=
  match (s.core core).line? g.home with
  | some l =>
    if l.cls == g.cls && (g.cls == .rc || g.cls == .wo) then
      s.modCore core fun c => c.putL1 { l with data := g.lanes.foldl storeLane l.data }
    else s
  | none => s

/-- Installs sectors of a line that a read returned: an expired copy is replaced, a live one keeps the lesser expiry
(03 R79, R81), and the core's unaccepted stores stay on top (04 R123). -/
def State.l1Fill (s : State) (core : Nat) (home : Home) (cls : Cls) (data : List Byte) (sect : BitVec 4) (e : Nat)
    (owner : Option TeamId) (first : Bool := false) : State :=
  let data := if cls == .pv then data else bytesOver data (s.unaccepted core home)
  let new : L1Line := { key := home, cls := cls, valid := sect, dirty := 0, expiry := e, data := data, owner := owner,
                        cmax := 0, first := first }
  s.modCore core fun c =>
    match c.line? home with
    | none => c.putL1 new
    | some l =>
      if l.cls == cls && (cls == .wo || cls == .pv || decide (s.gtc < l.expiry)) then
        let m := sect &&& ~~~ (if cls == .pv then l.valid else 0)
        c.putL1 { l with data := mergeSectors l.data data m, valid := l.valid ||| sect, expiry := min l.expiry e,
                         first := first }
      else c.putL1 new

/-- Lease that a cache hint requests; none for Stream (03 Table 3.3). -/
def hintLease (ch : BitVec 2) : Nat := if ch = 1 then 4096 else if ch = 2 then 0 else 256

/-- A list of groups with one more. -/
def withGroup (l : List (TeamId × Nat)) (p : TeamId × Nat) : List (TeamId × Nat) := if l.contains p then l else l ++ [p]

/-- Notes that a group read bytes of a core's stores to a line not yet accepted: it takes their effect times (04 R123). -/
def State.contribute (s : State) (core : Nat) (home : Home) (id : TeamId) (grp : Nat) : State :=
  let txn := fun (u : Txn) =>
    if u.core == core && u.home == home && u.kind == .store && u.acc.isSome then
      { u with contribs := withGroup u.contribs (id, grp) }
    else u
  let wcb := fun (w : Wcb) =>
    if home == .remote w.pod then { w with groups := withGroup w.groups (id, grp) } else w
  let gone := fun (p : Nat × Wcb) => (p.1, if p.2.agent.coreId == core then wcb p.2 else p.2)
  let s := s.modTraffic fun t => { t with txns := t.txns.map txn, drained := t.drained.map gone }
  s.modCore core fun c => { c with wcb := c.wcb.map wcb }

/-! ### Transactions of an access -/

/-- What the transactions of one access share. -/
structure AccInfo where
  id : Nat
  team : TeamId
  group : Nat
  core : Nat
  scope : Scope
  ord : Ord
  sync : Bool
  lease : Nat
  install : Bool
  /-- The hint First out (Table 3.3). -/
  first : Bool := false
  agent : Agent
  deriving DecidableEq, Repr

/-- Queues a transaction for the lanes of a line. -/
def State.queueTxn (s : State) (a : AccInfo) (g : LineGrp) (k : TxnKind) (member : Option Nat := none) : State :=
  let r := s.fresh
  let s := r.2
  let m := s.newMsgid
  let s := { s with free := s.free + 1 }
  let t : Txn := {
    id := r.1, acc := some a.id, team := some a.team, group := a.group, core := a.core, kind := k, home := g.home,
    cls := g.cls, s2cls := g.s2cls, scope := a.scope, sync := a.sync || g.cls == .sc, lease := a.lease,
    install := a.install && g.cls != .pv, first := a.first, lanes := g.lanes, agent := a.agent, contribs := [], msgid := m, member := member }
  let s := s.modAccess a.id fun x => { x with open_ := x.open_ ++ [r.1] }
  s.addTxn a.team.lci t

/-- Records answers that need no transaction. -/
def State.answerNow (s : State) (a : AccInfo) (ans : List LaneAns) : State :=
  s.modAccess a.id fun x => { x with answers := x.answers ++ ans }

/-- Entries of the write-combining buffer for a line leave it. -/
def State.drainLine (s : State) (core : Nat) (home : Home) : State :=
  (s.wcbAt core home).foldl (fun s w => s.drainEntry core w) s

/-- A load of a line by the same group is on its way: the group's later loads of it wait for it (04 R128). -/
def State.loadQueued (s : State) (a : AccInfo) (home : Home) : Bool :=
  s.traffic.txns.any fun t =>
    t.acc.isSome && t.team == some a.team && t.group == a.group && t.home == home && t.kind != .store

/-- A load answered from bytes that the core holds. -/
def State.loadFrom (s : State) (a : AccInfo) (g : LineGrp) (line : List Byte) : State :=
  (s.answerNow a (readLanes line g.lanes)).contribute a.core g.home a.team a.group

/-- One line of a load: a forwarded answer, a hit, or a transaction (03 R80, 04 R123, R128, R153). Bytes of a WO line that
the core's store does not cover read as zero (04 R131). -/
def State.loadLine (s : State) (a : AccInfo) (g : LineGrp) : State :=
  let own := s.unaccepted a.core g.home
  let plain := !a.sync && (g.cls == .rc || g.cls == .wo) && !g.s2cls && !s.loadQueued a g.home
  if plain && (if g.cls == .wo then !own.isEmpty else coversLanes own g.lanes) then
    s.loadFrom a g (bytesOver (List.replicate 128 0) own)
  else
    match (if plain then s.l1Hit a.core g else none) with
    | some l =>
      let s := s.loadFrom a g l.data
      let s := if s.gtc < l.cmax then s.raiseGroups [(a.team, a.group)] false l.cmax else s
      s.count (dieOf a.core) a.team.lci 6 1
    | none => ((s.count (dieOf a.core) a.team.lci 7 1).drainLine a.core g.home).queueTxn a g .load

/-- A weak remote RC or WO store enters the write-combining buffer: RC bytes join the line's entry, a WO write never
does; a full line, or the oldest line of a full buffer, drains (10 R286). Entries stand in order of age. -/
def State.combine (s : State) (a : AccInfo) (g : LineGrp) (pod : Nat) : State :=
  let accs := g.lanes.map fun n => (a.id, n.lane, n.ea)
  let put := fun (s : State) (w : Wcb) =>
    let s := s.modAccess a.id fun x => { x with open_ := x.open_ ++ [w.id] }
    let into := fun (l : List Wcb) =>
      if l.any (fun v => v.id == w.id) then l.map fun v => if v.id == w.id then w else v else l ++ [w]
    let s := s.modCore a.core fun c => { c with wcb := into c.wcb }
    if w.bytes.length = 128 then s.drainEntry a.core w else s
  match (if g.cls == .rc then (s.wcbOf a.core pod).find? (fun w => w.cls == .rc) else none) with
  | some w =>
    put s { w with bytes := lanePatch w.bytes g.lanes, accs := w.accs ++ accs, groups := withGroup w.groups (a.team, a.group) }
  | none =>
    let s := if 64 ≤ (s.core a.core).wcb.length then
        (match (s.core a.core).wcb with | [] => s | o :: _ => s.drainEntry a.core o)
      else s
    let r := s.fresh
    put r.2 { id := r.1, lci := a.team.lci, pchip := a.agent.pchip, line := pod / 128, pod := pod, cls := g.cls, scope := a.scope,
              bytes := lanePatch [] g.lanes, accs := accs, groups := [(a.team, a.group)], agent := a.agent, since := s.gtc }

/-- One line of a store (03 Table 3.2, 04 R123, 10 R286). -/
def State.storeLineGrp (s : State) (a : AccInfo) (g : LineGrp) : State :=
  let s := s.l1Store a.core g
  match g.home with
  | .here _ _ => s.queueTxn a g .store
  | .remote pod =>
    if !a.sync && (g.cls == .rc || g.cls == .wo) && !g.s2cls then s.combine a g pod
    else (s.drainLine a.core g.home).queueTxn a g .store

/-- One line of an atomic: remote packets hold up to 8 lanes (16 R418). -/
def State.atomicLine (s : State) (a : AccInfo) (g : LineGrp) (op : AtomOp) (ret : Bool) : State :=
  match g.home with
  | .here _ _ => s.queueTxn a g (.atomic op ret)
  | .remote _ =>
    (chunksOf 8 4 g.lanes).foldl (fun s l => s.queueTxn a { g with lanes := l } (.atomic op ret)) (s.drainLine a.core g.home)

/-! ### Issue of an access -/

/-- What an access does to registers and order when it issues. -/
structure AccSpec where
  dst : AccDst
  isLoad : Bool
  isStore : Bool
  /-- The writes it will make, for the latency windows. -/
  ws : List Wr
  deriving DecidableEq, Repr

/-- Any lane on an SC page. -/
def anySc (l : List LaneX) : Bool := l.any fun x => x.cls? == some .sc

/-- GTC has passed the effect time of the group's latest SC store (04 R129). -/
def Ix.scDone (x : Ix) : Bool := x.g.ord.scUntil == 0 || decide (x.g.ord.scUntil < x.s.gtc)

/-- The wait of an SC access: FENCE.sc of its scope and the completion of earlier SC accesses (04 R129). -/
def Ix.awaitSc (x : Ix) (sc : Scope) : Option State :=
  match x.boundary true with
  | some s => some s
  | none => if x.scDone then x.awaitRel sc else some x.hold

/-- Orders that put a FENCE.rel or FENCE.sc before the access (04 R127). -/
def relOrd (o : Ord) : Bool := o == .rel || o == .ar || o == .sc

/-- The waits before an access: the effect time of an earlier SC store (Tables 4.6, 10.4), and those of an access that its
opcode or ORD makes synchronising (04 R127, R141). -/
def Ix.awaitOrd (x : Ix) (ord : Ord) (scope : Scope) (sync : Bool) : Option State :=
  match (if sync then x.boundary true else none) with
  | some s => some s
  | none =>
    if !x.scDone then some x.hold
    else if sync && relOrd ord then x.awaitRel scope
    else none

/-- Issues an access: the record of it, its reserved writes, its holds, the PCs; `go` adds its lines. -/
def Ix.issueAccess (x : Ix) (f : FmtM) (sp : AccSpec) (sync isSc : Bool) (ans : List LaneAns)
    (go : State → AccInfo → State) : State :=
  let r := x.s.fresh
  let a : Access := {
    id := r.1, team := x.t.id, group := x.cur.group, pc := x.cur.pc, ctr := setCtr f.sched, dst := sp.dst,
    active := x.active, sync := sync, isSc := isSc, isLoad := sp.isLoad, isStore := sp.isStore, scope := f.scope,
    answers := ans, open_ := [], effect := 0, followed := false }
  let info : AccInfo := {
    id := r.1, team := x.t.id, group := x.cur.group, core := x.cur.core, scope := f.scope, ord := f.ord, sync := sync,
    lease := hintLease f.ch, install := f.ch != 2, first := f.ch == 3, agent := x.t.agent x.cur.core }
  let g := (x.advance ((x.g.reserve sp.ws (x.cover f.sched none) r.1 x.cur.first).bump (setCtr f.sched)))
  let hs := (if sync then [Hold.answer r.1] else []) ++
    (if f.ord == .sc && sp.isStore then [Hold.pending f.scope] else [])
  let g := { g with ord := { g.ord with holds := g.ord.holds ++ hs } }
  go ((({ x with s := r.2 } : Ix).put g).addAccess a) info

/-- Keys that an access writes in the active lanes: the registers of `o` and a predicate. -/
def Ix.accWrites (x : Ix) (regs : List Nat) (pred : Opd) : List Wr :=
  (lanesOf x.active).flatMap fun l =>
    (regs.map fun n => ({ lane := l, key := n, val := 0 } : Wr)) ++ x.dst l pred 0

/-- Little-endian bytes of a lane's store data. -/
def Ix.laneData (x : Ix) (l bytes : Nat) (regs : List Nat) : List Byte := natLe bytes (x.regsNat l regs)

end Sys2Proof.Machine
end

