-- ==== Sys2Proof/Machine/Mem.lean ====
section
/-! DEFINITION. LD and ST, atomics and reductions on global memory, the accumulator space, and FENCE (10 R282 to R286, R289
to R292, 01 R24, 03 R111). -/

namespace Sys2Proof.Machine

/-- Registers that a load writes in a lane (Table 10.2). -/
def Desc.ldRegs (d : Desc) (sz : LdSize) (o : Opd) : List Nat :=
  match sz with
  | .b128 => d.regsFrom o 2
  | .b8 | .b16 | .b32 | .b64 | .s8 | .s16 => d.regsOf o

/-- Registers that a store reads in a lane. -/
def Desc.stRegs (d : Desc) (sz : StSize) (o : Opd) : List Nat :=
  match sz with
  | .b128 => d.regsFrom o 2
  | .b8 | .b16 | .b32 | .b64 => d.regsOf o

/-- Registers of an atomic's operand (10 R290). -/
def Desc.atomRegs (d : Desc) (op : AtomOp) (o : Opd) : List Nat :=
  match op with
  | .casB64 => d.regsFrom o 2
  | .addN32 | .addN64 | .minI32 | .maxI32 | .minN32 | .maxN32 | .andB32 | .orB32 | .xorB32 | .exchB32 | .exchB64 | .casB32
  | .addF32 => d.regsOf o

/-- The value that a load of a size gives (Table 10.2). -/
def loadValue (sz : LdSize) (v : Nat) : Nat :=
  match sz with
  | .s8 => wrapNat 32 (toSigned 8 v)
  | .s16 => wrapNat 32 (toSigned 16 v)
  | .b8 | .b16 | .b32 | .b64 | .b128 => v

/-- Writes of a value to consecutive registers of a lane. -/
def wrRegs (l : Nat) (regs : List Nat) (v : Nat) : List Wr :=
  regs.zipIdx.map fun p => { lane := l, key := p.1, val := BitVec.ofNat 32 (v / 2 ^ (32 * p.2)) }

/-- An instruction on its registers; with no active lane it performs nothing (10 R292). -/
def Ix.onMem (x : Ix) (sc : Sched) (srcs dsts : List Nat) (k : Unit → State) : State :=
  match x.operandTrap (x.own srcs) dsts with
  | some tr => x.trap tr
  | none => if x.active = 0 then x.finish sc none [] else k ()

/-! ### The accumulator space (01 R24) -/

/-- Range and alignment of accumulator-space accesses. -/
def Ix.accTrap (x : Ix) (f : FmtM) : Option Trap :=
  let a := fun l => addr64 (x.ea f l)
  firstTrap [
    x.failTrap Cause.access (fun l => decide (x.ea f l < 0) || decide ((16384 * x.t.desc.acc : Nat) ≤ x.ea f l)) a,
    x.failTrap Cause.misaligned (fun l => a l % 4 != 0) a]

/-- LD with ASP 0x4: elements, with POISON deferred (03 R111). -/
def Ix.accLoad (x : Ix) (f : FmtM) : State :=
  match x.accTrap f with
  | some tr => x.trap tr
  | none =>
    let k := fun l => (x.ea f l).toNat / 4
    let bad := x.active &&& maskWhere fun l => smGet false x.t.accPoison (k l)
    let ws := (lanesOf x.active).flatMap fun l =>
      (if bad.getLsbD l then [] else x.dst l f.dst (smGet 0 x.t.acc (k l)).toNat) ++ x.dst l f.sb 1
    Ix.finish { x with g := x.deferCause f.sched Cause.poison bad (4 * k (lowLane bad)) } f.sched none ws

/-- ST with ASP 0x4: elements in lane order. -/
def Ix.accStore (x : Ix) (f : FmtM) : State :=
  match x.accTrap f with
  | some tr => x.trap tr
  | none =>
    let t := (lanesOf x.active).foldl (fun (t : Team) l =>
      { t with acc := smSet 0 t.acc ((x.ea f l).toNat / 4) (BitVec.ofNat 32 (x.rd l f.sb)) }) x.t
    (x.withTeam t).finish f.sched none ((lanesOf x.active).flatMap fun l => x.dst l f.dst 1)

/-! ### LD and ST -/

/-- A load from global or pod space. -/
def Ix.loadMem (x : Ix) (sz : LdSize) (f : FmtM) : State :=
  let sync := f.ord != .weak
  match x.awaitOrd f.ord f.scope sync with
  | some s => s
  | none =>
    match x.memCheck f sz.bytes .read (badOrd f.ord) with
    | .stop s => s
    | .ok y l =>
      match (if anySc l then y.awaitSc f.scope else none) with
      | some s => s
      | none =>
        y.issueAccess f
          { dst := .load sz f.dst f.sb, isLoad := true, isStore := false, ws := y.accWrites (y.t.desc.ldRegs sz f.dst) f.sb }
          (sync || anySc l) (anySc l) (voided l sz.bytes)
          fun s a => (byLine l sz.bytes fun _ => []).foldl (fun s g => s.loadLine a g) s

/-- LD. -/
def execLd (sz : LdSize) (f : FmtM) (s : State) : Out :=
  issue s f.sched fun i => i.onMem f.sched (i.t.desc.regsOf f.sa) (i.t.desc.ldRegs sz f.dst) fun _ =>
    if f.asp = .acc then i.accLoad f else i.loadMem sz f

/-- A store to global or pod space. -/
def Ix.storeMem (x : Ix) (sz : StSize) (f : FmtM) : State :=
  let sync := f.ord != .weak
  match x.awaitOrd f.ord f.scope sync with
  | some s => s
  | none =>
    match x.memCheck f sz.bytes .write (badOrd f.ord) with
    | .stop s => s
    | .ok y l =>
      match (if anySc l then y.awaitSc f.scope else none) with
      | some s => s
      | none =>
        y.issueAccess f
          { dst := .store f.dst, isLoad := false, isStore := true, ws := y.accWrites [] f.dst }
          (sync || anySc l) (anySc l) (voided l sz.bytes)
          fun s a => (byLine l sz.bytes fun n => y.laneData n sz.bytes (y.t.desc.stRegs sz f.sb)).foldl
            (fun s g => s.storeLineGrp a g) s

/-- ST. -/
def execSt (sz : StSize) (f : FmtM) (s : State) : Out :=
  issue s f.sched fun i => i.onMem f.sched (i.t.desc.regsOf f.sa ++ i.t.desc.stRegs sz f.sb) [] fun _ =>
    if f.asp = .acc then i.accStore f else i.storeMem sz f

/-! ### Atomics -/

/-- The predicate that CH of an ATOM names (10 R280). -/
def chPred (ch : BitVec 2) : Opd := if ch = 0 then .zero else .p (BitVec.ofNat 3 (3 + ch.toNat))

/-- An atomic on global or pod space. -/
def Ix.atomMem (x : Ix) (op : AtomOp) (f : FmtM) (dst pred : Opd) : State :=
  match x.awaitOrd f.ord f.scope true with
  | some s => s
  | none =>
    match x.memCheck f op.bytes .atomic (fun c => badOrd f.ord c || c == .wo) with
    | .stop s => s
    | .ok y l =>
      match (if anySc l then y.awaitSc f.scope else none) with
      | some s => s
      | none =>
        y.issueAccess f
          { dst := .atomic op dst pred, isLoad := true, isStore := true, ws := y.accWrites (y.t.desc.regsOf dst) pred }
          true (anySc l) (voided l op.bytes)
          fun s a => (byLine l op.bytes fun n => y.laneData n (atomOperand op) (y.t.desc.atomRegs op f.sb)).foldl
            (fun s g => s.atomicLine a g op (dst != .zero)) s

/-- ATOM. -/
def execAtom (op : AtomOp) (f : FmtM) (s : State) : Out :=
  issue s f.sched fun i =>
    i.onMem f.sched (i.t.desc.regsOf f.sa ++ i.t.desc.atomRegs op f.sb) (i.t.desc.regsOf f.dst) fun _ =>
      i.atomMem op f f.dst (chPred f.ch)

/-! ### FENCE -/

/-- FENCE: holds the group until the condition of Table 4.4; a fence wider than a team drains the group's lines of the
write-combining buffer, for whose answers an acq fence does not wait (04 R126, R153). -/
def execFence (f : FmtM) (s : State) : Out :=
  issue s f.sched fun i =>
    if i.active = 0 then i.finish f.sched none []
    else
      match i.boundary (f.ord != .acq) with
      | some s => s
      | none =>
        if f.ord == .acq then
          (if f.scope == .team then i else i.withState (i.s.drainGroup i.cur.core i.t.id i.cur.group)).finish f.sched none []
        else
          match i.awaitRel f.scope with
          | some s => s
          | none => i.finish f.sched none []

end Sys2Proof.Machine
end

