-- ==== Sys2Proof/Machine/SpadMem.lean ====
section
/-! DEFINITION. Scratchpad and window accesses: LDS, STS, LDW, STW, LDFRAG, STFRAG, ATOMS, and RED in every space (10 R287
to R291, 03 R96, R97, 04 R137). -/

namespace Sys2Proof.Machine

/-- One access that a lane asks for: lane, address, bytes. -/
structure SpadReq where
  lane : Nat
  addr : Int
  len : Nat
  deriving DecidableEq, Repr

/-- The trap of the earliest failing check of R97. -/
def Ix.spadTrap (x : Ix) (win store : Bool) (align : Nat) (l : List SpadReq) : Option Trap :=
  let bad := l.filterMap fun r => (x.s.spadCheck x.t win store r.addr r.len align).map fun c => (r, c)
  match bad with
  | [] => none
  | b :: rest =>
    let k := (rest.map fun p => p.2.1).foldl min b.2.1
    let hit := bad.filter fun p => p.2.1 == k
    match hit with
    | [] => none
    | h :: _ =>
      let addr := if k = 3 then (match x.s.spadAt x.t win h.1.addr h.1.len with | some p => p.2 | none => 0)
        else addr64 h.1.addr
      some { cause := h.2.2, lanes := maskOf (hit.map fun p => p.1.lane), addr := addr }

/-- FOOTPRINT_HAZARD of accesses to the own allocation, or to a peer's (04 R152). -/
def Ix.spadFoot (x : Ix) (win store : Bool) (l : List SpadReq) : Option Trap :=
  let hit := fun (r : SpadReq) => match x.s.spadAt x.t win r.addr r.len with
    | some p => x.s.footHit x.t x.cur.core (some p.1.id) store p.2 r.len
    | none => false
  match l.filter hit with
  | [] => none
  | h :: r => some { cause := Cause.footprint, lanes := maskOf ((h :: r).map SpadReq.lane), addr := h.addr.toNat }

/-- The scope of an order on scratchpad: none is wider than cluster (04 R137). -/
def spadScope (s : Scope) : Scope := if s = .team then .team else .cluster

/-- A group after an ordered store to scratchpad, and after any store: its pending times (Table 4.3, 04 R127). -/
def Group.spadOrder (g : Group) (now : Nat) (store : Bool) (ord : Ord) (scope : Scope) : Group :=
  let g := if store then g.raise true now else g
  if ord == .sc && store then { g with ord := { g.ord with holds := g.ord.holds ++ [Hold.pending (spadScope scope)] } } else g

/-- The lanes of accesses that read a poisoned byte, with the first such address (11 R324). -/
def State.spadBad (s : State) (t : Team) (win : Bool) (l : List SpadReq) : Mask × Nat :=
  let hit := l.filter fun r => match s.spadAt t win r.addr r.len with
    | some p => p.1.spadBad p.2 r.len
    | none => false
  (maskOf (hit.map SpadReq.lane), (hit.head?.map fun r => r.addr.toNat).getD 0)

/-- Bytes at an address of a scratchpad or window, as the state holds them now: a lane of an atomic reads what the lanes
before it wrote (10 R290). -/
def State.spadGet (s : State) (t : Team) (win : Bool) (a : Int) (n : Nat) : List Byte :=
  match s.spadAt t win a n with
  | some p => ((s.team? p.1.id).getD p.1).spadRead p.2 n
  | none => []

/-- Writes bytes at an address of a scratchpad or window. -/
def State.spadPut (s : State) (t : Team) (win : Bool) (a : Int) (l : List Byte) : State :=
  match s.spadAt t win a l.length with
  | some p => s.modTeam p.1.id fun u => u.spadWrite p.2 l
  | none => s

/-- The watchpoints that accesses meet (17 R447). -/
def State.spadWatch (s : State) (t : Team) (win : Bool) (k : WatchKind) (l : List SpadReq) : State :=
  l.foldl (fun s r =>
    match s.spadAt t win r.addr r.len with
    | some p => s.watchAccess p.1 k (if win then 1 else 0) p.2 r.len
    | none => s) s

/-- A scratchpad or window access: waits, checks, and then `go` gives the new state and the writes. Lanes that read a poisoned
byte take POISON as a load's cause, and their registers stay unwritten (04 R141, 11 R324, log 30). -/
def Ix.spadAccess (x : Ix) (f : FmtM) (sync store : Bool) (k : WatchKind) (align : Nat) (l : List SpadReq)
    (go : State → State × List Wr) : State :=
  let win := f.asp == .window
  match x.awaitOrd f.ord (spadScope f.scope) (sync || f.ord != .weak) with
  | some s => s
  | none =>
    match firstTrap [x.spadTrap win store align l, x.spadFoot win store l] with
    | some tr => x.trap tr
    | none =>
      let bad := if k == .store then (0, 0) else x.s.spadBad x.t win l
      let r := go x.s
      let y := x.withState (r.1.spadWatch x.t win k l)
      let y := { y with g := y.g.spadOrder y.s.gtc store f.ord f.scope }
      Ix.finish { y with g := y.deferCause f.sched Cause.poison bad.1 bad.2 } f.sched none
        (r.2.filter fun w => !bad.1.getLsbD w.lane)

/-- One request of each active lane. -/
def Ix.laneReqs (x : Ix) (f : FmtM) (len : Nat) : List SpadReq :=
  (lanesOf x.active).map fun l => { lane := l, addr := x.ea f l, len := len }

/-- A load from scratchpad or a window. -/
def execSpadLoad (sz : LdSize) (f : FmtM) (s : State) : Out :=
  issue s f.sched fun i => i.onMem f.sched (i.t.desc.regsOf f.sa) (i.t.desc.ldRegs sz f.dst) fun _ =>
    i.spadAccess f false false .load sz.bytes (i.laneReqs f sz.bytes) fun s =>
      (s, (lanesOf i.active).flatMap fun l => wrRegs l (i.t.desc.ldRegs sz f.dst)
        (loadValue sz (leNat (s.spadGet i.t (f.asp == .window) (i.ea f l) sz.bytes))))

/-- A store to scratchpad or a window, in lane order. -/
def execSpadStore (sz : StSize) (f : FmtM) (s : State) : Out :=
  issue s f.sched fun i => i.onMem f.sched (i.t.desc.regsOf f.sa ++ i.t.desc.stRegs sz f.sb) [] fun _ =>
    i.spadAccess f false true .store sz.bytes (i.laneReqs f sz.bytes) fun s =>
      ((lanesOf i.active).foldl (fun s l => s.spadPut i.t (f.asp == .window) (i.ea f l)
        (i.laneData l sz.bytes (i.t.desc.stRegs sz f.sb))) s, [])

/-- LDS. -/
def execLds (sz : LdSize) (f : FmtM) (s : State) : Out := execSpadLoad sz f s
/-- LDW. -/
def execLdw (sz : LdSize) (f : FmtM) (s : State) : Out := execSpadLoad sz f s
/-- STS. -/
def execSts (sz : StSize) (f : FmtM) (s : State) : Out := execSpadStore sz f s
/-- STW. -/
def execStw (sz : StSize) (f : FmtM) (s : State) : Out := execSpadStore sz f s

/-! ### Fragments (10 R288) -/

/-- The 64-byte rows of the active lanes. -/
def Ix.fragRows (x : Ix) (a : Int) (q : Nat) : List SpadReq :=
  (lanesOf x.active).flatMap fun l => (List.range 2).map fun h => { lane := l, addr := a + ((2 * l + h) * q : Nat), len := 64 }

/-- The MISALIGNED check of base and pitch. -/
def Ix.fragAlign (x : Ix) (a : Int) (q : Nat) : Option Trap :=
  if a % 16 ≠ 0 then some { cause := Cause.misaligned, lanes := x.active, addr := addr64 a }
  else if q % 16 ≠ 0 || q < 64 then some { cause := Cause.misaligned, lanes := x.active, addr := q }
  else none

/-- LDFRAG. -/
def execLdfrag (f : FmtM) (s : State) : Out :=
  issue s f.sched fun i => i.onMem f.sched (i.t.desc.regsOf f.sa ++ i.t.desc.regsOf f.sb) (i.t.desc.regsOf f.dst) fun _ =>
    let a := i.ea f i.low
    let q := i.rd i.low f.sb
    match i.fragAlign a q with
    | some tr => i.trap tr
    | none =>
      i.spadAccess f false false .load 16 (i.fragRows a q) fun s =>
        (s, (i.fragRows a q).zipIdx.flatMap fun p => wrRegs p.1.lane
          (((i.t.desc.regsOf f.dst).drop (16 * (p.2 % 2))).take 16)
          (leNat (s.spadGet i.t (f.asp == .window) p.1.addr 64)))

/-- STFRAG. -/
def execStfrag (f : FmtM) (s : State) : Out :=
  issue s f.sched fun i => i.onMem f.sched (i.t.desc.regsOf f.sa ++ i.t.desc.regsOf f.dst ++ i.t.desc.regsOf f.sb) [] fun _ =>
    let a := i.ea f i.low
    let q := i.rd i.low f.dst
    match i.fragAlign a q with
    | some tr => i.trap tr
    | none =>
      i.spadAccess f false true .store 16 (i.fragRows a q) fun s =>
        ((i.fragRows a q).zipIdx.foldl (fun s p => s.spadPut i.t (f.asp == .window) p.1.addr
          (i.laneData p.1.lane 64 (((i.t.desc.regsOf f.sb).drop (16 * (p.2 % 2))).take 16))) s, [])

/-! ### Atomics on scratchpad (10 R289, R290) -/

/-- One lane of an atomic at the owning scratchpad: the state and the old value. -/
def State.spadAtomic (s : State) (t : Team) (win : Bool) (op : AtomOp) (a : Int) (operand : Nat) : State × Nat :=
  let old := leNat (s.spadGet t win a op.bytes)
  (s.spadPut t win a (natLe op.bytes (atomNew op old operand)), old)

/-- An atomic on scratchpad or a window. -/
def Ix.atomSpad (x : Ix) (op : AtomOp) (f : FmtM) (dst : Opd) : State :=
  x.spadAccess f true true .atomic op.bytes (x.laneReqs f op.bytes) fun s =>
    (lanesOf x.active).foldl (fun (a : State × List Wr) l =>
      let r := a.1.spadAtomic x.t (f.asp == .window) op (x.ea f l) (x.regsNat l (x.t.desc.atomRegs op f.sb))
      (r.1, a.2 ++ x.dst l dst r.2)) (s, [])

/-- ATOMS. -/
def execAtoms (op : AtomOp) (f : FmtM) (s : State) : Out :=
  issue s f.sched fun i =>
    i.onMem f.sched (i.t.desc.regsOf f.sa ++ i.t.desc.atomRegs op f.sb) (i.t.desc.regsOf f.dst) fun _ => i.atomSpad op f f.dst

/-- RED: no return; the valid predicate is DST in global and pod space (10 R291). -/
def execRed (op : AtomOp) (f : FmtM) (s : State) : Out :=
  issue s f.sched fun i => i.onMem f.sched (i.t.desc.regsOf f.sa ++ i.t.desc.atomRegs op f.sb) [] fun _ =>
    if f.asp = .spad || f.asp = .window then i.atomSpad op f .zero else i.atomMem op f .zero f.dst

end Sys2Proof.Machine
end

