-- ==== Sys2Proof/Machine/Pages.lean ====
section
/-! DEFINITION. PGREQ and PGPROBE, and the completion of page waits (10 R293, R294, 02 R56, R66 to R73). -/

namespace Sys2Proof.Machine

/-- Outcomes of a page wait: nothing to wait for at a remote home, RESOLVED, cancelled, FAILED, PEER_LOST, FABRIC_ERROR. -/
def pgOk : Nat := 0
/-- RESOLVED. -/
def pgResolved : Nat := 1
/-- Cancelled. -/
def pgCancelled : Nat := 2
/-- FAILED. -/
def pgFailed : Nat := 3
/-- PEER_LOST. -/
def pgLost : Nat := 4
/-- FABRIC_ERROR. -/
def pgFabric : Nat := 5

/-- The cause of a wait that fails (10 R293, 02 R71). -/
def pageCause (code : Nat) : Nat :=
  if code = pgFailed then Cause.invalidPage else if code = pgLost then Cause.peerLost else Cause.fabric

/-- sr.taddr of a failed wait of a lane: its effective address, or its pod address when the home is another module's
(02 R71): pages are at least 4 KiB, so the page `at_` has it at the same offset. -/
def pageTaddr (code ea at_ : Nat) : Nat := if code = pgFailed then ea else at_ / 4096 * 4096 + ea % 4096

/-- A lane leaves its PGREQ: its access notes it (10 R284). -/
def State.pageLeft (s : State) (id : TeamId) (grp lane pc : Nat) : State :=
  s.modTraffic fun t => { t with accesses := t.accesses.map fun a =>
    if a.team == id && a.group == grp && a.pc.toNat == pc && a.open_.contains lane && !a.isLoad && !a.isStore then
      { a with open_ := a.open_.filter fun k => k != lane } else a }

/-- Completes the page wait of a lane of a team that is on its core, or notes the outcome for its resumption (10 R293, 02
R73). -/
def State.pageDone (s : State) (id : TeamId) (grp lane code addr : Nat) : State :=
  match s.team? id with
  | none => s
  | some t =>
    match ((t.group grp).lane lane).wait with
    | some (.page pc ea dst _) =>
      if t.core?.isNone then
        s.modGroup id grp fun g => g.modLane lane fun x => { x with wait := some (.page pc ea dst (some code)) }
      else
        let s := s.pageLeft id grp lane pc
        if code ≤ 2 then
          let regs := t.desc.regsOf dst
          s.modGroup id grp fun g =>
            (g.write ((wrRegs lane regs code).filter fun w => !g.lost.contains (256 * w.lane + w.key)) (.counter none) false).modLane lane
              Lane.ready
        else
          s.trapLanes id grp (maskOf [lane]) (pageCause code) (pageTaddr code ea addr) pc
    | _ => s

/-- Completes the waits of lanes of one group together: a failure is one trap of all its lanes (10 R293, 02 R71). -/
def State.pageDoneAll (s : State) (id : TeamId) (grp : Nat) (lanes : List Nat) (code addr : Nat) : State :=
  match s.team? id with
  | none => s
  | some t =>
    let mine := lanes.filter fun l => match ((t.group grp).lane l).wait with | some (.page _ _ _ _) => true | _ => false
    if code ≤ 2 || t.core?.isNone then mine.foldl (fun s l => s.pageDone id grp l code addr) s
    else
      match mine with
      | [] => s
      | l :: _ =>
        match ((t.group grp).lane l).wait with
        | some (.page pc ea _ _) =>
          let s := mine.foldl (fun s k => s.pageLeft id grp k pc) s
          s.trapLanes id grp (maskOf mine) (pageCause code) (pageTaddr code ea addr) pc
        | _ => s

/-- The lanes of a list of waiters, by group. -/
def laneWaits (w : List PageWaiter) : List (TeamId × Nat × List Nat) :=
  let l := w.filterMap fun p => match p with | .lane t g k => some (t, g, k) | _ => none
  let keys := (l.map fun p => (p.1, p.2.1)).eraseDups
  keys.map fun k => (k.1, k.2, ((l.filter fun p => p.1 == k.1 && p.2.1 == k.2).map fun p => p.2.2).mergeSort)

/-- Completes lane waiters with an outcome. -/
def State.lanesDone (s : State) (w : List PageWaiter) (code addr : Nat) : State :=
  (laneWaits w).foldl (fun s p => s.pageDoneAll p.1 p.2.1 p.2.2 code addr) s

/-- Waiters of guest records that could not be written: lanes take INVALID_PAGE, jobs fault (02 R493). -/
def State.failWaiters (s : State) (w : List PageWaiter) : State := (s.lanesDone w pgFailed 0).failEngines w

/-- The access kind that CH of a PGREQ names. -/
def pgKind (ch : BitVec 2) : AccKind := if ch = 1 then .write else if ch = 2 then .atomic else .read

/-- The function whose queue takes a request: the chip's own, or for kind S2 the home chip's (02 R67). -/
def State.pageVf (s : State) (lci kind faddr : Nat) : Nat :=
  if kind = 1 then
    match s.chip? lci with
    | some c =>
      match s.chipHome c.ident.gid (podChip c.ident.chw faddr) with
      | .here t => t
      | .peer _ _ => lci
      | .unassigned => lci
    | none => lci
  else lci

/-- ACC of a page request: bit 0 write or atomic, bit 1 engine. -/
def pageAcc (k : AccKind) (engine : Bool) : Nat :=
  (match k with | .write => 1 | .atomic => 1 | .read => 0 | .fetch => 0) + (if engine then 2 else 0)

/-- The PREQ of a request to another module (02 R67, log 40). -/
def PageReq.draft (q : PageReq) (c : Chip) : Draft :=
  { ty := ptPreq, src := c.ident.pchip, dst := podChip c.ident.chw q.faddr, addr := q.faddr, msgid := q.reqid, prio := 0,
    cls := 0, scope := 0, beats := [beatOf [(0, 8, 0), (8, 2, q.acc)]] }

/-- Sends a request to another module, which stands in its die's table; false when it cannot be sent. -/
def State.sendPreq (s : State) (q : PageReq) : State × Bool :=
  match s.chip? q.vf with
  | none => (s, false)
  | some c =>
    match s.sendDraft c.ident.gid (q.draft c) with
    | .sent s => (s.modPage q.vf 2 q.reqid fun x => { x with posted := true }, true)
    | .here _ => (s, false)
    | .lost => (s, false)
    | .unassigned => (s, false)

/-- A request to another module: it waits here under its MSGID until a PREQ answers. It joins one for its page, and waits
for room in its die's table of 128 (02 R67, R70, R71). -/
def State.askFar (s : State) (die lci pod acc : Nat) (w : PageWaiter) : State × Bool :=
  match s.chip? lci with
  | none => (s, false)
  | some c =>
    let q : PageReq := {
      die := die, vf := lci, queue := 2, kind := 1, faddr := pod / 4096 * 4096, vaddr := 0, level := 0, acc := acc,
      src := c.ident.pchip, inc := 0, reqid := s.newMsgid, posted := false, waiters := [w] }
    let full := decide (128 ≤ s.pagesPosted die)
    let joins := s.traffic.pages.any fun p => p.same q
    let s := State.addPage { s with free := s.free + 1 } q
    if joins || full then (s, true)
    else
      let r := s.sendPreq q
      if r.2 then r else (r.1.dropPage lci 2 q.reqid, false)

/-- PGREQ. -/
def execPgreq (f : FmtM) (s : State) : Out :=
  issue s f.sched fun i => i.onMem f.sched (i.t.desc.regsOf f.sa) (i.t.desc.regsOf f.dst) fun _ =>
    let k := pgKind f.ch
    match i.rangeTrap f 1 with
    | some tr => i.trap tr
    | none =>
      let r := i.s.xlateWalks i.cur.core i.t.id.lci (isPodM f) k ((lanesOf i.active).map fun l => (l, (i.ea f l).toNat))
      let y := i.withState r.2
      let off := fun (x : LaneX) => match x.out with
        | .nonres kind a _ =>
          let vf := y.s.pageVf y.t.id.lci kind a
          !(y.s.prqOf vf (if kind = 0 then 0 else 1)).enabled
        | _ => false
      match firstTrap [failedTrap r.1,
          y.failTrap Cause.invalidPage (fun l => r.1.any fun x => x.lane == l && off x) fun l => (i.ea f l).toNat] with
      | some tr => y.trap tr
      | none =>
        let waits := r.1.filter fun x => match x.out with | .here _ _ => false | _ => true
        let q := y.s.fresh
        let a : Access := {
          id := q.1, team := y.t.id, group := y.cur.group, pc := y.cur.pc, ctr := setCtr f.sched, dst := .store .zero,
          active := y.active, sync := false, isSc := false, isLoad := false, isStore := false, scope := .team,
          answers := [], open_ := waits.map LaneX.lane, effect := 0, followed := false }
        let now := (lanesOf y.active).filter fun l => !(waits.any fun x => x.lane == l)
        let g := (y.g.write (now.flatMap fun l => y.dst l f.dst 0) (y.cover f.sched none) y.cur.first).bump (setCtr f.sched)
        let g := (y.advance g).awaitReply (maskOf (waits.map LaneX.lane)) fun l =>
          .page y.cur.pc.toNat (i.ea f l).toNat f.dst none
        let s := (({ y with s := q.2 } : Ix).put g).addAccess a
        waits.foldl (fun s x =>
          let w : PageWaiter := .lane y.t.id y.cur.group x.lane
          match x.out with
          | .nonres kind fa level =>
            match s.requestPage (dieOf y.cur.core) (s.pageVf y.t.id.lci kind fa) kind fa x.ea level (pageAcc k false) y.t.pchip w with
            | some r => r.1.failWaiters r.2
            | none => s
          | .remote _ pod =>
            let r := s.askFar (dieOf y.cur.core) y.t.id.lci pod (pageAcc k false) w
            if r.2 then r.1 else r.1.pageDone y.t.id y.cur.group x.lane pgLost pod
          | _ => s) s

/-- Table 10.5. -/
def probeStatus (x : LaneX) : Nat :=
  let ok := fun (t : Tlb) (out : Nat) =>
    out + t.cls.code * 8 + (if t.r then 32 else 0) + (if t.w then 64 else 0) + (if t.x then 128 else 0)
  match x.out with
  | .here t _ => ok t 0
  | .remote t _ => if t.s2cls then 6 else ok t 1
  | .nonres kind _ level => 2 + kind + level * 65536
  | .fail c _ => 5 + c * 256

/-- PGPROBE. -/
def execPgprobe (f : FmtM) (s : State) : Out :=
  issue s f.sched fun i => i.onMem f.sched (i.t.desc.regsOf f.sa) (i.t.desc.regsOf f.dst) fun _ =>
    match i.rangeTrap f 4 with
    | some tr => i.trap tr
    | none =>
      let r := i.s.xlateLanes i.cur.core i.t.id.lci (isPodM f) .read ((lanesOf i.active).map fun l => (l, (i.ea f l).toNat))
      let y := i.withState r.2
      y.finish f.sched none (r.1.flatMap fun x => y.dst x.lane f.dst (probeStatus x))

end Sys2Proof.Machine
end

