-- ==== Sys2Proof/Machine/CacheOps.lean ====
section
/-! DEFINITION. Cache maintenance: PREFETCH, CFLUSH, CINVAL, PVFL and WOCLR (10 R295 to R299, 04 R132, R133, R492). -/

namespace Sys2Proof.Machine

/-! ### Write-backs of a core's PV copies -/

/-- The 32-byte sectors of a mask as store lanes at a line. -/
def sectorLanes (base : Nat) (l : L1Line) : List TxnLane :=
  ((List.range 4).filter fun k => l.dirty.getLsbD k).map fun k =>
    { lane := 0, addr := base + 32 * k, bytes := 32, data := sectorBytes l.data k, ea := 0 }

/-- Merges dirty sectors of an L1 copy into the bank's line; the time is the completion of the write-back (04 R133). What
would lie in a hole is discarded and reported (03 R114). -/
def State.mergeDirty (s : State) (lci mpa : Nat) (l : L1Line) : State × Nat :=
  if l.dirty = 0 then (s, 0)
  else if s.hole mpa then (s.postPf 0x0022 (mpa / 128 * 128) lci, s.gtc + 4)
  else
    let s := s.bankRoom lci (mpa / 128)
    let b := s.lineFor lci (mpa / 128) .pv
    let c := s.completion b
    let w := match l.owner with
      | some o => (match s.team? o with | some t => t.pchip | none => 0)
      | none => 0
    (s.putLine { b.merged l.data l.dirty w with cbusy := max b.cbusy c }, c)

/-- The groups of a team, as those that a write-back of the team's data counts for (Table 4.3, log 75). -/
def State.groupsOf (s : State) (id : TeamId) : List (TeamId × Nat) :=
  match s.team? id with
  | some t => t.groups.map fun p => (id, p.1)
  | none => []

/-- A STORE of class PV that carries a line's dirty sectors to another module; ORD rel marks the end of the ownership
(assumption log 41). A write-back that no access asked for counts for the team's groups. -/
def State.sendDirty (s : State) (lci pchip : Nat) (agent : Agent) (pod : Nat) (l : L1Line) (ends : Bool)
    (acc : Option Nat) (team : TeamId) (grp core : Nat) : State :=
  match s.chip? lci with
  | none => s
  | some c =>
    let r := s.fresh
    let m := r.2.newMsgid
    let s := { r.2 with free := s.free + 1 }
    let lanes := sectorLanes pod l
    let t : Txn := {
      id := r.1, acc := acc, team := some team, group := grp, core := core, kind := .store, home := .remote pod, cls := .pv,
      s2cls := false, scope := .team, sync := false, lease := 0, install := false, lanes := lanes, agent := agent,
      contribs := if acc.isNone then s.groupsOf team else [], msgid := m, member := none }
    let im := storeLine lanes
    match s.sendDraft c.ident.gid {
      ty := ptStore, src := pchip, dst := podChip c.ident.chw pod, addr := pod, msgid := m, prio := 0, cls := Cls.pv.code,
      scope := 0, beats := storeCtl im.2 agent.ident (if ends then 2 else 0) false :: beatsOf 4 im.1 } with
    | .sent s =>
      let s := s.modTraffic fun x => { x with txns := x.txns ++ [t] }
      match acc with
      | some a => s.modAccess a fun x => { x with open_ := x.open_ ++ [r.1] }
      | none => s
    | _ => s.noteDrop lci pod

/-- Writes back the dirty sectors of a core's copy of a line, then invalidates it; the time of a local write-back, which
counts for the team's groups where no access asked for it (Table 4.3). -/
def State.flushKey (s : State) (core : Nat) (key : Home) (ends : Bool) (acc : Option Nat) (grp : Nat) : State × Nat :=
  match (s.core core).line? key with
  | none => (s, 0)
  | some l =>
    let s := s.modCore core fun c => c.dropKey key
    match key with
    | .here lci mpa =>
      let r := s.mergeDirty lci mpa l
      (match acc, l.owner with
       | none, some o => (r.1.raiseTeam o r.2, r.2)
       | _, _ => r)
    | .remote pod =>
      if l.cls == .pv && (l.dirty != 0 || ends) then
        match l.owner with
        | some o =>
          (match s.team? o with
           | some t => (s.sendDirty o.lci t.pchip (t.agent core) pod l ends acc o grp core, 0)
           | none => (s, 0))
        | none => (s, 0)
      else (s, 0)

/-- Evicts one line of a core's L1 (03 R79, Table 3.2). -/
def State.evictL1 (s : State) (core : Nat) (key : Home) : State := (s.flushKey core key false none 0).1

/-- Set of an L1 line: the 1,024 lines stand in 128 sets of 8 ways (03 R79); the index is the model's choice (log 11). -/
def Home.set : Home → Nat
  | .here _ mpa => mpa / 128 % 128
  | .remote pod => pod / 128 % 128

/-- Room in a core's L1 for a line: a full set gives up a line marked First out, else its oldest (03 R79, R83, log 11). -/
def State.l1Room (s : State) (core : Nat) (key : Home) : State :=
  let ways := (s.core core).l1.filter fun l => l.key.set == key.set
  if ((s.core core).line? key).isSome || ways.length < 8 then s
  else
    match ((ways.filter L1Line.first).getLast?).or ways.getLast? with
    | some l => s.evictL1 core l.key
    | none => s

/-- Installs sectors of a line that a read returned, in a set that has room (03 R79). -/
def State.l1Install (s : State) (core : Nat) (home : Home) (cls : Cls) (data : List Byte) (sect : BitVec 4) (e : Nat)
    (owner : Option TeamId) (first : Bool := false) : State :=
  (s.l1Room core home).l1Fill core home cls data sect e owner first

/-- Writes back and invalidates a whole L1 (03 R84). -/
def State.flushL1 (s : State) (core : Nat) : State :=
  ((s.core core).l1.map L1Line.key).foldl (fun s k => s.evictL1 core k) s

/-! ### CFLUSH and CINVAL -/

/-- The home line of a translated lane. -/
def LaneX.line? (x : LaneX) : Option Home :=
  match x.out with
  | .here t a => (match t.home with | .here lci _ => some (.here lci (a / 128 * 128)) | .remote _ => none)
  | .remote _ a => some (.remote (a / 128 * 128))
  | _ => none

/-- The modules of a guest's pod, this one apart (16 R421). -/
def State.podPeers (s : State) (gid : Nat) : List Nat :=
  ((s.guest gid).table.filterMap fun p => match s.chipHome gid p.1 with
    | .peer i _ => some i
    | .here _ => none
    | .unassigned => none).eraseDups

/-- Asks a peer something that an access waits for; an isolated peer is not asked (log 33). -/
def State.askFor (s : State) (acc gid peer : Nat) (k : NoticeKind) : State :=
  if s.isolated peer then s
  else
    let id := s.fresh.1
    (s.notify gid peer k (.access acc)).modAccess acc fun a => { a with open_ := a.open_ ++ [id] }

/-- Asks the home of a pod address on another module something that an access waits for. -/
def State.askPodHome (s : State) (acc lci pod : Nat) (k : NoticeKind) : State :=
  match s.chip? lci with
  | none => s
  | some c =>
    match s.chipHome c.ident.gid (podChip c.ident.chw pod) with
    | .peer i _ => s.askFor acc c.ident.gid i k
    | .here _ => s
    | .unassigned => s

/-- The shared-cache part of CFLUSH and CINVAL of system scope, for a line homed here (10 R296). -/
def State.flushBank (s : State) (lci mpa : Nat) (inval : Bool) : State :=
  if inval then s.evictLine lci (mpa / 128)
  else
    match s.bankLine? lci (mpa / 128) with
    | none => s
    | some b => let r := s.writeBack b; r.1.putLine r.2

/-- CFLUSH and CINVAL. R296 names no kind of access for their translation: it is a read here (log 26). At system scope the
home of a line on another module does its part, for which the access waits. -/
def Ix.maintain (x : Ix) (f : FmtM) (inval : Bool) : State :=
  match x.rangeTrap f 1 with
  | some tr => x.trap tr
  | none =>
    let r := x.s.xlateLanes x.cur.core x.t.id.lci (isPodM f) .read ((lanesOf x.active).map fun l => (l, (x.ea f l).toNat))
    let y := x.withState r.2
    match failedTrap r.1 with
    | some tr => y.trap tr
    | none =>
      let keys := (r.1.filterMap LaneX.line?).eraseDups
      y.issueAccess f { dst := .status .zero 0, isLoad := false, isStore := true, ws := [] } false false [] fun s a =>
        keys.foldl (fun s k =>
          let r := s.flushKey a.core k false (some a.id) a.group
          let s := r.1.modAccess a.id fun z => { z with effect := max z.effect r.2 }
          if f.scope == .system then
            (match k with
             | .here lci mpa => s.flushBank lci mpa inval
             | .remote pod => s.askPodHome a.id a.team.lci pod (.maintain pod inval))
          else s) s

/-- CFLUSH. -/
def execCflush (f : FmtM) (s : State) : Out :=
  issue s f.sched fun i => i.onMem f.sched (i.t.desc.regsOf f.sa) [] fun _ => i.maintain f false
/-- CINVAL. -/
def execCinval (f : FmtM) (s : State) : Out :=
  issue s f.sched fun i => i.onMem f.sched (i.t.desc.regsOf f.sa) [] fun _ => i.maintain f true

/-! ### PREFETCH -/

/-- Brings a line homed here into the shared cache and, unless the hint is Stream, the core's L1 (10 R295). -/
def State.prefetchHere (s : State) (core : Nat) (ch : BitVec 2) (lci mpa : Nat) (cls : Cls) : State :=
  let line := mpa / 128
  let fits := match s.bankLine? lci line with | some b => b.cls == cls | none => true
  if !fits || cls == .pv || s.hole (line * 128) then s
  else
    let s := s.bankRoom lci line
    let b := s.lineFor lci line cls
    if b.unwritten s.gtc then s
    else
      let lease := if cls.leased && ch != 2 then min (hintLease ch) 4096 else 0
      let e := s.gtc + lease
      let s := s.putLine (if lease = 0 then b else { b with lexp := max b.lexp e, lv := true })
      if ch == 2 || b.pois != 0 then s
      else s.l1Install core (.here lci (line * 128)) cls b.data 0xF e none (ch == 3)

/-- A read of a line by a core that no access waits for. -/
def Ix.fetchTxn (x : Ix) (f : FmtM) (id msgid : Nat) (home : Home) (cls : Cls) (s2cls : Bool) (line : Nat) : Txn :=
  { id := id, acc := none, team := some x.t.id, group := x.cur.group, core := x.cur.core, kind := .load, home := home,
    cls := cls, s2cls := s2cls, scope := f.scope, sync := false, lease := hintLease f.ch, install := f.ch != 2,
    first := f.ch == 3, agent := x.t.agent x.cur.core, contribs := [], msgid := msgid, member := none
    lanes := [{ lane := 0, addr := line, bytes := 128, data := [], ea := line }] }

/-- A line of a prefetch. A store that has not completed holds the read, as it holds any read (04 R121); of the lines of
other modules only those of class WO may come into the L1 (10 R295). -/
def Ix.prefetchLane (x : Ix) (f : FmtM) (s : State) (l : LaneX) : State :=
  let later := fun (home : Home) (cls : Cls) (line : Nat) =>
    let r := s.fresh
    let m := r.2.newMsgid
    State.addTxn { r.2 with free := r.2.free + 1 } x.t.id.lci (x.fetchTxn f r.1 m home cls false line)
  match l.out with
  | .here t a =>
    (match t.home with
     | .here lci _ =>
       if t.cls.leased && s.gtc < (s.lineFor lci (a / 128) t.cls).cbusy then
         later (.here lci (a / 128 * 128)) t.cls (a / 128 * 128)
       else s.prefetchHere x.cur.core f.ch lci a t.cls
     | .remote _ => s)
  | .remote t a =>
    if t.cls == .wo && !t.s2cls && f.ch != 2 then later (.remote (a / 128 * 128)) .wo (a / 128 * 128) else s
  | .nonres _ _ _ => s
  | .fail _ _ => s

/-- PREFETCH. -/
def execPrefetch (f : FmtM) (s : State) : Out :=
  issue s f.sched fun i => i.onMem f.sched (i.t.desc.regsOf f.sa) [] fun _ =>
    match i.rangeTrap f 1 with
    | some tr => i.trap tr
    | none =>
      let r := i.s.xlateLanes i.cur.core i.t.id.lci (isPodM f) .read ((lanesOf i.active).map fun l => (l, (i.ea f l).toNat))
      (i.withState (r.1.foldl (fun s x => i.prefetchLane f s x) r.2)).finish f.sched none []

/-! ### PVFL and WOCLR -/

/-- The 4 KiB pages of a range as (lane, address). -/
def rangePages (a n : Nat) : List (Nat × Nat) :=
  if n = 0 then [] else (List.range ((a + n - 1) / 4096 - a / 4096 + 1)).map fun k => (0, (a / 4096 + k) * 4096)

/-- A checked range: its translations, or the trap (10 R297). A length of 0 does nothing. What sr.taddr holds for a misaligned
length is not stated: it is the length, as for one that is too long (log 26). -/
def Ix.rangeCheck (x : Ix) (f : FmtM) (bad : Cls → Bool) : Checked :=
  let a := x.ea f x.low
  let n := x.rd x.low f.sb
  let one := fun (c addr : Nat) => Checked.stop (x.trapActive c addr)
  if n = 0 then .ok x []
  else if a < 0 || (2 ^ 57 : Int) < a + n || (2 ^ 57 : Int) ≤ a then one Cause.access (addr64 a)
  else if a % 128 ≠ 0 then one Cause.misaligned (addr64 a)
  else if n % 128 ≠ 0 then one Cause.misaligned n
  else if 2 ^ 26 < n then one Cause.access n
  else
    let r := x.s.xlateLanes x.cur.core x.t.id.lci false .write (rangePages a.toNat n)
    let y := x.withState r.2
    match r.1.find? fun z => z.failed.isSome with
    | some z => .stop (y.trapActive (z.failed.getD Cause.access) z.ea)
    | none =>
      match r.1.find? fun z => match z.cls? with | some c => bad c | none => false with
      | some z => .stop (y.trapActive Cause.classIllegal z.ea)
      | none => .ok y r.1

/-- Pages of a range that were skipped. -/
def skippedPages (l : List LaneX) : Nat := (l.filter fun x => match x.out with | .nonres _ _ _ => true | _ => false).length

/-- The part of a range that lies in the page of a translation: its home, with the first address there, its length, and
its pod address. -/
structure Span where
  home : Home
  len : Nat
  pod : Nat
  deriving DecidableEq, Repr

/-- Pod address of a chip-slot offset of a chip of this module. -/
def State.podOf (s : State) (lci cofs : Nat) : Nat :=
  match s.chip? lci with
  | some c => c.ident.pchip * 2 ^ (48 - c.ident.chw) + cofs
  | none => cofs

/-- The part of a range of `n` bytes at `a` in the page of a translation. -/
def State.pageSpan (s : State) (a n : Nat) (x : LaneX) : Option Span :=
  let d := max a x.ea - x.ea
  let len := min (a + n) (x.ea + 4096) - (x.ea + d)
  match x.out with
  | .here t m =>
    (match t.home with
     | .here lci b => some { home := .here lci (m + d), len := len, pod := s.podOf lci (t.cofs + (m - b) + d) }
     | .remote _ => none)
  | .remote _ p => some { home := .remote (p + d), len := len, pod := p + d }
  | .nonres _ _ _ => none
  | .fail _ _ => none

/-- The owner that a team is to another module (log 42). -/
def Team.farId (t : Team) : TeamId :=
  { lci := farLci + t.pchip, handle := t.id.handle % 4096, index := t.id.index % 65536 }

/-- Ends a team's ownership of its PV lines in a span: local lines at their bank; of remote ones the team's copies are written
back, and the home ends what it has (10 R298, 04 R133). The time is the latest write-back's. -/
def State.endSpan (s : State) (core : Nat) (id : TeamId) (grp acc : Nat) (p : Span) : State × Nat :=
  match p.home with
  | .here lci m =>
    let mine := ((s.dies.flatMap fun d => d.2.lines).filter fun b =>
      b.lci == lci && b.cls == .pv && b.owner == some id && decide (m / 128 ≤ b.line) && decide (b.line < (m + p.len) / 128)).map
        BankLine.line
    mine.foldl (fun (a : State × Nat) ln =>
      match a.1.bankLine? lci ln with
      | some b => (a.1.endOwner b, max a.2 (a.1.completion b))
      | none => a) (s, 0)
  | .remote pod =>
    let keys := ((s.core core).l1.filter fun l => l.cls == .pv && l.owner == some id && (match l.key with
      | .remote q => decide (pod ≤ q) && decide (q < pod + p.len) | .here _ _ => false)).map L1Line.key
    let s := keys.foldl (fun s k => (s.flushKey core k true (some acc) grp).1) s
    (match s.team? id with
     | some t => s.askPodHome acc id.lci pod (.release pod p.len t.farId)
     | none => s, 0)

/-- PVFL. -/
def execPvfl (f : FmtM) (s : State) : Out :=
  issue s f.sched fun i =>
    i.onMem f.sched (i.t.desc.regsOf f.sa ++ i.t.desc.regsOf f.sb) (i.t.desc.regsOf f.dst) fun _ =>
      match i.rangeCheck f fun _ => false with
      | .stop s => s
      | .ok y l =>
        let a := (i.ea f i.low).toNat
        let n := i.rd i.low f.sb
        y.issueAccess f { dst := .status f.dst (BitVec.ofNat 32 (skippedPages l)), isLoad := false, isStore := true,
                          ws := y.accWrites (y.t.desc.regsOf f.dst) .zero } false false [] fun s c =>
          (l.filterMap (s.pageSpan a n)).foldl (fun s p =>
            let r := s.endSpan c.core c.team c.group c.id p
            r.1.modAccess c.id fun z => { z with effect := max z.effect r.2 }) s

/-- Every L1 with only the lines a predicate keeps. -/
def keepL1 (cores : List (Nat × Core)) (keep : L1Line → Bool) : List (Nat × Core) :=
  cores.map fun c => (c.1, { c.2 with l1 := c.2.l1.filter keep })

/-- Clears the written state of the lines of a span, resident or not, and every L1 copy of them on the module (04 R132,
R492). -/
def State.clearSpan (s : State) (lci m len : Nat) : State :=
  let inside := fun (ln : Nat) => decide (m / 128 ≤ ln) && decide (ln < (m + len) / 128)
  let clear := fun (b : BankLine) => if b.lci == lci && b.cls == .wo && inside b.line then { b with wr := false } else b
  let keep := fun (l : L1Line) =>
    match l.key with
    | .here k a => !(k == lci && l.cls == .wo && inside (a / 128))
    | .remote _ => true
  let dies := s.dies.map fun d => (d.1, { d.2 with lines := d.2.lines.map clear })
  let written := s.written.filter fun p => !inside p.1 || (s.bankLine? lci p.1).isSome
  { s with dies := dies, written := written, cores := keepL1 s.cores keep }

/-- Drops this module's L1 copies of remote WO lines in a span (04 R132). -/
def State.clearRemote (s : State) (p len : Nat) : State :=
  let keep := fun (l : L1Line) =>
    match l.key with
    | .remote q => !(l.cls == .wo && decide (p ≤ q) && decide (q < p + len))
    | .here _ _ => true
  { s with cores := keepL1 s.cores keep }

/-- The broadcast of a WOCLR: the home of a span on another module clears it, and every other module of the pod drops its L1
copies; each acknowledges (04 R132, log 33). -/
def State.broadcastClear (s : State) (acc lci : Nat) (p : Span) : State :=
  match s.chip? lci with
  | none => s
  | some c =>
    let home := match s.chipHome c.ident.gid (podChip c.ident.chw p.pod) with
      | .peer i _ => some i
      | .here _ => none
      | .unassigned => none
    (s.podPeers c.ident.gid).foldl (fun s i =>
      s.askFor acc c.ident.gid i (if home = some i then .clear p.pod p.len else .drop p.pod p.len)) s

/-- WOCLR: the clear takes effect when the access is answered, after the last acknowledgement (04 R132). -/
def execWoclr (f : FmtM) (s : State) : Out :=
  issue s f.sched fun i =>
    i.onMem f.sched (i.t.desc.regsOf f.sa ++ i.t.desc.regsOf f.sb) (i.t.desc.regsOf f.dst) fun _ =>
      match i.rangeCheck f fun c => c != .wo with
      | .stop s => s
      | .ok y l =>
        let spans := l.filterMap (y.s.pageSpan (i.ea f i.low).toNat (i.rd i.low f.sb))
        y.issueAccess f { dst := .woclr f.dst (skippedPages l) (spans.map fun p => match p.home with
                            | .here lci m => (lci, m * 8192 + p.len)
                            | .remote q => (2 ^ 16, q * 8192 + p.len)),
                          isLoad := false, isStore := true, ws := y.accWrites (y.t.desc.regsOf f.dst) .zero }
          false false [] fun s a => spans.foldl (fun s p => s.broadcastClear a.id a.team.lci p) s

end Sys2Proof.Machine
end

