-- ==== Sys2Proof/Machine/Shoot.lean ====
section
/-! DEFINITION. Shootdowns: the leaves and frames of a range, what a die removes, the class transition, and accesses held
while a transition is on its way (02 R61, R74 to R78, 04 R142, R143). -/

namespace Sys2Proof.Machine

/-! ### Leaves of a range -/

/-- A leaf that a range names: its input address, the entry and its level. -/
structure Leaf where
  input : Nat
  entry : Nat
  level : Nat
  deriving DecidableEq, Repr

/-- Bytes that an entry of a level spans. -/
def levelSpan (level : Nat) : Nat := 2 ^ (12 + 9 * level)

/-- What an entry contributes to a list of leaves: nothing, a leaf, or the table it names. -/
inductive EntryIs where
  | nothing
  | leaf
  | table (at_ : Nat)
  deriving DecidableEq, Repr

/-- Sorts an entry of a stage, whatever its RES bit (04 R142). -/
def entryIs (e stage level : Nat) : EntryIs :=
  if eMalformed e stage level || eType e == 0 then .nothing
  else if eType e = 1 then .table (bits e 12 40 * 4096)
  else .leaf

/-- Leaves of a stage-1 table for inputs in `[lo, hi)`; `base` is the first input of the table. -/
def State.s1Leaves (s : State) (lci : Nat) (c : Chip) (lo hi : Nat) : Nat → Nat → Nat → List Leaf
  | level, table, base =>
    (List.range (if level = 3 then 2 ^ 18 else 512)).flatMap fun i =>
      let a := base + i * levelSpan level
      if decide (a + levelSpan level ≤ lo) || decide (hi ≤ a) then []
      else
        match s.s1Read [] lci c (table + 8 * i) 8 level with
        | .stop _ => []
        | .bytes l =>
          match entryIs (leNat l) 1 level with
          | .nothing => []
          | .leaf => [{ input := a, entry := leNat l, level := level }]
          | .table t => match level with
            | 0 => []
            | k + 1 => s.s1Leaves lci c lo hi k t a

/-- Leaves of a stage-2 table for chip-slot offsets in `[lo, hi)`. -/
def State.s2Leaves (s : State) (lo hi : Nat) : Nat → Nat → Nat → List Leaf
  | level, table, base =>
    (List.range 512).flatMap fun i =>
      let a := base + i * levelSpan level
      if decide (a + levelSpan level ≤ lo) || decide (hi ≤ a) then []
      else
        let e := (s.entryAt (table + 8 * i)).getD 0
        match entryIs e 2 level with
        | .nothing => []
        | .leaf => [{ input := a, entry := e, level := level }]
        | .table t => match level with
          | 0 => []
          | k + 1 => s.s2Leaves lo hi k t a

/-- The 4 KiB pages of a leaf inside `[lo, hi)`. -/
def Leaf.pages (l : Leaf) (lo hi : Nat) : List Nat :=
  ((List.range (levelSpan l.level / 4096)).map fun k => l.input + 4096 * k).filter fun a =>
    decide (lo ≤ a) && decide (a < hi)

/-! ### Frames (04 R142) -/

/-- The stage-2 output of a chip-slot offset, whatever the leaf's RES bit. -/
def State.frameGo (s : State) (cofs : Nat) : Nat → Nat → Option Nat
  | level, table =>
    let e := (s.entryAt (table + 8 * bits cofs (12 + 9 * level) 9)).getD 0
    match entryIs e 2 level with
    | .nothing => none
    | .leaf => some (leafOutput e level cofs)
    | .table t => match level with
      | 0 => none
      | k + 1 => s.frameGo cofs k t

/-- The frame of a chip-slot offset. -/
def State.frameOf (s : State) (lci cofs : Nat) : Option Nat :=
  match s.chip? lci with
  | none => none
  | some c => if bits c.s2.toNat 0 1 = 0 then none else s.frameGo cofs 3 (bits c.s2.toNat 12 40 * 4096)

/-- First input and end of a shootdown's range. -/
def Shoot.span (sh : Shoot) : Nat × Nat :=
  if sh.all then (0, 2 ^ 57) else (sh.first * 4096, (sh.first + sh.count) * 4096)

/-- The pod page that a stage-1 leaf gives an input page. -/
def State.leafPod (s : State) (lci : Nat) (c : Chip) (l : Leaf) (va : Nat) : Option Nat :=
  if eType l.entry = 4 then
    match s.stripeOut [] lci c l.entry va l.level with
    | .ok out _ _ _ _ _ _ => some out
    | _ => none
  else some (leafOutput l.entry l.level va)

/-- The frames that a shootdown's range names: on this module by home chip and module physical page, elsewhere by pod
page; each with its pod page. -/
def State.shootFrames (s : State) (sh : Shoot) : List (Home × Nat) :=
  match s.chip? sh.lci with
  | none => []
  | some c =>
    let r := sh.span
    if sh.stage = 2 then
      if bits c.s2.toNat 0 1 = 0 then []
      else
        (s.s2Leaves r.1 r.2 3 (bits c.s2.toNat 12 40 * 4096) 0).flatMap fun l =>
          (l.pages r.1 r.2).map fun a => (.here sh.lci (leafOutput l.entry l.level a), s.podOf sh.lci a)
    else
      let pods :=
        if c.flat then []
        else (s.s1Leaves sh.lci c r.1 r.2 3 c.s1Root 0).flatMap fun l =>
          (l.pages r.1 r.2).filterMap fun a => s.leafPod sh.lci c l a
      pods.filterMap fun p =>
        match s.chipHome c.ident.gid (podChip c.ident.chw p) with
        | .here t => (s.frameOf t (podOfs c.ident.chw p)).map fun m => (.here t m, p)
        | .peer _ _ => some (.remote p, p)
        | .unassigned => none

/-! ### The transition -/

/-- A resident line after its transition to a class (Table 4.7). -/
def State.retag (s : State) (lci line : Nat) (cls : Cls) : State :=
  match s.bankLine? lci line with
  | none => s
  | some b =>
    let r := s.recall b
    let w := r.1.writeBack r.2
    w.1.putLine { w.2 with owner := none, arec := none, cls := cls, wr := false }

/-- Accesses that a transition of a frame has held are performed under the new class (04 R143). -/
def Txn.retagged (t : Txn) (lci m : Nat) (cls : Cls) : Txn :=
  match t.home with
  | .here h a => if h == lci && a / 4096 == m / 4096 then { t with cls := cls } else t
  | .remote _ => t

/-- L1 keys of the lines of a frame, of those that some core holds. -/
def State.keysIn (s : State) (f : Home) : List Home :=
  ((s.cores.flatMap fun c => c.2.l1.map L1Line.key).filter fun k => match f, k with
    | .here lci m, .here h a => h == lci && a / 4096 == m / 4096
    | .remote p, .remote q => decide (p ≤ q) && decide (q < p + 4096)
    | _, _ => false).eraseDups

/-- Every L1 copy of a frame leaves, dirty PV sectors of remote lines towards their home (Table 4.7). -/
def State.dropFrame (s : State) (f : Home) : State :=
  (s.keysIn f).foldl (fun s k => (s.cores.map (·.1)).foldl (fun s c => (s.flushKey c k false none 0).1) s) s

/-- The transition of one frame: every resident line, every L1 copy, the accesses that it held and, for WO, every written
bit (04 R142, R143, R492). -/
def State.retagFrame (s : State) (f : Home) (cls : Cls) : State :=
  match f with
  | .here lci m =>
    let s := (List.range 32).foldl (fun s k => s.retag lci (m / 128 + k) cls) s
    let inside := fun (ln : Nat) => decide (m / 128 ≤ ln) && decide (ln < m / 128 + 32)
    let keep := fun (l : L1Line) => match l.key with
      | .here k a => !(k == lci && inside (a / 128))
      | .remote _ => true
    { s with
      cores := keepL1 s.cores keep
      traffic := { s.traffic with txns := s.traffic.txns.map fun t => t.retagged lci m cls }
      written := if cls = .wo then s.written.filter fun p => !inside p.1 else s.written }
  | .remote _ => s.dropFrame f

/-- Asks a peer something that a shootdown waits for; an isolated peer is not asked (log 33). -/
def State.askShoot (s : State) (seq gid peer : Nat) (k : NoticeKind) : State :=
  if s.isolated peer then s else s.notify gid peer k (.shoot seq)

/-- What a transition asks of other modules for one frame: the home of a frame elsewhere makes the transition, the owners of
its PV lines elsewhere give their dirty sectors back, and every other module drops its L1 copies (04 R142, Table 4.7). -/
def State.askFrame (s : State) (sh : Shoot) (cls : Cls) (f : Home × Nat) : State :=
  match s.chip? sh.lci with
  | none => s
  | some c =>
    let gid := c.ident.gid
    match f.1 with
    | .remote pod =>
      let home := match s.chipHome gid (podChip c.ident.chw pod) with
        | .peer i _ => some i
        | .here _ => none
        | .unassigned => none
      let s := s.dropFrame f.1
      (s.podPeers gid).foldl (fun s i =>
        s.askShoot sh.seq gid i (if home = some i then .retag pod cls else .drop pod 4096)) s
    | .here lci m =>
      let far := ((s.dies.flatMap fun d => d.2.lines).filter fun b => b.lci == lci && b.line / 32 == m / 4096).filterMap fun b =>
        b.farOwner?.map fun p => (b.opod, p)
      let s := far.foldl (fun s q => match s.chipHome gid q.2 with
        | .peer i _ => s.askShoot sh.seq gid i (.recall q.1)
        | .here _ => s
        | .unassigned => s) s
      (s.podPeers gid).foldl (fun s i => s.askShoot sh.seq gid i (.drop f.2 4096)) s

/-- The first part of a transition: what other modules do. -/
def State.askTransition (s : State) (sh : Shoot) : State :=
  let s := s.modHub fun h => { h with shoots := h.shoots.map fun x => if x.seq == sh.seq then { x with moved := true } else x }
  match sh.cls with
  | none => s
  | some cls => (s.shootFrames sh).foldl (fun s f => s.askFrame sh cls f) s

/-- The class transition of a shootdown on this module. -/
def State.transition (s : State) (sh : Shoot) : State :=
  match sh.cls with
  | none => s
  | some cls => (s.shootFrames sh).foldl (fun s f => s.retagFrame f.1 cls) s

/-- Other modules have done their part of a shootdown. -/
def State.shootHeard (s : State) (seq : Nat) : Bool := s.mod.notices.all fun n => n.who != .shoot seq

/-- A bank holds an access whose class differs from the line's tag while a transition over its frame is on its way: from the
broadcast of the shootdown, the module's oldest, until it ends (04 R143). -/
def State.shootHolds (s : State) (lci mpa : Nat) (cls : Cls) : Bool :=
  match s.hub.shoots with
  | [] => false
  | sh :: _ =>
    sh.cls.isSome &&
      (match s.bankLine? lci (mpa / 128) with | some b => b.cls != cls | none => false) &&
      (s.shootFrames sh).any fun f => f.1 == .here lci (mpa / 4096 * 4096)

/-! ### What a die removes (02 R61, R75) -/

/-- A cached translation that a shootdown removes. -/
def Tlb.shot (t : Tlb) (sh : Shoot) : Bool :=
  let r := sh.span
  let meets := fun (a : Nat) => sh.all || (decide (a < r.2) && decide (r.1 < a + t.size))
  if sh.stage = 1 then !t.isPod && t.lci == sh.lci && meets t.input
  else
    match t.home with
    | .here h _ => h == sh.lci && meets t.cofs
    | .remote _ => false

/-- A walk-cache entry that a shootdown removes: every one of the chip, of whose stage-2 entries a stage-1 shootdown keeps
all. -/
def WalkEnt.shot (w : WalkEnt) (sh : Shoot) : Bool := w.lci == sh.lci && (sh.stage != 1 || w.kind != 2)

/-- A die removes the entries of a shootdown. -/
def State.shootDie (s : State) (sh : Shoot) (die : Nat) : State :=
  let keep := fun (t : Tlb) => !t.shot sh
  let cut := fun (c : Core) => { c with
    dtlb := c.dtlb.filter keep, itlb := c.itlb.filter keep, stlb := c.stlb.filter keep }
  let s := { s with cores := s.cores.map fun (c : Nat × Core) => if dieOf c.1 = die then (c.1, cut c.2) else c }
  s.modDie die fun d => { d with
    engTlb := d.engTlb.filter keep, fabTlb := d.fabTlb.filter keep, walk := d.walk.filter fun w => !w.shot sh }

/-- A transaction that a die waits for before it acknowledges: one of the chip, issued before the removal, that no
transition holds. Hardware and engines have no team: theirs are told by their pod chip number. -/
def State.txnBefore (s : State) (t : Txn) (lci die mark : Nat) : Bool :=
  decide (t.id < mark) && dieOf t.core == die &&
    (match t.home with | .here h a => !s.shootHolds h a t.cls | .remote _ => true) &&
    ((match t.team with | some id => id.lci == lci | none => t.agent.pchip == (s.chip? lci).elim 0 fun c => c.ident.pchip) ||
      (match t.home with | .here h _ => h == lci | .remote _ => false))

/-- A request whose writes go through translations that its issue made (11 R325). -/
def MxReq.drains (r : MxReq) : Bool :=
  match r.op with
  | some (.mdrain _ _ _ _ _ _ pages) => !pages.isEmpty
  | some (.mzero _) | some (.mlda _ _ _ _) | some (.mrda _ _ _ _ _) | some (.mwra _ _ _ _) | some (.mxout _ _ _ _ _ _ _ _) => false
  | none => false

/-- Every access of the chip that was in flight on the die at the removal has been performed: of lanes and the fabric, of the
write-combining buffers, and rows of engine jobs (02 R75). -/
def State.shootQuiet (s : State) (lci die mark : Nat) : Bool :=
  !(s.traffic.txns.any fun t => s.txnBefore t lci die mark) &&
    (s.cores.all fun c => dieOf c.1 != die || c.2.wcb.all fun w => w.lci != lci || decide (mark ≤ w.id)) &&
    (s.traffic.drained.all fun w => w.2.lci != lci || decide (mark ≤ w.2.id)) &&
    (s.traffic.jobs.all fun j => j.lci != lci || j.die != die || j.held || j.outcome != 0 ||
      !(j.begun.any fun p => j.rows.contains p.1)) &&
    !(s.clusters.any fun c => decide (c.1 / 32 = die) &&
      (c.2.table ++ c.2.postbuf ++ c.2.granted.toList).any fun r => r.team.lci == lci && decide (r.id < mark) && r.drains)

end Sys2Proof.Machine
end

