-- ==== Sys2Proof/Machine/Answer.lean ====
section
/-! DEFINITION. What happens to an access after its issue: its transactions are performed at their banks or in the owner's
L1 (03 R79 to R83, 04 R119 to R134, R140, R141), its answers are written, and the memory events of the module: the sweep of
leases, the ageing of write-combined lines, walks ahead of use and the dies' part of a shootdown (03 R90, 10 R286, 02 R60,
R75). -/

namespace Sys2Proof.Machine

/-! ### Order of a core's requests to a line -/

/-- The transaction of a number, when no earlier one of its queue is left. -/
def State.readyTxn (s : State) (n : Nat) : Option Txn :=
  match s.traffic.txns.find? fun t => t.id == n with
  | none => none
  | some t =>
    match s.traffic.txns.find? fun u => u.sameQueue t with
    | some u => if u.id == n then some t else none
    | none => none

/-- The request that a transaction makes of its bank. -/
def Txn.request (t : Txn) (lci base : Nat) : BankReq :=
  { lci := lci, line := base / 128, cls := t.cls, sync := t.sync, scope := t.scope, who := t.who, lanes := t.lanes }

/-- Some lane was performed. -/
def anyDone (l : List LaneAns) : Bool := l.any fun a => a.cause.isNone
/-- Every lane has valid data. -/
def allValid (l : List LaneAns) : Bool := l.all LaneAns.valid

/-! ### PV lines in the owner's L1 (04 R133, R134) -/

/-- The owner's copy of a line that holds every sector a transaction needs. -/
def State.pvCopy (s : State) (t : Txn) : Option L1Line :=
  match (s.core t.core).line? t.home with
  | some l =>
    if l.cls == .pv && l.owner == t.team && (lanesSectors t.lanes &&& ~~~ l.valid) == 0 then some l else none
  | none => none

/-- A transaction performed on a copy: its lanes' answers and the copy afterwards. -/
def L1Line.perform (l : L1Line) (t : Txn) : L1Line × List LaneAns :=
  match t.kind with
  | .load => (l, readLanes l.data t.lanes)
  | .store =>
    ({ l with data := t.lanes.foldl storeLane l.data, dirty := l.dirty ||| lanesSectors t.lanes }, t.lanes.map fun n => laneOk n [])
  | .atomic op _ =>
    t.lanes.foldl (fun (a : L1Line × List LaneAns) n =>
      let w := atomWidth op
      let old := (a.1.data.drop (n.addr % 128)).take w
      let new := natLe w (atomNew op (leNat old) (leNat n.data))
      ({ a.1 with data := patch a.1.data (n.addr % 128) new, dirty := a.1.dirty ||| sectorsOf (n.addr % 128) w },
       a.2 ++ [laneOk n old])) (l, [])

/-- Performs a transaction in the owner's L1. -/
def State.performPv (s : State) (t : Txn) (l : L1Line) : State :=
  let r := l.perform t
  (s.modCore t.core fun c => c.putL1 r.1).answerTxn t r.2 0

/-- Fetches the sectors that a PV access of a local line lacks; poisoned sectors are answered at the bank (03 R113). -/
def State.fetchPv (s : State) (t : Txn) (lci base : Nat) : State :=
  let q := t.request lci base
  let r := s.bankRead q 0
  let causes := r.answers.filterMap LaneAns.cause
  if causes.isEmpty then
    match r.st.bankLine? lci (base / 128) with
    | none => r.st
    | some b =>
      let s := r.st.l1Install t.core t.home .pv b.data (lanesSectors t.lanes) 0 t.team
      match s.pvCopy t with
      | some l => s.performPv t l
      | none => s
  else if causes.any fun c => c.1 != Cause.poison then r.st.answerTxn t r.answers 0
  else
    match t.kind with
    | .load => r.st.answerTxn t r.answers 0
    | .store => let w := r.st.bankStore q; w.st.answerTxn t w.answers w.time
    | .atomic op _ => let w := r.st.bankAtomic q op; w.st.answerTxn t w.answers w.time

/-- The whole sectors that a transaction needs, as lanes of one read. -/
def Txn.sectorReads (t : Txn) (pod : Nat) : List TxnLane :=
  let m := lanesSectors t.lanes
  ((List.range 4).filter fun k => m.getLsbD k).map fun k =>
    { lane := k, addr := pod + 32 * k, bytes := 32, data := [], ea := pod + 32 * k }

/-- A PV store that carries poison is performed at the bank, at a home elsewhere by a STORE packet, after the owner's copy has been merged (03 R111, R113). -/
def State.storeBadPv (s : State) (t : Txn) (lci base : Nat) : State :=
  let s := (s.flushKey t.core t.home false none 0).1
  let r := s.bankStore (t.request lci base)
  r.st.answerTxn t r.answers 0

/-- A PV access: in the owner's L1, after the sectors it needs have been fetched from the home. -/
def State.servePv (s : State) (t : Txn) : State :=
  match s.pvCopy t with
  | some l =>
    match t.home, t.lanes.any TxnLane.bad with
    | .here lci base, true => s.storeBadPv t lci base
    | .remote _, true => ((s.flushKey t.core t.home false none 0).1).sendLate t t
    | _, false => s.performPv t l
  | none =>
    match t.home with
    | .here lci base => if t.lanes.any TxnLane.bad then s.storeBadPv t lci base else s.fetchPv t lci base
    | .remote pod =>
      if t.sent then s
      else if t.lanes.any TxnLane.bad then s.sendLate t t
      else s.sendLate t { t with kind := .load, lanes := t.sectorReads pod }

/-! ### Stores, atomics and loads at the bank -/

/-- The core's own copy after its store has been accepted, or refused (04 R123): an SC store, which is not forwarded, is
written into it now. -/
def State.ownAccepted (s : State) (t : Txn) (ok : Bool) (c : Nat) : State :=
  match (s.core t.core).line? t.home with
  | none => s
  | some l =>
    if l.cls != t.cls then s
    else if ok && t.kind == .store then
      s.modCore t.core fun x => x.putL1 { l with
        cmax := max l.cmax c, data := if t.cls == .sc then t.lanes.foldl storeLane l.data else l.data }
    else s.modCore t.core fun x => x.dropKey t.home

/-- Time at which the hub issues the posted write of a store to host memory (Table 4.3). The spec gives no delay from the
completion time: it is a free value (log 34). -/
def State.postedAt (s : State) (base c : Nat) : Nat := if mpaRegion base = 1 then c + Config.freeNat s.free else 0

/-- The bank of a local line performs a store or an atomic. -/
def State.writeHere (s : State) (t : Txn) (lci base : Nat) : State :=
  let q := t.request lci base
  let r := match t.kind with
    | .atomic op _ => s.bankAtomic q op
    | .store => s.bankStore q
    | .load => s.bankStore q
  let done := anyDone r.answers
  let s := r.st.ownAccepted t (r.answers.all fun a => a.cause.isNone) r.time
  let s := if done then s.noteLate t.core t.home t.cls r.time else s
  State.answerTxn { s with free := s.free + 1 } t r.answers (if done then r.time else 0)
    (if done then s.postedAt base r.time else 0)

/-- The bank of a local line serves a load, and the L1 keeps what it returned (03 R79 to R83, 04 R121). -/
def State.readHere (s : State) (t : Txn) (lci base : Nat) : State :=
  if !s.readReady lci (base / 128) t.cls || s.woLate t then s
  else
    let r := s.bankRead (t.request lci base) (if t.install then t.lease else 0)
    let s := r.st
    let s :=
      if t.install && allValid r.answers then
        match s.bankLine? lci (base / 128) with
        | some b => s.l1Install t.core t.home t.cls b.data (lanesSectors t.lanes) r.time none t.first
        | none => s
      else s
    s.answerTxn t r.answers 0

/-- A transaction's turn at its coherence point; one for another module that has waited leaves its core. -/
def State.serveTxn (s : State) (t : Txn) : State :=
  match t.home with
  | .here lci base =>
    if s.shootHolds lci base t.cls then s
    else if t.cls == .pv then s.servePv t
    else if t.kind == .load then s.readHere t lci base
    else s.writeHere t lci base
  | .remote _ =>
    if t.cls == .pv && !t.s2cls then s.servePv t
    else if t.sent || s.woLate t then s
    else s.sendLate t t

/-- STORE_ACCEPT. -/
def execStoreAccept (txn : Nat) (s : State) : Out :=
  .next (match s.readyTxn txn with
  | some t => if t.kind == .load then s else s.serveTxn t
  | none => s)

/-- READ_SERVICE. -/
def execReadService (txn : Nat) (s : State) : Out :=
  .next (match s.readyTxn txn with
  | some t => if t.kind == .load then s.serveTxn t else s
  | none => s)

/-! ### The end of an access -/

/-- The writes of a value to a v, d or predicate operand of a lane. -/
def Desc.dstOf (d : Desc) (l : Nat) (o : Opd) (v : Nat) : List Wr :=
  match o with
  | .p k => if k = 7 then [] else [{ lane := l, key := predKey k.toNat, val := if v = 0 then 0 else 1 }]
  | .v _ | .d _ | .t _ | .a _ | .zero | .c _ => wrRegs l (d.regsOf o) v

/-- The answers of a lane. -/
def Access.lane (a : Access) (l : Nat) : List LaneAns := a.answers.filter fun n => n.lane == l

/-- LDX's combination of a lane's components (12 R357). -/
def ldxValue (op : LdxOp) (l : List Nat) : Nat :=
  match op with
  | .addF32 => reduceVals 0 .f32 .rne false l
  | .minF32 => reduceVals 1 .f32 .rne false l
  | .maxF32 => reduceVals 2 .f32 .rne false l
  | .addI32 => reduceVals 0 .i32 .rne false l
  | .addBf16x2 =>
    let half := fun (k : Nat) => roundTo .bf16 (fsum false (l.map fun v => fdecode .bf16 (bits v (16 * k) 16))) (.rm .rne) false
    half 0 + 2 ^ 16 * half 1

/-- Members of a multicast set whose answer for a lane is not valid. -/
def Access.missing (a : Access) (l members : Nat) : Nat :=
  ((List.range members).map fun i =>
    if (a.lane l).any fun n => n.member == some i && n.valid then 0 else 2 ^ i).sum

/-- The destination of a lane is not written: its cause was found at the bank (04 R141). A lane that failed at its home or
lost its peer returns zero (02 R58, 16 R434). -/
def LaneAns.keeps (n : LaneAns) : Bool :=
  match n.cause with
  | some c => c.1 != Cause.fabric && c.1 != Cause.peerLost
  | none => false

/-- Valid bit of a lane as 0 or 1. -/
def validBit (b : Bool) : Nat := if b then 1 else 0

/-- The register and predicate writes of an access that has been answered (10 R280, R282, R290, 12 R356, R357). -/
def Access.writes (a : Access) (d : Desc) : List Wr :=
  match a.dst with
  | .load sz dst pred =>
    a.answers.flatMap fun n =>
      (if n.keeps then [] else wrRegs n.lane (d.ldRegs sz dst) (loadValue sz (leNat n.data))) ++
        d.dstOf n.lane pred (validBit (n.valid && n.cause.isNone))
  | .store pred => a.answers.flatMap fun n => d.dstOf n.lane pred (validBit (n.valid && n.cause.isNone))
  | .atomic _ dst pred =>
    a.answers.flatMap fun n =>
      (if n.keeps then [] else d.dstOf n.lane dst (leNat n.data)) ++
        d.dstOf n.lane pred (validBit (n.valid && n.cause.isNone))
  | .stm dst members => (lanesOf a.active).flatMap fun l => d.dstOf l dst (a.missing l members)
  | .ldx op dst pred members =>
    (lanesOf a.active).flatMap fun l =>
      let ans := a.lane l
      let ok := a.missing l members == 0
      (if ans.any LaneAns.keeps then []
       else d.dstOf l dst (if ok then ldxValue op (ans.map fun n => leNat n.data) else 0)) ++ d.dstOf l pred (validBit ok)
  | .drain pred => (lanesOf a.active).flatMap fun l => d.dstOf l pred (validBit (a.answers.all fun n => n.valid))
  | .status dst v => (lanesOf a.active).flatMap fun l => d.dstOf l dst v.toNat
  | .woclr dst k _ => (lanesOf a.active).flatMap fun l => d.dstOf l dst k

/-- The cause that an access brings back: the lowest failing lane's, with every failing lane (04 R141). -/
def Access.cause (a : Access) : Option Trap :=
  let bad := a.answers.filter fun n => n.cause.isSome
  match (bad.mergeSort fun x y => decide (x.lane ≤ y.lane)).head? with
  | none => none
  | some n =>
    let lanes := match a.dst with | .drain _ => a.active | _ => maskOf (bad.map LaneAns.lane)
    n.cause.map fun c => { cause := c.1, lanes := lanes, addr := c.2 }

/-- The clear of a WOCLR, at once when it is answered (04 R132, R492): pages `(chip, address * 8192 + length)`, with chip
2^16 for a remote page. -/
def State.clearPages (s : State) (pages : List (Nat × Nat)) : State :=
  pages.foldl (fun s p =>
    if p.1 = 2 ^ 16 then s.clearRemote (p.2 / 8192) (p.2 % 8192) else s.clearSpan p.1 (p.2 / 8192) (p.2 % 8192)) s

/-- A group after an access: its writes land, its hold ends, its pending times rise, its counter drops (10 R284, 04 R125,
R127, R129). -/
def Group.ended (g : Group) (a : Access) (d : Desc) (eff : Nat) : Group :=
  let g := g.land (a.writes d) a.id
  let g := { g with ord := { g.ord with
    holds := g.ord.holds.filter fun h => h != Hold.answer a.id
    scUntil := if a.isSc && a.isStore then max g.ord.scUntil eff else g.ord.scUntil } }
  let g := if a.isStore then (g.raise (a.isSc || a.isClear) eff).raiseSystem a.posted else g
  g.due a.ctr

/-- Delivers or notes the cause of an access: a synchronising one traps now, another at its boundary (04 R141). -/
def State.bringCause (s : State) (a : Access) (t : Team) : State :=
  match a.cause with
  | none => s
  | some tr =>
    if a.sync then
      match t.core? with
      | some core =>
        if t.stopping then s
        else (s.takeTrap t.id a.group core tr a.pc false).modGroup t.id a.group fun g => g.endRun s.gtc
      | none => s
    else
      s.modGroup t.id a.group fun g => { g with ord := { g.ord with deferred := g.ord.deferred ++
        [{ pc := a.pc, lanes := tr.lanes, cause := tr.cause, addr := tr.addr, ctr := a.ctr, issuedAfter := a.followed }] } }

/-- An access whose answers are all in. -/
def State.finishAccess (s : State) (a : Access) : State :=
  let s := s.modTraffic fun x => { x with accesses := x.accesses.filter fun b => b.id != a.id }
  let s := match a.dst with | .woclr _ _ pages => s.clearPages pages | _ => s
  let eff := if a.isClear then s.gtc else a.effect
  match s.team? a.team with
  | none => s
  | some t =>
    (s.landGroup a.team a.group fun g => g.ended a t.desc eff).bringCause a t

/-- ACCESS_ANSWER. -/
def execAccessAnswer (acc : Nat) (s : State) : Out :=
  .next (match s.traffic.accesses.find? fun a => a.id == acc with
  | some a => if a.open_.isEmpty then s.finishAccess a else s
  | none => s)

/-! ### Sweeps, ageing and walks -/

/-- LEASE_SWEEP. -/
def execLeaseSweep (die : BitVec 4) (bank : BitVec 5) (s : State) : Out := .next (s.sweepBank die.toNat bank.toNat)

/-- WCB_AGE_EXPIRY: entries of a line that are 2 us old drain (10 R286). -/
def execWcbAgeExpiry (core : Nat) (pchip : BitVec 10) (line : BitVec 41) (s : State) : Out :=
  let due := (s.core core).wcb.filter fun w =>
    w.pchip == pchip.toNat && w.line == line.toNat && decide (w.since + 2000 ≤ s.gtc)
  .next (due.foldl (fun s w => s.drainEntry core w) s)

/-- The kind of access that a walk's code names. -/
def walkKind (k : BitVec 2) : AccKind :=
  match k.toNat with
  | 0 => .read | 1 => .write | 2 => .atomic | _ => .fetch

/-- TRANSLATION_WALK: a core with a resident team of a chip walks an address of it and keeps the translation (02 R43, R60
to R63). -/
def execTranslationWalk (core : Nat) (lci : BitVec 8) (va : DWord) (kind : BitVec 2) (s : State) : Out :=
  .next (
    if !(s.residents core).any fun t => t.id.lci == lci.toNat then s
    else
      let r := s.walkCore core lci.toNat false va.toNat (walkKind kind)
      match r.1 with
      | .here _ _ => r.2
      | .remote _ _ => r.2
      | .nonres _ _ _ => r.2
      | .fail _ tb => r.2.noteTable lci.toNat tb)

/-! ### Shootdowns -/

/-- Replaces a shootdown of a sequence number. -/
def State.modShoot (s : State) (seq : Nat) (f : Shoot → Shoot) : State :=
  s.modHub fun h => { h with shoots := h.shoots.map fun x => if x.seq == seq then f x else x }

/-- One die's part: it removes its entries, and it acknowledges once the accesses that were on their way have been
performed (02 R75). -/
def State.shootStep (s : State) (sh : Shoot) (die : Nat) : State :=
  if sh.acked.contains die then s
  else
    match sh.removed.find? fun p => p.1 == die with
    | none =>
      let mark := s.ids
      let s := s.shootDie sh die
      let s := s.modShoot sh.seq fun x => { x with removed := x.removed ++ [(die, mark)] }
      if s.shootQuiet sh.lci die mark then s.modShoot sh.seq fun x => { x with acked := x.acked ++ [die] } else s
    | some p =>
      if s.shootQuiet sh.lci die p.2 then s.modShoot sh.seq fun x => { x with acked := x.acked ++ [die] } else s

end Sys2Proof.Machine
end

