-- ==== Sys2Proof/Machine/Control.lean ====
section
/-! DEFINITION. Family 0x0: branches, calls, EXIT, traps, service calls, REGION, YIELD and SLEEPT (09 R252 to R262). -/

namespace Sys2Proof.Machine

/-- NOP. -/
def execNop (f : FmtR) (s : State) : Out := issue s f.sched fun i => i.finish f.sched (some 4) []

/-! ### Transfers -/

/-- The check that a lane's target fails: its rank and cause (09 R254). -/
structure TgtFail where
  lane : Nat
  rank : Nat
  cause : Nat
  deriving DecidableEq, Repr

/-- Checks the targets of lanes, and the state with what the fetches cached. -/
def checkTargets (s : State) (core lci : Nat) (tgt : Nat → Nat) (l : List Nat) : List TgtFail × State :=
  l.foldl (fun (a : List TgtFail × State) k =>
    match a.2.checkTarget core lci (tgt k) with
    | .ok s => (a.1, s)
    | .bad r c s => (a.1 ++ [{ lane := k, rank := r, cause := c }], s)) ([], s)

/-- The trap of a set of failed targets: the earliest check, its lanes, its lowest lane's cause and target (09 R254). -/
def targetTrap (l : List TgtFail) (tgt : Nat → Nat) : Option Trap :=
  match l with
  | [] => none
  | f :: r =>
    let k := (r.map TgtFail.rank).foldl min f.rank
    let bad := l.filter fun x => x.rank == k
    match bad with
    | [] => none
    | b :: _ => some { cause := b.cause, lanes := maskOf (bad.map TgtFail.lane), addr := tgt b.lane % 2 ^ 64 }

/-- A transfer of the active lanes; `reg` names registers read, `link` the link writes, `ends` whether the region ends. -/
def Ix.transfer (x : Ix) (sc : Sched) (srcs : List (Nat × Mask)) (dst : Opd) (tgt : Nat → Nat) (ends : Bool) : State :=
  match x.operandTrap srcs (x.t.desc.regsOf dst) with
  | some tr => x.trap tr
  | none =>
    let r := checkTargets x.s x.cur.core x.t.id.lci tgt (lanesOf x.active)
    match targetTrap r.1 tgt with
    | some tr => (x.withState r.2).trap tr
    | none =>
      let y := x.withState r.2
      let ws := (lanesOf x.active).flatMap fun l => x.dst l dst x.cur.next.toNat
      let g := ((y.g.write ws (y.cover sc (some 4)) y.cur.first).bump (setCtr sc)).due (setCtr sc)
      let g := (y.advance g).modLanes y.active fun l z => { z with pc := BitVec.ofNat 64 (tgt l) }
      y.put (if ends && x.active != 0 then { g with region := [] } else g)

/-- The target of a relative branch, modulo 2^64 (06 R184). -/
def Ix.relTarget (x : Ix) (imm : Word) : Nat :=
  let t : Int := (pcLine x.cur.pc.toNat : Int) + toSigned 24 (bits imm.toNat 3 24) * 64 + (bits imm.toNat 0 3 : Int)
  wrapNat 64 t

/-- BRA. -/
def execBra (f : FmtI) (s : State) : Out :=
  issue s f.sched fun i => i.transfer f.sched [] .zero (fun _ => i.relTarget f.imm) false
/-- BRX. -/
def execBrx (f : FmtR) (s : State) : Out :=
  issue s f.sched fun i => i.transfer f.sched (i.own (i.t.desc.regsOf f.sa)) .zero (fun l => i.rd l f.sa) false
/-- CALL. -/
def execCall (f : FmtI) (s : State) : Out :=
  issue s f.sched fun i => i.transfer f.sched [] f.dst (fun _ => i.relTarget f.imm) true
/-- CALLX. -/
def execCallx (f : FmtR) (s : State) : Out :=
  issue s f.sched fun i => i.transfer f.sched (i.own (i.t.desc.regsOf f.sa)) f.dst (fun l => i.rd l f.sa) true
/-- RET. -/
def execRet (f : FmtR) (s : State) : Out :=
  issue s f.sched fun i => i.transfer f.sched (i.own (i.t.desc.regsOf f.sa)) .zero (fun l => i.rd l f.sa) true

/-! ### EXIT and YIELD -/

/-- EXIT: outstanding causes are delivered first; the active lanes then exit and leave every declared set (09 R255, R274,
04 R141). -/
def execExit (f : FmtR) (s : State) : Out :=
  issue s f.sched fun i =>
    if i.active = 0 then i.finish f.sched (some 4) []
    else
      match i.boundary true with
      | some s => s
      | none =>
        let g := (i.advance ((i.g.bump (setCtr f.sched)).due (setCtr f.sched))).modLanes i.active fun _ x =>
          { x with st := .exited, wait := none }
        (i.put g).evalPhases i.t.id i.cur.core

/-- YIELD: the issued lanes wait (05 R172). -/
def execYield (f : FmtR) (s : State) : Out :=
  issue s f.sched fun i =>
    if i.active = 0 then i.finish f.sched (some 4) []
    else i.put ((i.advance ((i.g.bump (setCtr f.sched)).due (setCtr f.sched))).await i.cur.issued fun _ => .yield)

/-! ### REGION -/

/-- Register numbers of a REGION's ranges (09 R256). -/
def Ix.regionRegs (x : Ix) (f : FmtR) : List Nat :=
  let l1 := modField f.mod 0 6
  let l2 := modField f.mod 6 5
  x.t.desc.regsFrom f.sa l1 ++ x.t.desc.regsFrom f.sb l2 ++ x.t.desc.regsFrom f.sc (32 - l1 - l2)

/-- REGION: stages the named registers; nothing but time depends on it (05 R167). -/
def execRegion (f : FmtR) (s : State) : Out :=
  issue s f.sched fun i =>
    match i.beyond (i.regionRegs f) with
    | some n => i.trap { cause := Cause.regBound, lanes := i.cur.issued, addr := 4 * n }
    | none =>
      let g := (i.advance ((i.g.bump (setCtr f.sched)).due (setCtr f.sched)))
      i.put (if i.active = 0 then g else { g with region := (i.regionRegs f).eraseDups })

/-! ### SLEEPT -/

/-- PROMISE_MISSED applies to a lane's named barrier: PTRAP is set and GEN has not moved (09 R258). -/
def Team.promiseMissed (t : Team) (b : Option (Nat × Nat)) : Bool :=
  match b with
  | none => false
  | some p => barPtrap (t.bar p.1) && barGen (t.bar p.1) == p.2 % 16

/-- The lanes of a SLEEPT are released: they go on, or take PROMISE_MISSED at it (09 R257, R258). -/
def State.releaseSleep (s : State) (id : TeamId) (grp core : Nat) (lanes : Mask) (pc t : Nat) (b : Option (Nat × Nat)) :
    State :=
  let s := s.modGroup id grp fun g => g.modLanes lanes fun _ x => x.ready
  let s := match b with | some p => s.modTeam id fun t => t.markSleep p.1 | none => s
  match s.team? id with
  | none => s
  | some u =>
    if u.promiseMissed b then
      s.takeTrap id grp core { cause := Cause.promise, lanes := lanes, addr := t } (BitVec.ofNat 64 pc) false
    else s

/-- SLEEPT. -/
def execSleept (f : FmtR) (s : State) : Out :=
  issue s f.sched fun i =>
    match i.operandTrap (i.via f.perm (i.t.desc.regsOf f.sa) ++ i.own (i.t.desc.regsOf f.sb ++ i.t.desc.regsOf f.sc)) [] with
    | some tr => i.trap tr
    | none =>
      if i.active = 0 then i.finish f.sched (some 4) []
      else
        let t := i.rdVia f.perm i.low f.sa
        let ofs := i.rd i.low f.sb
        let b := if f.sb = .zero then none else some (ofs, i.rd i.low f.sc % 16)
        match (if f.sb = .zero then none else i.t.barCause ofs) with
        | some c => i.trap { cause := c, lanes := i.active, addr := ofs }
        | none =>
          let g := (i.advance ((i.g.bump (setCtr f.sched)).due (setCtr f.sched))).await i.active fun _ =>
            .sleep i.cur.pc.toNat t b
          let s := i.put g
          if t ≤ s.gtc then s.releaseSleep i.t.id i.cur.group i.cur.core i.active i.cur.pc.toNat t b
          else match b with
            | some p => s.modTeam i.t.id fun t => t.markSleep p.1
            | none => s

/-! ### Traps and service calls -/

/-- The code of a TRAP. -/
def trapCode (f : FmtI) : Nat := bits f.imm.toNat 0 16

/-- One lane of a TRAP.svc: it waits, and its record is posted where the queue has room and no earlier lane waits for room;
the last component collects the lanes whose record cannot be placed (09 R260). -/
def Ix.postLane (x : Ix) (code d : Nat) (a : State × Bool × List Nat) (l : Nat) : State × Bool × List Nat :=
  let wait := a.1.modGroup x.t.id x.cur.group fun g => g.awaitReply (maskOf [l]) fun _ => .post x.cur.pc.toNat code d
  if !a.2.1 then (wait, false, a.2.2)
  else
    match a.1.postSvc x.t.id x.cur.group l x.cur.pc.toNat code d with
    | .posted s => (s, s.svcClear x.t.id.lci, a.2.2)
    | .wait => (wait, false, a.2.2)
    | .fail => (a.1, true, a.2.2 ++ [l])

/-- The register number of a d operand. -/
def dNum (o : Opd) : Nat := match o with | .d n => n.toNat | _ => 0

/-- TRAP.svc: one record for each active lane, in lane order; the lanes wait (09 R260). -/
def execTrapSvc (f : FmtI) (s : State) : Out :=
  issue s f.sched fun i =>
    match i.operandTrap (i.own (i.t.desc.regsFrom f.sa 4)) [] with
    | some tr => i.trap tr
    | none =>
      if i.active = 0 then i.finish f.sched (some 4) []
      else
        let on := match i.s.chip? i.t.id.lci with | some c => c.svc.reqOn | none => false
        if !on then i.trap { cause := Cause.access, lanes := i.active, addr := trapCode f }
        else
          let s := i.put (i.advance ((i.g.bump (setCtr f.sched)).due (setCtr f.sched)))
          let r := (lanesOf i.active).foldl (i.postLane (trapCode f) (dNum f.sa)) (s, i.s.svcClear i.t.id.lci, [])
          if r.2.2.isEmpty then r.1
          else r.1.takeTrap i.t.id i.cur.group i.cur.core
            { cause := Cause.access, lanes := maskOf r.2.2, addr := trapCode f } i.cur.pc false

/-- TRAP.bkpt: stops the team under a debugger, and is a trap otherwise (09 R259, 17 R442). -/
def execTrapBkpt (f : FmtI) (s : State) : Out :=
  issue s f.sched fun i =>
    if i.active = 0 then i.finish f.sched (some 4) []
    else if i.s.attached i.t.id.lci then
      let s := (i.s.trigger i.t.id 2 i.cur.pc.toNat (some i.cur.group) 0 0).modTeam i.t.id fun t =>
        { t with dbg := { t.dbg with bkpts := i.cur.group :: t.dbg.bkpts.filter fun g => g != i.cur.group } }
      (i.withState s).hold
    else i.trap { cause := Cause.bkpt, lanes := i.active, addr := trapCode f }

/-- TRAP.sys (09 R259). -/
def execTrapSys (f : FmtI) (s : State) : Out :=
  issue s f.sched fun i =>
    if i.active = 0 then i.finish f.sched (some 4) []
    else i.trap { cause := Cause.svc, lanes := i.active, addr := trapCode f }

/-- RTT: leaves handler mode; a target that software wrote is checked (09 R262). -/
def execRtt (f : FmtR) (s : State) : Out :=
  issue s f.sched fun i =>
    if i.active = 0 then i.finish f.sched (some 4) []
    else if !i.g.trap.handler then
      i.trap { cause := Cause.illegalOp, lanes := i.active, addr := i.cur.line.toNat }
    else
      let tgt := i.rttTarget (modBit f.mod 0)
      let chk := if i.g.trap.tpcWritten then i.s.checkTarget i.cur.core i.t.id.lci tgt else .ok i.s
      match chk with
      | .bad _ c s => (i.withState s).trap { cause := c, lanes := i.g.trap.tlanes, addr := tgt }
      | .ok s =>
        let y := i.withState s
        y.put ((y.advance ((y.g.bump (setCtr f.sched)).due (setCtr f.sched))).leave (BitVec.ofNat 64 tgt))

end Sys2Proof.Machine
end

