-- ==== Sys2Proof/Machine/Tags.lean ====
section
/-! DEFINITION. The tag table and the window instructions (03 R98 to R103, 10 R300 to R303). -/

namespace Sys2Proof.Machine

/-! ### Tag entries, Table 3.5 -/

/-- Entries of a team's partition (03 R98). -/
def Team.tagCount (t : Team) : Nat := min 1024 (roundUp t.desc.tags 8)
/-- KEY of an entry. -/
def tagKey (e : DWord) : Nat := bits e.toNat 14 50
/-- V of an entry. -/
def tagV (e : DWord) : Bool := e.getLsbD 13
/-- SLOT of an entry. -/
def tagSlot (e : DWord) : Nat := bits e.toNat 0 12
/-- A valid entry. -/
def tagEntry (key slot : Nat) : DWord := BitVec.ofNat 64 (field key 14 50 + 2 ^ 13 + slot % 4096)

/-- The set of a key (03 R99). -/
def Team.tagSet (t : Team) (k : Nat) : Nat :=
  let key := bits k 7 50
  Nat.xor key (key / 2 ^ 13) % (t.tagCount / 8)

/-- Entry `w` of a set. -/
def Team.tagAt (t : Team) (set w : Nat) : DWord := smGet 0 t.tags (8 * set + w)
/-- Replaces entry `w` of a set. -/
def Team.putTag (t : Team) (set w : Nat) (e : DWord) : Team := { t with tags := smSet 0 t.tags (8 * set + w) e }

/-- The way that holds a key. -/
def Team.tagWay (t : Team) (k : Nat) : Option Nat :=
  (List.range 8).find? fun w => tagV (t.tagAt (t.tagSet k) w) && tagKey (t.tagAt (t.tagSet k) w) == bits k 7 50

/-- The byte offset that an entry gives for a key. -/
def tagOffset (e : DWord) (k : Nat) : Nat := tagSlot e * 128 + bits k 0 7

/-- A lookup: the byte offset, or all ones. -/
def Team.tagLookup (t : Team) (k : Nat) : Nat :=
  match t.tagWay k with
  | some w => tagOffset (t.tagAt (t.tagSet k) w) k
  | none => 0xFFFFFFFF

/-- An insertion, with the displaced entry or 0 (03 R99). -/
def Team.tagInsert (t : Team) (k slot : Nat) : Team × Nat :=
  let set := t.tagSet k
  let e := tagEntry (bits k 7 50) slot
  match t.tagWay k with
  | some w => (t.putTag set w e, 0)
  | none =>
    match (List.range 8).find? fun w => !tagV (t.tagAt set w) with
    | some w => (t.putTag set w e, 0)
    | none =>
      let w := smGet 0 t.tagRR set % 8
      ({ t.putTag set w e with tagRR := smSet 0 t.tagRR set ((w + 1) % 8) }, (t.tagAt set w).toNat)

/-- A removal, with the former byte offset or all ones: V is cleared. -/
def Team.tagRemove (t : Team) (k : Nat) : Team × Nat :=
  match t.tagWay k with
  | some w =>
    let e := t.tagAt (t.tagSet k) w
    (t.putTag (t.tagSet k) w (e &&& ~~~ BitVec.ofNat 64 (2 ^ 13)), tagOffset e k)
  | none => (t, 0xFFFFFFFF)

/-- A tag instruction: one lane at a time, in increasing lane number (10 R301). -/
def Ix.onTags (x : Ix) (f : FmtR) (go : Team → Nat → Nat → Team × Nat) : State :=
  match x.operandTrap (x.sources { dst := f.dst, a := some f.sa, perm := f.perm, b := some f.sb, c := none })
      (x.t.desc.regsOf f.dst) with
  | some tr => x.trap tr
  | none =>
    if x.active = 0 then x.finish f.sched none []
    else if x.t.tagCount = 0 then x.trap { cause := Cause.access, lanes := x.active, addr := 0xFFFFFFFF }
    else
      let r := (lanesOf x.active).foldl (fun (a : Team × List Wr) l =>
        let v := go a.1 (x.rd (f.perm.from l) f.sa % 2 ^ 57) (x.rd l f.sb)
        (v.1, a.2 ++ x.dst l f.dst v.2)) (x.t, [])
      (x.withTeam r.1).finish f.sched none r.2

/-- STAGL. -/
def execStagl (f : FmtR) (s : State) : Out := issue s f.sched fun i => i.onTags f fun t k _ => (t, t.tagLookup k)
/-- STAGI. -/
def execStagi (f : FmtR) (s : State) : Out := issue s f.sched fun i => i.onTags f fun t k b => t.tagInsert k (b % 4096)
/-- STAGX. -/
def execStagx (f : FmtR) (s : State) : Out := issue s f.sched fun i => i.onTags f fun t k _ => t.tagRemove k

/-! ### Windows -/

/-- Sets OPEN of `n` windows from number `k`; a close leaves held ones open. -/
def Team.setOpen (t : Team) (k n : Nat) (isOpen : Bool) : Team :=
  (List.range n).foldl (fun t i =>
    let w := t.window (128 * (k + i))
    t.setWindow (k + i) { w with isOpen := isOpen || w.held }) t

/-- Held windows among `n` from number `k`. -/
def Team.heldCount (t : Team) (k n : Nat) : Nat := ((List.range n).filter fun i => (t.window (128 * (k + i))).held).length

/-- SWOPEN: a release of cluster scope. -/
def execSwopen (f : FmtR) (s : State) : Out :=
  issue s f.sched fun i =>
    match i.operandTrap (i.via f.perm (i.t.desc.regsOf f.sa) ++ i.own (i.t.desc.regsOf f.sb)) (i.t.desc.regsOf f.dst) with
    | some tr => i.trap tr
    | none =>
      if i.active = 0 then i.finish f.sched none []
      else
        let a := i.rdVia f.perm i.low f.sa
        let n := i.rd i.low f.sb
        let tr := fun (c : Nat) => i.trap { cause := c, lanes := i.active, addr := a }
        if n != 0 && decide (i.t.spadSize < a + 128 * n) then tr Cause.access
        else if n != 0 && a % 128 != 0 then tr Cause.misaligned
        else
          match i.awaitRel .cluster with
          | some s => s
          | none =>
            let isOpen := modBit f.mod 0
            let left := if isOpen then 0 else i.t.heldCount (a / 128) n
            let y := i.withTeam (i.t.setOpen (a / 128) n isOpen)
            y.finish f.sched none ((lanesOf y.active).flatMap fun l => y.dst l f.dst left)

/-- The window that an instruction names: its team and number (R21). -/
def Ix.onWindow (x : Ix) (f : FmtR) (k : Team → Nat → State) : State :=
  match x.operandTrap (x.via f.perm (x.t.desc.regsOf f.sa)) [] with
  | some tr => x.trap tr
  | none =>
    if x.active = 0 then x.finish f.sched none []
    else
      match x.s.spadAt x.t true (x.rdVia f.perm x.low f.sa) 1 with
      | none => x.trap { cause := Cause.access, lanes := x.active, addr := x.rdVia f.perm x.low f.sa }
      | some p => k p.1 (p.2 / 128)

/-- A claim or release that ends: the window and the predicate. -/
def Ix.windowDone (x : Ix) (f : FmtR) (owner : Team) (k : Nat) (w : Option Window) : State :=
  let s := match w with
    | some w => x.s.modTeam owner.id fun u => u.setWindow k w
    | none => x.s
  let y := x.withState s
  y.finish f.sched none ((lanesOf y.active).flatMap fun l => y.dst l f.dst (if w.isSome then 1 else 0))

/-- SWCLAIM: an acquire of cluster scope. -/
def execSwclaim (f : FmtR) (s : State) : Out :=
  issue s f.sched fun i => i.onWindow f fun o k =>
    let w := o.window (128 * k)
    if w.isOpen && !w.held then
      if i.s.readsDone i.t.id i.cur.group then i.windowDone f o k (some { w with held := true, hrank := i.t.gangRank })
      else i.hold
    else i.windowDone f o k none

/-- SWREL: a release of cluster scope. -/
def execSwrel (f : FmtR) (s : State) : Out :=
  issue s f.sched fun i => i.onWindow f fun o k =>
    let w := o.window (128 * k)
    if w.held && w.hrank == i.t.gangRank then
      match i.awaitRel .cluster with
      | some s => s
      | none => i.windowDone f o k (some { w with held := false, hrank := 0 })
    else i.windowDone f o k none

end Sys2Proof.Machine
end

