-- ==== Sys2Proof/Machine/Smoves.lean ====
section
/-! DEFINITION. SMOVE and its two events: range-permission entries, acceptance and end (03 R105 to R108, 10 R304, R305). -/

namespace Sys2Proof.Machine

/-- Range-permission entries in use on a core (03 R105). -/
def State.rangesUsed (s : State) (core : Nat) : Nat :=
  ((s.teams.filter fun t => t.spadCore? == some core).map fun t => t.ranges.length).sum

/-- A named barrier of an SMOVE; all ones is none. -/
def smoveBar (x : Nat) : Option Nat := if x = 0xFFFFFFFF then none else some x

/-- The issue checks of R304, in order. -/
def Ix.smoveTrap (x : Ix) (a b c : Nat) : Option (Nat × Nat) :=
  let hi := c / 2 ^ 32
  let len := bits hi 12 12
  let ao := a % 2 ^ 32
  let bo := b % 2 ^ 32
  let bar := smoveBar (a / 2 ^ 32)
  if len = 0 || 2560 < len || bits hi 24 8 ≠ 0 then some (Cause.access, hi)
  else if ao % 128 ≠ 0 then some (Cause.misaligned, ao)
  else if bo % 128 ≠ 0 then some (Cause.misaligned, bo)
  else if (match bar with | some o => !x.t.bars.contains o | none => false) then some (Cause.access, a / 2 ^ 32)
  else if x.t.spadSize < ao + 128 * len || !x.t.rightsOk ao (128 * len) then some (Cause.spadRights, ao)
  else if 64 ≤ x.s.rangesUsed x.cur.core then some (Cause.spadRights, 0xFFFFFFFF)
  else
    match x.s.chip? x.t.id.lci with
    | none => some (Cause.access, placeAddr placeCore (bits hi 0 12))
    | some ch =>
      match ch.place placeCore x.cur.core (bits hi 0 12) with
      | none => some (Cause.access, placeAddr placeCore (bits hi 0 12))
      | some _ => none

/-- SMOVE: the OUTBOUND entry and the request (Table 3.8 step 1). -/
def execSmove (f : FmtR) (s : State) : Out :=
  issue s f.sched fun i =>
    match i.operandTrap (i.own (i.t.desc.regsOf f.sa ++ i.t.desc.regsOf f.sb ++ i.t.desc.regsOf f.sc))
        (i.t.desc.regsOf f.dst) with
    | some tr => i.trap tr
    | none =>
      if i.active = 0 then i.finish f.sched none []
      else
        let a := i.rd i.low f.sa
        let b := i.rd i.low f.sb
        let c := i.rd i.low f.sc
        match i.smoveTrap a b c with
        | some p => i.trap { cause := p.1, lanes := i.active, addr := p.2 }
        | none =>
          let hi := c / 2 ^ 32
          let core := ((i.s.chip? i.t.id.lci).bind fun ch => ch.place placeCore i.cur.core (bits hi 0 12)).getD 0
          let r := i.s.fresh
          let mv : Smove := {
            id := r.1, src := i.t.id, group := i.cur.group, dst := { i.t.id with index := c % 2 ^ 32 }, core := core,
            a := a % 2 ^ 32, b := b % 2 ^ 32, len := bits hi 12 12, sbar := smoveBar (a / 2 ^ 32),
            rbar := smoveBar (b / 2 ^ 32), accepted := false, ctr := setCtr f.sched, stDst := f.dst, active := i.active }
          let t := { i.t with ranges := i.t.ranges ++ [{ state := 3, base := mv.a / 128, len := mv.len, mv := some mv.id }] }
          let ws := (lanesOf i.active).flatMap fun l => i.dst l f.dst 0
          let y := Ix.withTeam { i with s := r.2.modTraffic fun x => { x with smoves := x.smoves ++ [mv] } } t
          y.put (y.advance ((y.g.reserve ws (y.cover f.sched none) mv.id y.cur.first).bump (setCtr f.sched)))

/-- The transfer of a number. -/
def State.smove? (s : State) (id : Nat) : Option Smove := s.traffic.smoves.find? fun m => m.id == id

/-- Writes the status of an SMOVE in its active lanes and lets its counter drop. -/
def State.smoveStatus (s : State) (m : Smove) (v : Nat) : State :=
  match s.team? m.src with
  | none => s
  | some t =>
    let ws := (lanesOf m.active).flatMap fun l =>
      (t.desc.regsOf m.stDst).map fun n => ({ lane := l, key := n, val := BitVec.ofNat 32 v } : Wr)
    s.landGroup m.src m.group fun g => (g.land ws m.id).due m.ctr

/-- An entry covers part of a run of 128-byte units. -/
def RangeEnt.meets (r : RangeEnt) (base len : Nat) : Bool := decide (r.base < base + len) && decide (base < r.base + r.len)

/-- What remains of an entry outside a run. -/
def RangeEnt.cut (r : RangeEnt) (base len : Nat) : List RangeEnt :=
  if r.meets base len then
    (if r.base < base then [{ r with len := base - r.base }] else []) ++
      (if base + len < r.base + r.len then [{ r with base := base + len, len := r.base + r.len - (base + len) }] else [])
  else [r]

/-- The receiver's entries after acceptance (Table 3.8 step 2). -/
def acceptRanges (l : List RangeEnt) (m : Smove) : List RangeEnt :=
  (l.flatMap fun r => if r.state = 1 then r.cut (m.b / 128) m.len else [r]) ++
    [{ state := 2, base := m.b / 128, len := m.len, mv := some m.id }]

/-- The status with which the receiver answers: 0 accepts (10 R304, Table 3.8). -/
def State.smoveAnswer (s : State) (m : Smove) : Nat :=
  match s.team? m.dst, s.team? m.src with
  | some u, some t =>
    let same := t.spadCore?.map dieOf == some (dieOf m.core)
    let bar := match m.rbar with | some o => u.bars.contains o | none => true
    if !same || m.dst.index == m.src.index || u.core? != some m.core || u.ended || u.stopping || !bar then 1
    else if u.spadSize < m.b + 128 * m.len || u.ranges.any (fun r => r.state != 1 && r.meets (m.b / 128) m.len) then 2
    else
      let used := s.rangesUsed m.core
      if 64 ≤ used || 64 < used - u.ranges.length + (acceptRanges u.ranges m).length then 3 else 0
  | some _, none => 1
  | none, _ => 1

/-- Two adjacent REVOKED runs. -/
def RangeEnt.abuts (a b : RangeEnt) : Bool := a.state == 1 && b.state == 1 && a.base + a.len == b.base

/-- Adds a REVOKED run, merged with what it touches (Table 3.8). -/
def addRevoked (l : List RangeEnt) (base len : Nat) : List RangeEnt :=
  let r : RangeEnt := { state := 1, base := base, len := len, mv := none }
  let r1 := match l.find? fun x => x.abuts r with
    | some x => { r with base := x.base, len := x.len + r.len }
    | none => r
  let r2 := match l.find? fun x => r.abuts x with
    | some x => { r1 with len := r1.len + x.len }
    | none => r1
  (l.filter fun x => !(x.abuts r || r.abuts x)) ++ [r2]

/-- A count at an optional barrier of a team. -/
def State.countAt (s : State) (id : TeamId) (bar : Option Nat) (u w : Int) : State :=
  match bar with
  | some o => (s.engineCount id o 0 u w).1
  | none => s

/-- SMOVE_ACCEPTANCE. -/
def execSmoveAcceptance (mv : Nat) (s : State) : Out :=
  .next (match s.smove? mv with
  | none => s
  | some m =>
    if m.accepted then s
    else
      let v := s.smoveAnswer m
      let s := s.smoveStatus m v
      if v = 0 then
        let s := s.modTeam m.dst fun u => { u with ranges := acceptRanges u.ranges m }
        let s := s.modTraffic fun x => { x with smoves := x.smoves.map fun n =>
          if n.id == mv then { n with accepted := true } else n }
        s.countAt m.src m.sbar 0 (8 * m.len : Nat)
      else
        let s := s.modTeam m.src fun t => { t with ranges := t.ranges.filter fun r => r.mv != some mv }
        s.modTraffic fun x => { x with smoves := x.smoves.filter fun n => n.id != mv })

/-- Units of 128 bytes of a transfer that have been read. -/
def Smove.got (m : Smove) : Nat := m.bytes.length / 128

/-- A transfer with its record replaced. -/
def State.putSmove (s : State) (m : Smove) : State :=
  s.modTraffic fun x => { x with smoves := x.smoves.map fun n => if n.id == m.id then m else n }

/-- The next `n` units of a transfer are read: the sender's barrier counts OUTBOUND down by them, and the sender's entry stays
OUTBOUND (10 R305, Table 3.8 step 3). -/
def State.smovePull (s : State) (m : Smove) (n : Nat) : State :=
  let k := min n (m.len - m.got)
  let data := match s.team? m.src with | some t => t.spadRead (m.a + 128 * m.got) (128 * k) | none => List.replicate (128 * k) 0
  let marks := match s.team? m.src with
    | some t => ((List.range (128 * k)).filter fun j => t.spadBad (m.a + 128 * m.got + j) 1).map fun j => 128 * m.got + j
    | none => []
  (s.putSmove { m with bytes := m.bytes ++ data, marks := m.marks ++ marks }).countAt m.src m.sbar 0 (-(8 * k : Nat))

/-- The next `n` units that have been read land: the receiver's barrier counts INBOUND down by them, and the receiver's entry
stays INBOUND (Table 3.8 step 3). -/
def State.smovePush (s : State) (m : Smove) (n : Nat) : State :=
  let k := min n (m.got - m.landed)
  let at_ := m.b + 128 * m.landed
  let data := (m.bytes.drop (128 * m.landed)).take (128 * k)
  let s := s.putSmove { m with landed := m.landed + k }
  let spoil := fun (u : Team) => (m.marks.filter fun j => decide (128 * m.landed ≤ j) && decide (j < 128 * (m.landed + k))).foldl
    (fun (u : Team) j => u.spadSpoil (m.b + j) ((m.bytes.drop j).take 1)) u
  let s := match s.team? m.dst with
    | some u => if k = 0 then s
      else (s.modTeam m.dst fun u => spoil (u.spadWrite at_ data)).watchAccess u .store 2 at_ (128 * k)
    | none => s
  s.countAt m.dst m.rbar (-(8 * k : Nat)) 0

/-- Step 3 of a transfer by number, once it has been accepted: units are read, or land. -/
def State.smoveStep (s : State) (mv n : Nat) (land : Bool) : State :=
  match s.smove? mv with
  | none => s
  | some m => if !m.accepted then s else if land then s.smovePush m n else s.smovePull m n

/-- The rights after a transfer has ended (Table 3.8 step 4). -/
def State.smoveRights (s : State) (m : Smove) : State :=
  let s := s.modTeam m.src fun t =>
    { t with ranges := addRevoked (t.ranges.filter fun r => !(r.mv == some m.id && r.state == 3)) (m.a / 128) m.len }
  s.modTeam m.dst fun u =>
    { u with ranges := u.ranges.filter fun r => !(r.mv == some m.id && r.state == 2) }

/-- SMOVE_END: what of the transfer is left is read and lands, and it ends. -/
def execSmoveEnd (mv : Nat) (s : State) : Out :=
  .next (match s.smove? mv with
  | none => s
  | some m =>
    if !m.accepted then s
    else
      let s := (s.smoveStep mv m.len false).smoveStep mv m.len true
      (s.smoveRights m).modTraffic fun x => { x with smoves := x.smoves.filter fun n => n.id != mv })

/-- WINDOW_BARRIER_UPDATE: a posted arrival is applied at the owner, in the order of its sender (09 R269). -/
def execWindowBarrierUpdate (upd : Nat) (s : State) : Out :=
  .next (match s.traffic.barUpds.find? fun u => u.id == upd with
  | none => s
  | some u =>
    if s.traffic.barUpds.any fun v => v.team == u.team && v.sender == u.sender && v.sgroup == u.sgroup && decide (v.id < u.id)
    then s
    else
      let s := s.modTraffic fun x => { x with barUpds := x.barUpds.filter fun v => v.id != upd }
      match s.team? u.team with
      | none => s
      | some t =>
        if t.bars.contains u.ofs then
          let s := s.watchAccess t .atomic 1 u.ofs 16
          (s.barUpdate u.team u.ofs u.n u.u 0).1
        else s)

end Sys2Proof.Machine
end

