-- ==== Sys2Proof/Machine/Hw.lean ====
section
/-! DEFINITION. Reads and writes by hardware and firmware: issuer addresses (18 R456, 02 R493), virtual addresses of a chip,
and lines whose home is another module (01 R28, 04 R155). -/

namespace Sys2Proof.Machine

/-! ### Issuer addresses -/

/-- Module physical address of a PCIe address (Table 1.6). -/
def hostMpa (a : Nat) : Nat := 2 ^ 50 + a % 2 ^ 50

/-- Where an issuer address lies: PCIe for the PF, the chip's own slot through stage 2 for a VF. -/
def State.issuerAt (s : State) (fn : Fn) (a : Nat) (write : Bool) : RingReach :=
  match fn with
  | .pf => if a < 2 ^ 50 then .at_ (hostMpa a) .rc else .fail
  | .vf lci => s.reach lci.toNat a write

/-- The outcome of an issuer read: bytes, or the address whose page is not resident. -/
inductive IssuerRead where
  | bytes (l : List Byte)
  | nonres (addr level : Nat)
  | fail
  deriving DecidableEq, Repr

/-- Reads `n` bytes at an issuer address, page by page; `k` bounds the pages. Poisoned bytes count as FAIL (log 70). -/
def State.issuerGo (s : State) (fn : Fn) : Nat → Nat → Nat → IssuerRead
  | 0, _, _ => .bytes []
  | k + 1, a, n =>
    if n = 0 then .bytes []
    else
      let m := min n (4096 - a % 4096)
      match s.issuerAt fn a false with
      | .fail => .fail
      | .nonres level => .nonres a level
      | .at_ mpa cls =>
        let l := match fn with | .pf => s.memBytes mpa m | .vf lci => s.peek lci.toNat mpa m cls
        let bad := match fn with | .pf => false | .vf lci => s.peekBad lci.toNat mpa m
        if bad then .fail
        else match s.issuerGo fn k (a + m) (n - m) with
        | .bytes r => .bytes (l ++ r)
        | .nonres b level => .nonres b level
        | .fail => .fail

/-- Reads `n` bytes at an issuer address. -/
def State.issuerRead (s : State) (fn : Fn) (a n : Nat) : IssuerRead := s.issuerGo fn (n / 4096 + 2) a n

/-- Writes bytes at a module physical address for a function. -/
def State.issuerPoke (s : State) (fn : Fn) (mpa : Nat) (cls : Cls) (l : List Byte) : State :=
  match fn with
  | .pf => s.memWrite mpa l
  | .vf lci => s.poke lci.toNat mpa l cls

/-- Whether a run at an issuer address can be written: `none` when it can, and otherwise why not. -/
def State.issuerBlock (s : State) (fn : Fn) : Nat → Nat → Nat → Option IssuerRead
  | 0, _, _ => none
  | k + 1, a, n =>
    if n = 0 then none
    else
      let m := min n (4096 - a % 4096)
      match s.issuerAt fn a true with
      | .fail => some .fail
      | .nonres level => some (.nonres a level)
      | .at_ _ _ => s.issuerBlock fn k (a + m) (n - m)

/-- Writes bytes at an issuer address, page by page; pages that cannot be reached are left. -/
def State.issuerWriteGo (fn : Fn) : Nat → State → Nat → List Byte → State
  | 0, s, _, _ => s
  | k + 1, s, a, l =>
    if l.isEmpty then s
    else
      let m := min l.length (4096 - a % 4096)
      let s := match s.issuerAt fn a true with
        | .at_ mpa cls => s.issuerPoke fn mpa cls (l.take m)
        | .nonres _ => s
        | .fail => s
      State.issuerWriteGo fn k s (a + m) (l.drop m)

/-- Writes bytes at an issuer address. -/
def State.issuerWrite (s : State) (fn : Fn) (a : Nat) (l : List Byte) : State :=
  State.issuerWriteGo fn (l.length / 4096 + 2) s a l

/-! ### Lines of other modules -/

/-- The agent of hardware that acts for a chip: no team. -/
def hwAgent (pchip : Nat) : Agent := { pchip := pchip, die := 0, clus := 0, core := 0, launch := 0, team := 0 }

/-- The parts of a run of bytes that lie in one line each: address and length; `k` bounds the lines. -/
def lineParts : Nat → Nat → Nat → List (Nat × Nat)
  | 0, _, _ => []
  | k + 1, a, n =>
    if n = 0 then []
    else (a, min n (128 - a % 128)) :: lineParts k (a + min n (128 - a % 128)) (n - min n (128 - a % 128))

/-- The parts of a run. -/
def partsOf (a n : Nat) : List (Nat × Nat) := lineParts (n / 128 + 2) a n

/-- Queues one remote transaction of hardware; `data` is what a store writes or an atomic's operand. -/
def State.hwSend (s : State) (lci owner key : Nat) (agent : Agent) (team : Option TeamId) (cls : Cls) (s2cls : Bool)
    (scope : Scope) (pod len idx : Nat) (kind : TxnKind) (data : List Byte) (pull : Option (Nat × Nat) := none) : State :=
  let r := s.fresh
  let m := r.2.newMsgid
  let s := { r.2 with free := s.free + 1 }
  let t : Txn := {
    id := r.1, acc := none, team := team, group := 0, core := 0,
    kind := kind, home := .remote (pod / 128 * 128), cls := cls,
    s2cls := s2cls, scope := scope, sync := false, lease := 0, install := false,
    lanes := [{ lane := idx, addr := pod, bytes := len, data := data, ea := pod }], agent := agent,
    contribs := [], msgid := m, member := none, pull := pull }
  let s := s.modTraffic fun x => { x with
    txns := x.txns ++ [t]
    fetches := x.fetches ++ [{ owner := owner, key := key, txn := r.1, ans := none, time := 0 }] }
  s.sendTxn lci t

/-- Queues one remote load or store of hardware: `data` for a store, none for a load. -/
def State.hwTxn (s : State) (lci owner key : Nat) (agent : Agent) (team : Option TeamId) (cls : Cls) (s2cls : Bool)
    (scope : Scope) (pod len idx : Nat) (data : Option (List Byte)) (pull : Option (Nat × Nat) := none) : State :=
  s.hwSend lci owner key agent team cls s2cls scope pod len idx
    (match data with | some _ => .store | none => .load) (data.getD []) pull

/-- Requests a run of bytes of a remote home. -/
def State.hwLoad (s : State) (lci owner key : Nat) (agent : Agent) (team : Option TeamId) (cls : Cls) (s2cls : Bool)
    (pod n : Nat) : State :=
  (partsOf pod n).zipIdx.foldl (fun s p =>
    s.hwTxn lci owner key agent team cls s2cls .device p.1.1 p.1.2 p.2 none) s

/-- Stores a run of bytes to a remote home. -/
def State.hwStore (s : State) (lci owner key : Nat) (agent : Agent) (team : Option TeamId) (cls : Cls) (s2cls : Bool)
    (pod : Nat) (l : List Byte) : State :=
  (partsOf pod l.length).zipIdx.foldl (fun s p =>
    s.hwTxn lci owner key agent team cls s2cls .device p.1.1 p.1.2 p.2
      (some ((l.drop (p.1.1 - pod)).take p.1.2))) s

/-- The fetches of an owner under a key. -/
def State.fetchesOf (s : State) (owner key : Nat) : List Fetch :=
  s.traffic.fetches.filter fun f => f.owner == owner && f.key == key

/-- Forgets the fetches of an owner under a key. -/
def State.dropFetches (s : State) (owner key : Nat) : State :=
  s.modTraffic fun x => { x with fetches := x.fetches.filter fun f => !(f.owner == owner && f.key == key) }

/-- Every fetch has been answered. -/
def fetchesDone (l : List Fetch) : Bool := l.all fun f => f.ans.isSome
/-- The data of answered fetches, in order of issue. -/
def fetchBytes (l : List Fetch) : List Byte := (l.map fun f => ((f.ans.getD []).map LaneAns.data).flatten).flatten
/-- The first cause that a fetch returned. -/
def fetchCause (l : List Fetch) : Option (Nat × Nat) := l.findSome? fun f => (f.ans.getD []).findSome? LaneAns.cause
/-- Every lane of every fetch is valid. -/
def fetchValid (l : List Fetch) : Bool := l.all fun f => (f.ans.getD []).all LaneAns.valid

/-! ### Virtual addresses -/

/-- The outcome of a read at a virtual address of a chip. -/
inductive HwRead where
  | bytes (l : List Byte) (s : State)
  | waits (s : State)
  | nonres
  | fail (cause : Nat) (s : State)
  deriving DecidableEq, Repr

/-- Every line of a run serves reads of its class now (04 R121, R143). -/
def State.runReady (s : State) (lci mpa n : Nat) (cls : Cls) : Bool :=
  (partsOf mpa n).all fun p => s.readReady lci (p.1 / 128) cls && !s.shootHolds lci p.1 cls

/-- Some line of a run is resident under another class (04 R140). -/
def State.runAliased (s : State) (lci mpa n : Nat) (cls : Cls) : Bool :=
  (partsOf mpa n).any fun p => match s.bankLine? lci (p.1 / 128) with | some b => b.cls != cls | none => false

/-- Why a run cannot be read at its bank: another class, poison (04 R140, 03 R113). -/
def State.runCause (s : State) (lci mpa n : Nat) (cls : Cls) : Option Nat :=
  if s.runAliased lci mpa n cls then some Cause.classAlias
  else if s.peekBad lci mpa n then some Cause.poison
  else none

/-- Reads a run within one page at a VA with acquire order at device scope, for a queue or an engine (12 R341, 13 R360). A
table page that stage 2 does not map is reported (02 R54). -/
def State.hwRead (s : State) (lci owner key va n : Nat) : HwRead :=
  match s.xlateWalk lci false va .read with
  | .fail c tb => .fail c (s.noteTable lci tb)
  | .nonres _ _ _ => .nonres
  | .here t mpa =>
    let home := match t.home with | .here h _ => h | .remote _ => lci
    if !s.runReady home mpa n t.cls then .waits s
    else
      (match s.runCause home mpa n t.cls with
       | some c => .fail c s
       | none => .bytes (s.peek home mpa n t.cls) s)
  | .remote t pod =>
    let f := s.fetchesOf owner key
    let pchip := match s.chip? lci with | some c => c.ident.pchip | none => 0
    if f.isEmpty then .waits (s.hwLoad lci owner key (hwAgent pchip) none t.cls t.s2cls pod n)
    else if !fetchesDone f then .waits s
    else
      match fetchCause f with
      | some c => .fail c.1 (s.dropFetches owner key)
      | none => if fetchValid f then .bytes (fetchBytes f) (s.dropFetches owner key) else .nonres

end Sys2Proof.Machine
end

