-- ==== Sys2Proof/Machine/Launch.lean ====
section
/-! DEFINITION. Launches: launch records and kernel descriptors, LAUNCH, LAUNCH_ACCEPTANCE and the acceptance that a LAUNCH
packet shares (13 R359 to R363, R365, 09 R276). -/

namespace Sys2Proof.Machine

/-! ### Descriptors (Tables 13.2, 13.3, R363) -/

/-- Role `k` of a descriptor as a number. -/
def roleBits (d k : Nat) : Nat := bits d (512 + 128 * k) 128
/-- Roles of a descriptor. -/
def descRoles (d : Nat) : Nat := bits d 12 2 + 1

/-- A role entry. -/
def roleOf (r : Nat) : Role :=
  { rprio := bits r 82 2, nregs := bits r 73 9, groups := bits r 64 6, entry := BitVec.ofNat 64 (bits r 0 64) }

/-- A kernel descriptor. -/
def descOf (d : Nat) : Desc :=
  { roles := (List.range (descRoles d)).map fun k => roleOf (roleBits d k), param := BitVec.ofNat 64 (bits d 448 64),
    trapv := BitVec.ofNat 64 (bits d 384 64), vwa := bits d 320 32, vwt := bits d 288 32, vwv := bits d 256 32,
    tags := bits d 224 16, bars := bits d 208 16, acc := bits d 192 16, spad := ceilDiv (bits d 160 32) 1024,
    gx := bits d 64 32, gy := bits d 96 32, gz := bits d 128 32, seed := BitVec.ofNat 32 (bits d 32 32),
    prio := bits d 16 4, gang := bits d 14 2 + 1, fpg := bits d 10 1 == 1, chk := bits d 9 1 == 1, priv := bits d 8 1 == 1 }

/-- A PC that a descriptor may hold. -/
def pcFits (pc : Nat) : Bool := bits pc 57 7 == 0 && decide (bits pc 0 6 ≤ 4)

/-- A role entry that R363 accepts. -/
def roleOk (r : Nat) : Bool :=
  bits r 84 44 == 0 && bits r 70 3 == 0 && decide (1 ≤ bits r 64 6) && decide (bits r 64 6 ≤ 32) &&
    decide (1 ≤ bits r 73 9) && decide (bits r 73 9 ≤ 256) && pcFits (bits r 0 64)

/-- A descriptor that R363 accepts. -/
def descValid (d : Nat) : Bool :=
  let x := descOf d
  bits d 0 8 == 1 && bits d 1024 1024 == 0 && bits d 352 32 == 0 && bits d 240 16 == 0 && bits d 20 12 == 0 &&
    bits d 11 1 == 0 &&
    ((List.range 4).all fun k => if k < descRoles d then roleOk (roleBits d k) else roleBits d k == 0) &&
    x.vwv % 4 == 0 && decide (x.vwv ≤ 0x3FC) && x.vwt % 4 == 0 && decide (x.vwt ≤ 0x3FC) &&
    decide (0x10000 ≤ x.vwa) && (x.vwa - 0x10000) % 16384 == 0 && decide ((x.vwa - 0x10000) / 16384 ≤ 31) &&
    decide (x.groupCount ≤ 32) && decide (((x.roles.map fun r => r.groups * ceilDiv r.nregs 8).sum) ≤ 512) &&
    x.gx != 0 && x.gy != 0 && x.gz != 0 && decide (x.gx * x.gy * x.gz ≤ 2 ^ 32) &&
    decide (bits d 160 32 ≤ 327680) && decide (x.acc ≤ 32) && decide (x.bars ≤ 256) && decide (x.tags ≤ 1024) &&
    (x.trapv == 0 || pcFits x.trapv.toNat)

/-- Teams of a grid. -/
def Desc.teamCount (d : Desc) : Nat := d.gx * d.gy * d.gz

/-! ### Launch records (Table 13.1) -/

/-- A launch record that breaks no rule of R359. -/
def recordOk (r : Nat) : Bool :=
  bits r 192 320 == 0 && bits r 130 30 == 0 && bits r 57 7 == 0 && bits r 0 8 == 0 && bits r 64 6 == 0 && bits r 121 7 == 0

/-- The outcome of an acceptance. -/
inductive Accepted where
  | waits (s : State)
  | refused (why : Nat) (s : State)
  | ok (handle : Nat) (s : State)
  deriving DecidableEq, Repr

/-- Launch handles in use on a chip: of grids not ended and of teams that still exist (04 R117). -/
def State.handlesUsed (s : State) (c : Chip) (lci : Nat) : List Nat :=
  ((c.disp.queues ++ c.disp.pfQueues).flatMap fun q => q.2.grids.map Grid.handle) ++
    (s.teams.filter fun t => t.id.lci == lci).map fun t => t.id.handle

/-- A queue that has undispatched teams of a grid that may dispatch (13 R365, SER of R359). -/
def LQueue.current (q : LQueue) : Option Grid :=
  match (q.grids.zipIdx.find? fun p => decide (p.1.next < p.1.desc.teamCount)) with
  | some p => if p.1.ser && p.2 != 0 then none else some p.1
  | none => none

/-- The least virtual time over the queues that have a unit to dispatch and are not blocked. -/
def Dispatch.leastVt (d : Dispatch) : Option Nat :=
  (((d.queues ++ d.pfQueues).filter fun q => q.2.current.isSome && !q.2.blocked).map fun q => q.2.vt).min?

/-- The queue after a grid has been appended (13 R365). -/
def LQueue.append (q : LQueue) (least : Option Nat) (g : Grid) : LQueue :=
  let q2 := { q with grids := q.grids ++ [g] }
  if q.current.isNone && q2.current.isSome then { q2 with vt := max q.vt (least.getD 0) } else q2

/-- Appends a grid to a logical queue of a chip, or of the PF bound to it. -/
def State.appendGrid (s : State) (lci lq : Nat) (pf : Bool) (g : Grid) : State :=
  s.modChip lci fun c =>
    let least := c.disp.leastVt
    let add := fun (l : SMap LQueue) => l.map fun p => if p.1 = lq then (p.1, p.2.append least g) else p
    { c with disp := { c.disp with
        queues := if pf then c.disp.queues else add c.disp.queues
        pfQueues := if pf then add c.disp.pfQueues else c.disp.pfQueues
        launches := c.disp.launches + 1 } }

/-- The logical queue of a chip, or of the PF bound to the chip. -/
def Chip.lqueue? (c : Chip) (lq : Nat) (pf : Bool) : Option LQueue :=
  ((if pf then c.disp.pfQueues else c.disp.queues).find? fun p => p.1 == lq).map (·.2)

/-- Accepts a launch record on a queue (13 R360): the descriptor is read and checked, then privilege, then space. -/
def State.accept (s : State) (lci lq : Nat) (pf : Bool) (rec_ : Nat) (privOk : Bool) (owner : Nat) : Accepted :=
  match s.chip? lci with
  | none => .refused 2 s
  | some c =>
    match c.lqueue? lq pf with
    | none => .refused 2 s
    | some q =>
      if !recordOk rec_ then .refused 3 s
      else
        match s.hwRead lci owner 1 (bits rec_ 0 64) 256 with
        | .waits s => .waits s
        | .nonres => .refused 5 s
        | .fail _ s => .refused 3 s
        | .bytes l s =>
          let d := leNat l
          if !descValid d then .refused 3 s
          else if (descOf d).priv && !privOk then .refused 4 s
          else
            let used := s.handlesUsed c lci
            if 64 ≤ q.grids.length || 4096 ≤ used.eraseDups.length then .refused 1 s
            else
              let h := freshIn 4096 (Config.freeNat s.free) used
              let g : Grid := {
                handle := h, desc := descOf d, crec := bits rec_ 64 64, evt := bits rec_ 128 1 == 1,
                ser := bits rec_ 129 1 == 1, user := BitVec.ofNat 32 (bits rec_ 160 32), next := 0, ended := 0, fteam := 0,
                fcause := 0, order := c.disp.launches }
              .ok h ({ s with free := s.free + 1 }.appendGrid lci lq pf g)

/-! ### LAUNCH -/

/-- The checks of a LAUNCH's record address: range, alignment, translation (09 R276, 10 R281). -/
def Ix.launchCheck (x : Ix) (va : Nat) : Checked :=
  if 2 ^ 57 ≤ va then .stop (x.trapActive Cause.access va)
  else if va % 64 ≠ 0 then .stop (x.trapActive Cause.misaligned va)
  else
    let r := x.s.xlateLanes x.cur.core x.t.id.lci false .read [(x.low, va)]
    let y := x.withState r.2
    match failedTrap r.1 with
    | some tr => .stop (y.trapActive tr.cause va)
    | none => .ok y r.1

/-- An instruction that is preceded by FENCE.rel of a scope (04 R149): the boundary, then the condition. -/
def Ix.fenced (x : Ix) (sc : Scope) (k : Unit → State) : State :=
  match x.boundary true with
  | some s => s
  | none =>
    match x.awaitRel sc with
    | some s => s
    | none => k ()

/-- LAUNCH: posts the launch; the queue answers later. -/
def execLaunch (f : FmtR) (s : State) : Out :=
  issue s f.sched fun i =>
    match i.operandTrap (i.via f.perm (i.t.desc.regsOf f.sa) ++ i.own (i.t.desc.regsOf f.sb)) (i.t.desc.regsOf f.dst) with
    | some tr => i.trap tr
    | none =>
      if i.active = 0 then i.finish f.sched none []
      else i.fenced .device fun _ =>
        let va := i.rdVia f.perm i.low f.sa
        match i.launchCheck va with
        | .stop s => s
        | .ok y l =>
          let r := y.s.fresh
          let q : LaunchReq := {
            id := r.1, team := y.t.id, group := y.cur.group, lq := y.rd y.low f.sb, va := va, priv := y.t.desc.priv,
            dst := f.dst, active := y.active, ctr := setCtr f.sched }
          let _ := l
          let ws := (lanesOf y.active).flatMap fun n => y.dst n f.dst 0
          let z : Ix := { y with s := r.2.modTraffic fun x => { x with launches := x.launches ++ [q] } }
          z.put (z.advance ((z.g.reserve ws (z.cover f.sched none) r.1 z.cur.first).bump (setCtr f.sched)))

/-- The queue's answer to a LAUNCH (Table 9.6). -/
def State.launchAnswer (s : State) (q : LaunchReq) (v : Nat) : State :=
  let s := s.modTraffic fun x => { x with
    launches := x.launches.filter fun r => r.id != q.id
    fetches := x.fetches.filter fun f => f.owner != q.id }
  match s.team? q.team with
  | none => s
  | some t =>
    let ws := (lanesOf q.active).flatMap fun l =>
      (t.desc.regsOf q.dst).map fun n => ({ lane := l, key := n, val := BitVec.ofNat 32 v } : Wr)
    s.landGroup q.team q.group fun g => (g.land ws q.id).due q.ctr

/-- The status of a refusal (Table 9.6). -/
def launchRefused (why : Nat) : Nat := why * 2 ^ 28

/-- LAUNCH_ACCEPTANCE: the oldest LAUNCH of a logical queue is answered (13 R360). -/
def execLaunchAcceptance (lci : BitVec 8) (lq : BitVec 8) (s : State) : Out :=
  .next (match s.traffic.launches.find? fun q => q.team.lci == lci.toNat && q.lq % 2 ^ 32 == lq.toNat with
  | none =>
    -- a queue number above 255 names no queue; such a LAUNCH is answered with the event of queue number modulo 256
    (match s.traffic.launches.find? fun q => q.team.lci == lci.toNat && q.lq % 256 == lq.toNat && decide (256 ≤ q.lq) with
     | some q => s.launchAnswer q (launchRefused 2)
     | none => s)
  | some q =>
    let known := match s.chip? q.team.lci with | some c => (c.lqueue? q.lq false).isSome | none => false
    if !known then s.launchAnswer q (launchRefused 2)
    else
      match s.hwRead q.team.lci q.id 0 q.va 64 with
      | .waits s => s
      | .nonres => s.launchAnswer q (launchRefused 5)
      | .fail _ s => s.launchAnswer q (launchRefused 3)
      | .bytes l s2 =>
        match s2.accept q.team.lci q.lq false (leNat l) q.priv q.id with
        | .waits s => s
        | .refused why s => s.launchAnswer q (launchRefused why)
        | .ok h s => s.launchAnswer q (2 ^ 31 + h))

end Sys2Proof.Machine
end

