-- ==== Sys2Proof/Machine/Lifetime.lean ====
section
/-! DEFINITION. The life of a team: placement and resumption (13 R365, R366, 14 R388), leaving a core (04 R156, 11 R313, 03
R108), parking and waking (05 R177, R178, 14 R379 to R383), ending and grid completion (05 R159, 13 R364). -/

namespace Sys2Proof.Machine

/-! ### Placement -/

/-- Physical cores of a chip's clusters that it is not leaving, rising. -/
def Chip.cores (c : Chip) : List Nat := (c.res.clusters.filter fun k => !c.res.out.contains k).mergeSort.flatMap fun k => (List.range 4).map fun i => 4 * k + i

/-- A rising list from the first member at or after `x`, wrapping. -/
def rotateFrom (l : List Nat) (x : Nat) : List Nat := (l.filter fun k => decide (x ≤ k)) ++ l.filter fun k => decide (k < x)

/-- The member after `x`, wrapping; `x + 1` for an empty list. -/
def memberAfter (l : List Nat) (x : Nat) : Nat := (rotateFrom l (x + 1)).headD (x + 1)

/-- Cores of a cluster for the teams of a unit: each takes the lowest passing core left, a team parked in place its own
(13 R366, 14 R380). -/
def State.fitCluster (s : State) (cl : Nat) : List Team → List Nat → Option (List (Team × Nat))
  | [], _ => some []
  | t :: r, used =>
    let free := ((List.range 4).map fun i => 4 * cl + i).filter fun k => !used.contains k
    match free.find? fun k => s.passes k t with
    | none => none
    | some k => (s.fitCluster cl r (k :: used)).map fun l => (t, k) :: l

/-- Cores already taken by members that are parked in place. -/
def inPlaceCores (l : List Team) : List Nat :=
  l.filterMap fun t => match t.place with | .parkedInPlace c _ => some c | _ => none

/-- The first cluster that passes a gang, from the pointer on (13 R366). -/
def State.fitGang (s : State) (c : Chip) (l : List Team) : Option (List (Team × Nat) × Nat) :=
  let cls := (c.res.clusters.filter fun k => !c.res.out.contains k).mergeSort
  let order := rotateFrom cls (ceilDiv c.disp.rr 4)
  order.findSome? fun cl =>
    let mine := fun (t : Team) => (match t.place with | .parkedInPlace k _ => k / 4 == cl | _ => true)
    if l.all mine then (s.fitCluster cl l []).map fun p => (p, 4 * memberAfter cls cl) else none

/-- The placement of a unit: the cores, and the chip's pointer afterwards (13 R366). -/
def State.fitUnit (s : State) (c : Chip) (unit : List Team) : Option (List (Team × Nat) × Nat) :=
  match unit with
  | [] => none
  | [t] =>
    if t.desc.gang ≤ 1 then
      (rotateFrom c.cores c.disp.rr |>.find? fun k => s.passes k t).map fun k => ([(t, k)], memberAfter c.cores k)
    else s.fitGang c [t]
  | l => s.fitGang c l

/-- The lowest free team slot of a core. -/
def State.freeSlot (s : State) (core : Nat) : Nat :=
  let used := (s.onCore core).filterMap fun t => match t.place with | .resident _ k => some k | _ => none
  ((List.range 33).find? fun k => !used.contains k).getD 32

/-- The lowest free accumulator tiles of a core (03 R109). -/
def State.freeTiles (s : State) (core n : Nat) : List Nat :=
  let used := (s.onCore core).flatMap Team.tileMap
  ((List.range 32).filter fun k => !used.contains k).take n

/-- A core passes to another chip: its L1 is written back and invalidated (03 R84). -/
def State.switchChip (s : State) (core lci : Nat) : State :=
  if (s.core core).chip == some lci then s
  else (s.flushL1 core).modCore core fun c => { c with chip := some lci }

/-- A group as its team comes to a core: no pending time, no hold and no staged region (04 R156, 14 R383). -/
def Group.arrive (g : Group) (now : Nat) : Group :=
  { g with
    region := []
    run := none
    eligibleAt := now
    ord := { g.ord with pend := [], scUntil := 0, holds := [], held := false } }

/-- A team on its core. -/
def Team.settleOn (t : Team) (core slot base now : Nat) (tiles : List Nat) : Team :=
  { t.mapGroups (fun g => g.arrive now) with
    place := .resident core slot, spadBase := base, tileMap := tiles, leave := 0, idleSince := now }

/-- Puts a team on a core, which passes the check (13 R366). -/
def State.seat (s : State) (core : Nat) (t : Team) : State :=
  let s := s.switchChip core t.id.lci
  let base := match t.place with
    | .parkedInPlace _ _ => t.spadBase
    | _ => (freeRun (s.spadRuns core) (t.spadSize / 1024)).getD 0
  let u := t.settleOn core (s.freeSlot core) base s.gtc (if t.ended then [] else s.freeTiles core t.desc.acc)
  { s with teams := if s.teams.any fun v => v.id == t.id then s.teams.map fun v => if v.id == t.id then u else v
                    else s.teams ++ [u] }

/-- BAD_TARGET at a role's entry (06 R185): the check of every group as its team starts. -/
def State.checkEntries (s : State) (id : TeamId) (core : Nat) : State :=
  match s.team? id with
  | none => s
  | some t =>
    t.groupNums.foldl (fun s n =>
      let e := (t.desc.roleOf n).entry
      match s.checkTarget core id.lci e.toNat with
      | .bad 4 c s => s.takeTrap id n core { cause := c, lanes := 0xFFFFFFFF, addr := e.toNat } e false
      | .bad _ _ s => s
      | .ok s => s) s

/-- Outcomes of page waits that came while the team was away (02 R73, 10 R293). -/
def State.applyPages (s : State) (id : TeamId) : State :=
  match s.team? id with
  | none => s
  | some t =>
    t.groupNums.foldl (fun s n =>
      let done := (t.group n).lanes.filterMap fun q =>
        match q.2.wait with
        | some (.page _ ea _ (some code)) => some (q.1, ea, code)
        | _ => none
      [pgOk, pgResolved, pgCancelled, pgFailed, pgLost, pgFabric].foldl (fun s code =>
        let mine := done.filter fun p => p.2.2 == code
        match mine with
        | [] => s
        | p :: _ =>
          let pod := match s.xlateWalk id.lci false p.2.1 .read with | .remote _ a => a | _ => p.2.1
          s.pageDoneAll id n (mine.map (·.1)) code pod) s) s

/-- What follows the placement of a team that had run before: page replies, granted requests, a mark (05 R175, 17 R441). -/
def State.resumed (s : State) (id : TeamId) (core : Nat) : State :=
  let s := s.applyPages id
  let s := s.modTeam id fun t => t.mapGroups fun g => if g.grow.isSome then g.granted else g
  match s.team? id with
  | some t => s.trace core t 0 5 0 0
  | none => s

/-- A STOP given while the team was not on a core takes hold (17 R441). -/
def State.markStop (s : State) (id : TeamId) : State :=
  let queued := match s.chip? id.lci with | some c => c.dbg.marks.contains id | none => false
  let s := if queued then s.modChip id.lci fun c => { c with dbg := { c.dbg with marks := c.dbg.marks.filter fun k => k != id } } else s
  match s.team? id with
  | some t =>
    if queued || t.dbg.mark then
      (s.trigger id 1 0 none 0 0).modTeam id fun t => { t with dbg := { t.dbg with mark := true } }
    else s
  | none => s

/-- Seats a unit and starts or resumes its teams. -/
def State.seatUnit (s : State) (l : List (Team × Nat)) (fresh : Bool) : State :=
  let s := l.foldl (fun s p => s.seat p.2 p.1) s
  l.foldl (fun s p =>
    let s := if p.1.ended then s else if fresh then s.checkEntries p.1.id p.2 else s.resumed p.1.id p.2
    s.markStop p.1.id) s

/-- The teams of a grid's next unit (05 R161). -/
def Grid.unit (g : Grid) (lci pchip lq : Nat) : List Team :=
  let n := min g.desc.gang (g.desc.teamCount - g.next)
  (List.range n).map fun r =>
    Team.start { lci := lci, handle := g.handle, index := g.next + r } pchip lq g.desc r n g.order 0 0 0

/-- The queues of a chip, its own before those of the PF. -/
def Dispatch.allQueues (d : Dispatch) : List (Nat × Bool × LQueue) :=
  (d.queues.map fun q => (q.1, false, q.2)) ++ d.pfQueues.map fun q => (q.1, true, q.2)

/-- The queue that holds a grid, and the grid. -/
def Dispatch.gridAt (d : Dispatch) (handle : Nat) : Option (Nat × Bool × LQueue × Grid) :=
  d.allQueues.findSome? fun q => (q.2.2.grids.find? fun g => g.handle == handle).map fun g => (q.1, q.2.1, q.2.2, g)

/-- The queue that the arbiter takes: the least VT among those with a unit and not blocked, the lowest number on a tie
(13 R365). Queues of the PF follow the chip's. -/
def Dispatch.pickQueue (d : Dispatch) : Option (Nat × Bool × LQueue × Grid) :=
  let ready := d.allQueues.filterMap fun q => if q.2.2.blocked then none else q.2.2.current.map fun g => (q.1, q.2.1, q.2.2, g)
  (ready.mergeSort fun a b => decide (a.2.2.1.vt < b.2.2.1.vt) || (a.2.2.1.vt == b.2.2.1.vt && decide (a.1 ≤ b.1))).head?

/-- Applies `f` to a queue of a chip. -/
def State.modQueue (s : State) (lci lq : Nat) (pf : Bool) (f : LQueue → LQueue) : State :=
  let go := fun (l : SMap LQueue) => l.map fun p => if p.1 = lq then (p.1, f p.2) else p
  s.modChip lci fun c => { c with disp := { c.disp with
    queues := if pf then c.disp.queues else go c.disp.queues
    pfQueues := if pf then go c.disp.pfQueues else c.disp.pfQueues } }

/-- The dispatcher runs for a chip: it is resident, in service, and not draining (14 R385). -/
def Chip.dispatches (c : Chip) : Bool := c.res.resident && c.res.suspended.isNone && c.res.drainAt.isNone

/-- The unit to resume that comes next: the first whose queue is not blocked (05 R178, 13 R365, R366). -/
def Dispatch.nextResume (d : Dispatch) : Option TeamId :=
  d.resume.find? fun key => match d.gridAt key.handle with | some q => !q.2.2.1.blocked | none => true

/-- DISPATCH_PLACEMENT: a unit that waits to resume, or the next unit of the arbitrated queue, on the first cores that
pass; a queue whose unit finds no core is blocked, so that nothing of its grids passes that unit (05 R178, R179, 13 R365,
R366). -/
def execDispatchPlacement (lci : BitVec 8) (s : State) : Out :=
  .next (match s.chip? lci.toNat with
  | none => s
  | some c =>
    if !c.dispatches then s
    else
      match c.disp.nextResume with
      | some key =>
        match s.fitUnit c (s.gangOf key) with
        | none =>
          match c.disp.gridAt key.handle with
          | some q => s.modQueue lci.toNat q.1 q.2.1 fun l => { l with blocked := true }
          | none => s
        | some p =>
          let s := s.modChip lci.toNat fun c => { c with
            disp := { c.disp with resume := c.disp.resume.filter fun k => k != key, rr := p.2 }
            res := { c.res with saveFull := false, everRan := true } }
          s.seatUnit p.1 false
      | none =>
        match c.disp.pickQueue with
        | none => s
        | some q =>
          let unit := q.2.2.2.unit lci.toNat c.ident.pchip q.1
          match s.fitUnit c unit with
          | none => s.modQueue lci.toNat q.1 q.2.1 fun l => { l with blocked := true }
          | some p =>
            let s := s.modQueue lci.toNat q.1 q.2.1 fun l =>
              { l with
                vt := l.vt + 65536 / l.weight
                grids := l.grids.map fun g => if g.handle = q.2.2.2.handle then { g with next := g.next + unit.length } else g }
            let s := s.modChip lci.toNat fun c => { c with
              disp := { c.disp with rr := p.2 }, res := { c.res with everRan := true } }
            s.seatUnit p.1 true)

/-! ### Groups -/

/-- Cycles of 600 MHz in nanoseconds, rounded up. -/
def cyclesNs (n : Nat) : Nat := ceilDiv (n * 5) 3

/-- A group's claim to an issue slot: starving, role priority, team priority, since when, place (13 R367). -/
structure Claim where
  id : TeamId
  group : Nat
  starved : Bool
  since : Nat
  rprio : Nat
  prio : Nat
  slot : Nat
  deriving DecidableEq, Repr

/-- The order of two claims (13 R367). -/
def Claim.before (a b : Claim) : Bool :=
  if a.starved != b.starved then a.starved
  else if a.starved && a.since != b.since then decide (a.since < b.since)
  else if a.rprio != b.rprio then decide (b.rprio < a.rprio)
  else if a.prio != b.prio then decide (b.prio < a.prio)
  else if a.since != b.since then decide (a.since < b.since)
  else decide (a.slot ≤ b.slot)

/-- The claims of a core's eligible groups that hold no slot. -/
def State.claims (s : State) (core : Nat) : List Claim :=
  (s.onCore core).flatMap fun t =>
    (t.groupNums.filter fun n => (t.group n).run.isNone && s.eligible t n).map fun n =>
      { id := t.id, group := n, starved := decide (cyclesNs 2048 ≤ s.gtc - (t.group n).eligibleAt),
        since := (t.group n).eligibleAt, rprio := (t.desc.roleOf n).rprio, prio := t.desc.prio,
        slot := 32 * (match t.place with | .resident _ k => k | _ => 0) + n }

/-- Issue slots of a core that no run holds (05 R170). -/
def State.slotFree (s : State) (core slot : Nat) : Bool :=
  decide (slot < 4) && !(s.teams.any fun t => t.groups.any fun p =>
    match p.2.run with | some r => r.core == core && r.slot == slot | none => false)

/-- ISSUE_SLOT_PICK: a free slot takes a group, whose run starts (13 R367, 05 R170). -/
def execIssueSlotPick (core slot : Nat) (s : State) : Out :=
  .next (if !s.slotFree core slot then s
    else
      match ((s.claims core).mergeSort Claim.before).head? with
      | none => s
      | some c =>
        let s := s.modGroup c.id c.group fun g => { g with run := some { core := core, slot := slot, count := 0, pcs := [] } }
        match s.team? c.id with
        | some t =>
          let g := t.group c.group
          s.trace core t c.group 0 (lanesOf g.issuedMask).length (g.minPc g.readyMask)
        | none => s)

/-- SCOREBOARD_DECREMENT: a drop that is due (06 R197). -/
def execScoreboardDecrement (team : TeamId) (group ctr : Nat) (s : State) : Out :=
  .next (s.modGroup team group fun g =>
    if g.ord.drops.contains ctr then
      ({ g with ord := { g.ord with drops := g.ord.drops.erase ctr } }).drop (some ctr)
    else g)

/-- REGGROW_GRANT: the oldest waiting request of a core, when its rows are free; when none ever can be, the youngest team
parks (05 R173, R175). -/
def execReggrowGrant (core : Nat) (s : State) : Out :=
  .next (match s.grantable core with
    | some p => s.modGroup p.1 p.2 Group.granted
    | none => s.deadlockPark core)

/-- The sleeps of a group whose time has come: PC, time and barrier. -/
def Group.sleepsDue (g : Group) (now : Nat) : List (Nat × Nat × Option (Nat × Nat)) :=
  (g.lanes.filterMap fun q =>
    match q.2.wait with
    | some (Wait.sleep pc t b) => if q.2.st == LaneSt.waiting && decide (t ≤ now) then some (pc, t, b) else none
    | _ => none).eraseDups

/-- SLEEP_WAKE: lanes whose wake time GTC has reached (09 R257, R258). -/
def execSleepWake (team : TeamId) (group : Nat) (s : State) : Out :=
  .next (match s.team? team with
  | none => s
  | some t =>
    match t.core? with
    | none => s
    | some core =>
      ((t.group group).sleepsDue s.gtc).foldl (fun s k =>
        let m := match s.team? team with
          | some u => maskWhere fun l => ((u.group group).lane l).wait == some (Wait.sleep k.1 k.2.1 k.2.2) &&
              ((u.group group).lane l).st == LaneSt.waiting
          | none => 0
        s.releaseSleep team group core m k.1 k.2.1 k.2.2) s)

/-! ### Leaving a core -/

/-- No READY lane in any group (05 R177). -/
def Team.noReady (t : Team) : Bool := t.groupNums.all fun n => (t.group n).inState .ready == 0

/-- Every lane has ended. -/
def Team.allExited (t : Team) : Bool := t.groupNums.all fun n => (t.group n).allExited

/-- Every lane that has not ended waits in TRAP.svc (05 R177). -/
def Team.allInSvc (t : Team) : Bool :=
  t.groups.all fun p => p.2.lanes.all fun q =>
    q.2.st == .exited || (q.2.st == .waiting && (match q.2.wait with | some (.call _ _) => true | some (.post _ _ _) => true | _ => false))

/-- Lines of class PV that a team owns, in banks or, for remote homes, in its core's L1 (04 R133). -/
def State.pvOwned (s : State) (id : TeamId) : Bool :=
  (s.dies.any fun d => d.2.lines.any fun b => b.owner == some id) ||
    s.cores.any fun c => c.2.l1.any fun l => l.owner == some id

/-- Ends a team's ownership of every PV line; its groups' pending times take the write-backs' C (04 R133, Table 4.3). -/
def State.releasePv (s : State) (t : Team) (core : Nat) : State :=
  let lines := (s.dies.flatMap fun d => d.2.lines).filter fun b => b.owner == some t.id
  let r := lines.foldl (fun (a : State × Nat) b =>
    match a.1.bankLine? b.lci b.line with
    | some b => (a.1.endOwner b, max a.2 (a.1.completion b))
    | none => a) (s, 0)
  let keys := ((r.1.core core).l1.filter fun l => l.owner == some t.id).map L1Line.key
  let s := keys.foldl (fun s k => (s.flushKey core k true none 0).1) r.1
  t.groupNums.foldl (fun s n => s.modGroup t.id n fun g => g.raise false r.2) s

/-- An access that R156 waits for: one that loads or stores. -/
def Access.matters (a : Access) : Bool := a.isLoad || a.isStore

/-- Everything that a team's departure waits for besides its PV lines and GTC (04 R156, 11 R313, 03 R108, 09 R276). -/
def State.quiet (s : State) (id : TeamId) : Bool :=
  let x := s.traffic
  !(x.accesses.any fun a => a.team == id && a.matters) &&
    !(x.txns.any fun t => t.team == some id || t.contribs.any fun c => c.1 == id) &&
    !(x.drained.any fun w => w.2.groups.any fun c => c.1 == id) &&
    !(s.cores.any fun c => c.2.wcb.any fun w => w.groups.any fun c => c.1 == id) &&
    !(x.smoves.any fun m => m.src == id || m.dst == id) && !(x.launches.any fun q => q.team == id) &&
    !(x.barUpds.any fun u => u.sender == id) &&
    !(s.clusters.any fun c => (c.2.table ++ c.2.postbuf ++ c.2.granted.toList).any (fun r => r.team == id) ||
      c.2.drains.any fun d => d.team == id)

/-- GTC has passed P[system] of every group (04 R156). -/
def State.pendPassed (s : State) (t : Team) : Bool := t.groupNums.all fun n => decide (smGet 0 (t.group n).ord.pend 5 < s.gtc)

/-- Drains the write-combining buffer of a team's stores (04 R153, R156). -/
def State.drainTeam (s : State) (t : Team) (core : Nat) : State :=
  t.groupNums.foldl (fun s n => s.drainGroup core t.id n) s

/-- The cause that a group must be given before its team leaves (04 R141, R156): the oldest outstanding one, unless the
group is in handler mode, where it goes into the image as a pending delivery (Table 14.5, log 38). -/
def Group.causeDue (g : Group) : Option Deferred := if g.trap.handler then none else g.ord.deferred.head?

/-- A team may leave its core now (04 R156). -/
def State.mayLeave (s : State) (t : Team) : Bool :=
  (t.groupNums.all fun n => (t.group n).run.isNone && (t.group n).causeDue.isNone) && s.quiet t.id && s.pendPassed t &&
    !s.pvOwned t.id

/-- Delivers the causes that a team's groups must be given before it leaves (04 R156). -/
def State.deliverDue (s : State) (t : Team) (core : Nat) : State :=
  t.groupNums.foldl (fun s n =>
    match (t.group n).causeDue with
    | some d => s.deliver t.id n core d
    | none => s) s

/-- What remains to be started before a team may leave: its stores drain, and then its outstanding causes are delivered
and its PV lines are written back. -/
def State.prepareLeave (s : State) (t : Team) : State :=
  match t.spadCore? with
  | none => s
  | some core =>
    let s := s.drainTeam t core
    if !s.quiet t.id then s
    else if t.groupNums.any fun n => (t.group n).causeDue.isSome then s.deliverDue t core
    else if s.pvOwned t.id then s.releasePv t core else s

/-! ### Parking -/

/-- Parked teams of a chip (14 R382). -/
def State.parkedCount (s : State) (lci : Nat) : Nat :=
  (s.teams.filter fun t => t.id.lci == lci && !t.ended && (match t.place with
    | .parked => true
    | .parkedInPlace _ _ => true
    | _ => false)).length

/-- A team that may begin to park: the threshold has passed, or every lane is in TRAP.svc (05 R177, 17 R446). -/
def State.parkEligible (s : State) (t : Team) : Bool :=
  let park := match s.chip? t.id.lci with | some c => c.qos.park | none => 0
  t.core?.isSome && !t.ended && !t.stopping && t.dbg.state == 0 && t.noReady && !t.allExited &&
    (t.allInSvc || decide (t.idleSince + park ≤ s.gtc))

/-- PARK_THRESHOLD_EXPIRY: a gang whose resident teams are all eligible begins to park (03 R104, 05 R177). -/
def execParkThresholdExpiry (team : TeamId) (s : State) : Out :=
  .next (match s.team? team with
  | none => s
  | some t =>
    let gang := (s.gangOf t.gangKey).filter fun u => !u.ended
    if t.leave == 0 && s.parkEligible t && gang.all (fun u => u.core?.isNone || s.parkEligible u) then s.setLeave t.gangKey 1
    else s)

/-- Where a team that leaves goes (14 R379, R380, R386). -/
def State.leavePlace (s : State) (t : Team) : Place :=
  if t.leave = 2 then .preempted
  else if s.holdsPlace t.id then
    match t.place with
    | .resident c k => .parkedInPlace c k
    | p => p
  else .parked

/-- A team without its core. -/
def State.takeOff (s : State) (t : Team) : State :=
  let core := t.spadCore?.getD 0
  let p := s.leavePlace t
  let s := s.modTeam t.id fun t => { t.mapGroups (fun g => g.arrive s.gtc) with place := p, leave := 0, tileMap := [] }
  if t.ended then s
  else
    let s := s.trace core t 0 4 (if t.leave = 2 then 1 else 0) 0
    if t.leave = 1 then s.count (dieOf core) t.id.lci 0xE 1 else s

/-- A unit queued to resume: pre-empted units first, then by acceptance and index (13 R365, 14 R388). -/
def State.queueResume (s : State) (key : TeamId) : State :=
  let rank := fun (k : TeamId) =>
    match (s.gangOf k).find? fun t => !t.ended with
    | some t => (if t.place == Place.preempted then 0 else 1, t.order, k.index)
    | none => (1, 0, k.index)
  let after := fun (k : TeamId) =>
    let a := rank key
    let b := rank k
    decide (a.1 < b.1) || (a.1 == b.1 && a.1 != 0 && (decide (a.2.1 < b.2.1) || (a.2.1 == b.2.1 && decide (a.2.2 < b.2.2))))
  s.modChip key.lci fun c =>
    if c.disp.resume.contains key then c
    else
      let l := c.disp.resume
      { c with disp := { c.disp with resume := l.takeWhile (fun k => !after k) ++ [key] ++ l.dropWhile fun k => !after k } }

/-- The teams of a gang that leave together are all ready to. -/
def State.gangMayLeave (s : State) (gang : List Team) : Bool :=
  gang.all fun u => u.ended || u.core?.isNone || (u.leave != 0 && !u.stopping && s.mayLeave u)

/-- A whole gang leaves (03 R104, 14 R379): its teams, and the allocations of its members that have ended. -/
def State.gangLeaves (s : State) (gang : List Team) (k : Nat) : State :=
  let s := gang.foldl (fun s u => if u.core?.isSome then s.takeOff { u with leave := k } else s) s
  match gang with
  | [] => s
  | u :: _ =>
    let s := if k = 2 then s.queueResume u.gangKey else s
    (s.unblock u.id.lci)

/-- TEAM_PARK: a team that parks or is pre-empted leaves its core with its gang once the conditions hold; a full save
area keeps it (14 R379 to R382, R386). -/
def execTeamPark (team : TeamId) (s : State) : Out :=
  .next (match s.team? team with
  | none => s
  | some t =>
    match t.core? with
    | none => s
    | some core =>
      let gang := s.gangOf t.gangKey
      if t.leave = 0 || t.ended then s
      else if !s.gangMayLeave gang then
        gang.foldl (fun s u => if u.leave != 0 && !u.ended && !u.stopping && (u.groupNums.all fun n => (u.group n).run.isNone)
          then s.prepareLeave u else s) s
      else
        match s.chip? t.id.lci with
        | none => s
        | some c =>
          let n := s.parkedCount t.id.lci
          if t.leave = 1 && c.qos.save < n + (gang.filter fun u => !u.ended).length then
            let s := s.setLeave t.gangKey 0
            if c.res.saveFull then s
            else (s.modChip t.id.lci fun c => { c with res := { c.res with saveFull := true } }).postBoth t.id.lci 0x0030 n 0
          else (s.gangLeaves gang t.leave).deadlockPark core)

/-- A waiting lane's condition is met (05 R178). -/
def Lane.wakeMet (x : Lane) (now : Nat) : Bool :=
  x.st == .ready || (x.st == .waiting && (match x.wait with
    | some (.sleep _ t _) => decide (t ≤ now)
    | some (.page _ _ _ done) => done.isSome
    | some .grow => true
    | none => true
    | _ => false))

/-- A parked team's wake condition (05 R177). -/
def Team.wakeMet (t : Team) (now : Nat) : Bool := t.groups.any fun p => p.2.lanes.any fun q => q.2.wakeMet now

/-- TEAM_WAKE: a parked unit is queued for dispatch (05 R178). -/
def execTeamWake (team : TeamId) (s : State) : Out :=
  .next (match s.team? team with
  | none => s
  | some t =>
    let parked := match t.place with | .parked => true | .parkedInPlace _ _ => true | _ => false
    if parked && !t.ended && t.wakeMet s.gtc then s.queueResume t.gangKey else s)

/-! ### Ending -/

/-- Writes bytes at a VA of a chip, for hardware: the state, and the completion time of the stores to homes on this
module. An address that cannot be reached is not written, and a table page that stage 2 does not map is reported (02 R54).
Stores to another module are known by `owner`. -/
def State.hwWrite (s : State) (lci owner va : Nat) (l : List Byte) : State × Nat :=
  match s.xlateWalk lci false va .write with
  | .here t mpa => s.pokeAt (match t.home with | .here h _ => h | .remote _ => lci) mpa l t.cls
  | .remote t pod =>
    let pchip := match s.chip? lci with | some c => c.ident.pchip | none => 0
    (s.hwStore lci owner 0 (hwAgent pchip) none t.cls t.s2cls pod l, 0)
  | .nonres _ _ _ => (s, 0)
  | .fail _ tb => (s.noteTable lci tb, 0)

/-- An event of a chip that follows what hardware has written for `owner`, on this module by `c` (04 R155). -/
def State.postFollowing (s : State) (lci owner code info0 info1 c : Nat) : State :=
  if (s.fetchesOf owner 0).isEmpty then s.postAfter lci code info0 info1 c
  else s.modTraffic fun t => { t with
    follows := t.follows ++ [{ owner := owner, lci := lci, code := code, info0 := info0, info1 := info1 }] }

/-- The completion record of a grid, Table 13.4. -/
def Grid.completion (g : Grid) (now status : Nat) : List Byte :=
  natLe 4 g.user.toNat ++ natLe 4 (g.handle % 4096 + status % 256 * 2 ^ 16) ++ natLe 8 now ++ natLe 8 g.desc.param.toNat ++
    natLe 4 (g.fcause % 256 * 2 ^ 24) ++ natLe 4 g.fteam ++ natLe 32 0

/-- A grid that has ended: its record is released at system scope, the event follows it, and the queue goes on (13 R364). -/
def State.endGrid (s : State) (lci lq : Nat) (pf : Bool) (g : Grid) (status : Nat) : State :=
  let owner := s.ids
  let s := { s with ids := s.ids + 1 }
  let w := if g.crec = 0 then (s, 0) else s.hwWrite lci owner g.crec (g.completion s.gtc status)
  let s := if g.evt then w.1.postFollowing lci owner 0x0001 g.crec g.handle w.2 else w.1.dropFetches owner 0
  let least := (s.chip? lci).bind fun c => c.disp.leastVt
  s.modQueue lci lq pf fun q =>
    let q2 := { q with grids := q.grids.filter fun x => x.handle != g.handle }
    if q.current.isNone && q2.current.isSome then { q2 with vt := max q.vt (least.getD 0) } else q2

/-- One more team of a grid has ended; the last one ends the grid. -/
def State.gridTeamEnded (s : State) (lci handle : Nat) : State :=
  match s.chip? lci with
  | none => s
  | some c =>
    match c.disp.gridAt handle with
    | none => s
    | some q =>
      let g := { q.2.2.2 with ended := q.2.2.2.ended + 1 }
      let s := s.modQueue lci q.1 q.2.1 fun l =>
        { l with grids := l.grids.map fun x => if x.handle = handle then g else x }
      if g.ended = g.desc.teamCount then s.endGrid lci q.1 q.2.1 g (if g.fcause = 0 then 0 else 1) else s

/-- Teams that have ended and whose gang has ended, with no job left, are gone; their scratchpad is free (03 R95, 14 R372). -/
def State.reap (s : State) : State :=
  let gone := fun (t : Team) =>
    t.ended && !s.holdsPlace t.id && s.teams.all fun (u : Team) => u.gangKey != t.gangKey || u.ended
  { s with teams := s.teams.filter fun (t : Team) => !gone t }

/-- A team that has ended: what it releases at once (05 R159, 03 R103, R105). -/
def State.endTeam (s : State) (t : Team) (core : Nat) : State :=
  let drop := fun (w : Window) => if w.held && w.hrank == t.gangRank then { w with held := false, hrank := 0 } else w
  let lose := fun (u : Team) =>
    if u.gangKey == t.gangKey then { u with windows := u.windows.map fun p => (p.1, drop p.2) } else u
  let s := { s with teams := s.teams.map lose }
  let keep := s.holdsPlace t.id
  let s := s.modTeam t.id fun u =>
    { u with ended := true, leave := 0, groups := [], acc := [], accPoison := [], tileMap := [], tags := [], tagRR := [],
             ranges := [], bars := if keep then u.bars else [], conv := [] }
  let s := (s.gridTeamEnded t.id.lci t.id.handle).reap
  (s.unblock t.id.lci).deadlockPark core

/-- TEAM_END: a team whose groups have ended, or that an unhandled trap stopped, ends once R156 and R313 hold. -/
def execTeamEnd (team : TeamId) (s : State) : Out :=
  .next (match s.team? team with
  | none => s
  | some t =>
    match t.core? with
    | none => s
    | some core =>
      if t.ended || !(t.stopping || t.allExited) then s
      else
        let s := if t.stopping then s.modTeam team fun t => t.mapGroups fun g => { g with run := none } else s
        match s.team? team with
        | none => s
        | some t => if s.mayLeave t then s.endTeam t core else s.prepareLeave t)

end Sys2Proof.Machine
end

