-- ==== Sys2Proof/Machine/Boxes.lean ====
section
/-! DEFINITION. Tensor shape records: substitution, checks, coordinates, addresses, rows and footprints (12 R330 to R335,
R340). -/

namespace Sys2Proof.Machine

/-! ### Elements -/

/-- Half-bytes of an element (12 R331). -/
def elNibbles (t : Ty) : Nat :=
  match t with
  | .i64 | .n64 => 16
  | .i32 | .n32 | .f32 => 8
  | .i16 | .n16 | .f16 | .bf16 => 4
  | .i8 | .n8 | .e4m3 | .e5m2 | .q8 => 2
  | .q4 => 1

/-- Bytes of a box row. -/
def Box.rowBytes (b : Box) : Nat := b.box.getD 0 1 * elNibbles b.dtype / 2
/-- Elements along dimension `d`. -/
def Box.size (b : Box) (d : Nat) : Nat := b.box.getD d 1
/-- Box rows of a copy. -/
def Box.rowCount (b : Box) : Nat := b.size 1 * b.size 2 * b.size 3
/-- Origin of dimension `d`. -/
def Box.origin (b : Box) (d : Nat) : Int := b.org.getD d 0

/-! ### Resolution and checks (12 R331, R332) -/

/-- The outcome of resolving a record. -/
inductive BoxOut where
  | bad (cause addr : Nat)
  | ok (b : Box)
  deriving DecidableEq, Repr

/-- A marked field takes its value from a register, or a register pair. -/
def shapeSub (sh : Shape) (i raw : Nat) (reg : Nat → Nat) : Nat :=
  if sh.mark.getLsbD i then (if i = 0 || i = 5 then reg raw + 2 ^ 32 * reg (raw + 1) else reg raw) else raw

/-- The substituted fields in the order of R332: value, width and lowest bit. -/
def shapeSubs (sh : Shape) (reg : Nat → Nat) : List (Nat × Nat × Nat) :=
  [(shapeSub sh 0 sh.base.toNat reg, 57, 0), (shapeSub sh 1 sh.extent0.toNat reg, 20, 64), (shapeSub sh 2 sh.extent1.toNat reg, 20, 84),
   (shapeSub sh 3 sh.extent2.toNat reg, 20, 140), (shapeSub sh 4 sh.extent3.toNat reg, 20, 196),
   (shapeSub sh 5 sh.stride1.toNat reg, 36, 104), (shapeSub sh 6 sh.dst.toNat reg, 20, 324), (shapeSub sh 7 sh.bar.toNat reg, 16, 344)]

/-- Register numbers of the origins, by dimension. -/
def shapeOrgRegs (sh : Shape) : List Nat := [sh.org0.toNat, sh.org1.toNat, sh.org2.toNat, sh.org3.toNat]

/-- v registers that an instruction's record names (12 R331, R332). -/
def shapeVregs (sh : Shape) : List Nat :=
  let one := fun (i n : Nat) => if sh.mark.getLsbD i then [n] else []
  let two := fun (i n : Nat) => if sh.mark.getLsbD i then [n, n + 1] else []
  (shapeOrgRegs sh).take (sh.rank.toNat + 1) ++ two 0 sh.base.toNat ++ one 1 sh.extent0.toNat ++ one 2 sh.extent1.toNat ++
    one 3 sh.extent2.toNat ++ one 4 sh.extent3.toNat ++ two 5 sh.stride1.toNat ++ one 6 sh.dst.toNat ++ one 7 sh.bar.toNat

/-- The box that a record describes once its fields are known, unchecked; `org` gives the origin of each dimension. -/
def shapeBox (sh : Shape) (reg : Nat → Nat) (org : Nat → Nat) : Box :=
  let v := fun (k : Nat) => ((shapeSubs sh reg).getD k (0, 0, 0)).1
  let k := sh.rank.toNat + 1
  { base := v 0, dtype := (Ty.ofCode (sh.dtype.setWidth 4)).getD .i32, rank := k,
    ext := [v 1, v 2, v 3, v 4], stride := [0, v 5, sh.stride2.toNat, sh.stride3.toNat],
    box := [sh.box0.toNat + 1, sh.box1.toNat + 1, sh.box2.toNat + 1, sh.box3.toNat + 1],
    org := (List.range k).map fun d => toSigned 32 (org d), dst := v 6, swz := sh.swz.toNat,
    bar := if v 7 = 0xFFFF then none else some (16 * v 7) }

/-- The first failing bit position of a check: the lowest. -/
def lowestBad (l : List (Bool × Nat)) : Option Nat := (l.filter fun p => p.1).map (·.2) |>.min?

/-- Fields of a dimension that the rank does not reach. -/
def shapeUnused (sh : Shape) (b : Box) (d : Nat) : Bool :=
  b.ext.getD d 0 != 0 || b.stride.getD d 0 != 0 || b.size d != 1 || (shapeOrgRegs sh).getD d 0 != 0

/-- In-bounds coordinates of dimension `d`: first and one past the last. -/
def Box.inRange (b : Box) (d : Nat) : Int × Int :=
  (max 0 (b.origin d), min (b.ext.getD d 0 : Int) (b.origin d + (b.size d : Int)))

/-- One past the last global byte of the in-bounds elements; `none` when there are none. -/
def boxTop (b : Box) : Option Nat :=
  let dims := List.range b.rank
  if dims.any fun d => decide ((b.inRange d).2 ≤ (b.inRange d).1) then none
  else
    let hi := ((dims.drop 1).map fun d => ((b.inRange d).2 - 1).toNat * b.stride.getD d 0).sum
    some (b.base + hi + ceilDiv ((b.inRange 0).2.toNat * elNibbles b.dtype) 2)

/-- The checks of a record after substitution (12 R331), but for the scratchpad span; `span` asks for the check of the
global span, which a gather makes over its own rows. -/
def shapeResolve (sh : Shape) (span : Bool) (reg org : Nat → Nat) : BoxOut :=
  let b := shapeBox sh reg org
  let k := b.rank
  let dims := List.range k
  let wide := lowestBad ((shapeSubs sh reg).map fun p => (decide (2 ^ p.2.1 ≤ p.1), p.2.2))
  let extBit := fun (d : Nat) => [64, 84, 140, 196].getD d 0
  let strideBit := fun (d : Nat) => [0, 104, 160, 216].getD d 0
  let q4 := b.dtype == .q4
  let align := if b.swz = 0 then 16 else 16 * 2 ^ (b.swz + 2)
  match wide with
  | some n => .bad Cause.access n
  | none =>
  if (List.range 4).any fun d => decide (k ≤ d) && shapeUnused sh b d then .bad Cause.reservedBits 0
  else
    match lowestBad ((dims.map fun d => (b.ext.getD d 0 == 0, extBit d)) ++
        ((dims.drop 1).map fun d => (b.stride.getD d 0 == 0 || b.stride.getD d 0 % 16 != 0, strideBit d))) with
    | some n => .bad Cause.access n
    | none =>
    match lowestBad [(b.size 0 * elNibbles b.dtype % 32 != 0 || (q4 && b.size 0 % 2 != 0), 252),
        (q4 && b.origin 0 % 2 != 0, 292)] with
    | some n => .bad Cause.access n
    | none =>
    match lowestBad [(b.base % 16 != 0, 0), (b.dst % align != 0, 324)] with
    | some n => .bad Cause.misaligned n
    | none =>
    match boxTop b with
    | some t => if span && decide (2 ^ 57 < t) then .bad Cause.access 0 else .ok b
    | none => .ok b

/-! ### Rows -/

/-- The in-bounds part of a row: global address, first byte in the row, bytes, and whether the last byte holds one
out-of-bounds nibble (12 R333). -/
structure RowPart where
  va : Nat
  ofs : Nat
  len : Nat
  nib : Bool
  deriving DecidableEq, Repr

/-- Coordinates of dimensions 1 to 3 of a job's row (12 R331, R340). -/
def Job.coords (j : Job) (row : Nat) : List Int :=
  match j.kind with
  | .gather l => [l.getD row 0, j.box.origin 2, j.box.origin 3]
  | .listed _ _ | .copy | .send _ _ _ _ | .copyOut _ | .card _ =>
    let b := j.box
    [b.origin 1 + (row % b.size 1 : Nat), b.origin 2 + (row / b.size 1 % b.size 2 : Nat),
     b.origin 3 + (row / (b.size 1 * b.size 2) : Nat)]

/-- The in-bounds part of a row with the given coordinates; `none` when no element is in bounds. -/
def Box.rowPart (b : Box) (cs : List Int) : Option RowPart :=
  let dims := (List.range b.rank).drop 1
  let c := fun (d : Nat) => cs.getD (d - 1) 0
  if dims.any fun d => decide (c d < 0) || decide ((b.ext.getD d 0 : Int) ≤ c d) then none
  else
    let r := b.inRange 0
    if r.2 ≤ r.1 then none
    else
      let s := elNibbles b.dtype
      let lo := r.1.toNat
      let n := (r.2 - r.1).toNat
      let va := b.base + (dims.map fun d => (c d).toNat * b.stride.getD d 0).sum + lo * s / 2
      some { va := va, ofs := (r.1 - b.origin 0).toNat * s / 2, len := ceilDiv (n * s) 2, nib := n * s % 2 == 1 }

/-- The in-bounds part of a job's row. -/
def Job.part (j : Job) (row : Nat) : Option RowPart := j.box.rowPart (j.coords row)

/-- Rows that a job has in all. -/
def Job.rowTotal (j : Job) : Nat :=
  match j.kind with
  | .gather l => l.length
  | .listed _ n => n
  | .copy | .send _ _ _ _ | .copyOut _ => j.box.rowCount
  | .card _ => 0

/-- The scratchpad offset of a 16-byte unit of the packed box (12 R331). -/
def Box.unit (b : Box) (o : Nat) : Nat :=
  if b.swz = 0 then b.dst + o
  else
    let n := b.swz + 2
    let u := o / 16 % 2 ^ n
    let w := o / 2 ^ (4 + n) % 2 ^ n
    b.dst + (o - 16 * u + 16 * (u ^^^ w))

/-- Scratchpad offsets of the 16-byte units of a row. -/
def Box.rowUnits (b : Box) (row : Nat) : List Nat :=
  (List.range (b.rowBytes / 16)).map fun i => b.unit (row * b.rowBytes + 16 * i)

/-- A row's bytes in a team's scratchpad. -/
def Team.rowRead (t : Team) (b : Box) (row : Nat) : List Byte := (b.rowUnits row).flatMap fun o => t.spadRead o 16

/-- Writes a row into a team's scratchpad. -/
def Team.rowWrite (t : Team) (b : Box) (row : Nat) (l : List Byte) : Team :=
  (b.rowUnits row).zipIdx.foldl (fun t p => t.spadWrite p.1 ((l.drop (16 * p.2)).take 16)) t

/-- The scratchpad span of a box of `rows` rows: range, rights and windows as an owner access. Any failure names the field
DST (12 R331, 03 R97). -/
def Team.boxTrap (t : Team) (b : Box) (rows : Nat) (store : Bool) : Option (Nat × Nat) :=
  let n := rows * b.rowBytes
  let out := (List.range rows).any fun r => (b.rowUnits r).any fun o => decide (t.spadSize < o + 16)
  let ks := (List.range (ceilDiv (b.dst % 128 + n) 128)).map fun i => b.dst / 128 + i
  if t.spadSize < b.dst + n || out || !t.rightsOk b.dst n ||
      ks.any fun k => !windowOk (smGet Window.closed t.windows k) false store t.gangRank then some (Cause.access, 324)
  else none

/-! ### Footprints (12 R334, R342, 04 R150) -/

/-- The byte span of the in-bounds global elements of a job. -/
def Job.span (j : Job) : Option (Nat × Nat) :=
  let l := (List.range j.rowTotal).filterMap j.part
  match (l.map fun p => p.va).min?, (l.map fun p => p.va + p.len).max? with
  | some a, some b => some (a, b - a)
  | some _, none => none
  | none, _ => none

/-- The footprint that a job takes from its shape. -/
def Job.shapeFoot (j : Job) : List Foot :=
  let g := fun (w : Bool) => match j.span with
    | some p => [{ spad := false, write := w, lo := p.1, len := p.2 : Foot }]
    | none => []
  let n := j.rowTotal * j.box.rowBytes
  let sp := fun (w : Bool) => [{ spad := true, write := w, lo := j.box.dst, len := n : Foot }]
  match j.kind with
  | .copy | .gather _ | .listed _ _ => if j.dir = 0 then g false ++ sp true else sp false ++ g true
  | .send _ _ _ spad => if spad then sp false else g false
  | .copyOut dest => g false ++ [{ spad := false, write := true, lo := dest, len := n }]
  | .card _ => []

/-- Two ranges meet. -/
def Foot.meets (a b : Foot) : Bool :=
  a.spad == b.spad && (a.write || b.write) && decide (a.lo < b.lo + b.len) && decide (b.lo < a.lo + a.len)

/-- Two footprints conflict: global ranges of one chip, scratchpad ranges of one team. -/
def footsMeet (a b : TeamId) (fa fb : List Foot) : Bool :=
  a.lci == b.lci && fa.any fun p => fb.any fun q => p.meets q && (!p.spad || a == b)

/-- A row whose source read has begun is in flight (12 R337). -/
def Job.inFlight (j : Job) : Bool := j.begun.any fun p => j.rows.contains p.1
/-- A job still has rows to move. -/
def Job.moving (j : Job) : Bool := (j.outcome == 0 && !j.rows.isEmpty) || j.inFlight

/-- No earlier job or card of the dependence unit stands in the way of a footprint (04 R150). -/
def State.depFree (s : State) (die order : Nat) (team : TeamId) (foot : List Foot) : Bool :=
  (!s.traffic.jobs.any fun e =>
    e.started && e.die == die && decide (e.order < order) && e.moving && footsMeet e.team team e.foot foot) &&
  !s.traffic.cards.any fun e =>
    e.started && e.die == die && decide (e.order < order) && e.moving && footsMeet e.team team e.foot foot

/-- Entries of a die's dependence unit (12 R334). -/
def State.depCount (s : State) (die : Nat) : Nat :=
  (s.traffic.jobs.filter fun e => e.started && e.die == die && e.moving).length +
    (s.traffic.cards.filter fun e => e.started && e.die == die && e.moving).length

/-! ### Promises (12 R335) -/

/-- L0 and beta of the path of a job's global side. -/
def promisePath (remote host : Bool) : Nat × Nat := if remote then (2000, 28) else if host then (1500, 32) else (400, 256)

/-- An address on the global side of a job: its first in-bounds element, or its tensor's while its indices are not read. -/
def Job.globalVa (j : Job) : Option Nat :=
  match j.kind with
  | .listed _ _ => some j.box.base
  | .copy | .gather _ | .send _ _ _ _ | .copyOut _ | .card _ => ((List.range j.rowTotal).findSome? j.part).map RowPart.va

/-- The path of the page of a job's first in-bounds element. -/
def State.globalPath (s : State) (j : Job) : Nat × Nat :=
  match j.globalVa with
  | none => promisePath false false
  | some va =>
    match s.xlateWalk j.lci false va (if j.dir = 1 then .write else .read) with
    | .here _ mpa => promisePath false (mpaRegion mpa == 1)
    | .remote _ _ => promisePath true false
    | .nonres _ _ _ => promisePath false false
    | .fail _ _ => promisePath false false

/-- The jobs of a channel that are not finished. -/
def State.chanJobs (s : State) (die ch : Nat) : List Job := s.traffic.jobs.filter fun j => j.die == die && j.ch == ch

/-- The promised completion time. -/
def State.promise (s : State) (die ch bytes : Nat) (path : Nat × Nat) : Nat :=
  (((s.chanJobs die ch).filter fun j => j.outcome == 0).map Job.prom).foldl max s.gtc + path.1 + ceilDiv bytes path.2

end Sys2Proof.Machine
end

