-- ==== Sys2Proof/Machine/Engine.lean ====
section
/-! DEFINITION. Box rows: translation and holds, reads at the bank or at another module, writes, scratchpad sides and barrier
counts (12 R333, R336, R337, R339, R358, 04 R150, R151, 02 R65). -/

namespace Sys2Proof.Machine

/-! ### Pieces of a row -/

/-- A part of a row in one line: its VA, first byte in the row, bytes, whether it is one in-bounds nibble, and where it
lies. -/
structure Piece where
  idx : Nat
  va : Nat
  ofs : Nat
  len : Nat
  nib : Bool
  out : Xl
  deriving DecidableEq, Repr

/-- The parts of a row in one line each. -/
def RowPart.parts (p : RowPart) : List (Nat × Nat × Nat × Bool) :=
  let whole := if p.nib then p.len - 1 else p.len
  ((partsOf p.va whole).map fun q => (q.1, p.ofs + (q.1 - p.va), q.2, false)) ++
    (if p.nib then [(p.va + whole, p.ofs + whole, 1, true)] else [])

/-- Translates an address through the walk-ahead TLB of a die (02 R60, R65). -/
def State.engXlate (s : State) (die lci : Nat) (k : AccKind) (va : Nat) : Xl × State :=
  let r := s.xlateDie die false lci va k
  (r.1, match r.1 with | .fail _ t => r.2.noteTable lci t | _ => r.2)

/-- The pieces of a run of parts, translated. -/
def State.pieces (s : State) (die lci : Nat) (k : AccKind) (l : List (Nat × Nat × Nat × Bool)) : List Piece × State :=
  l.zipIdx.foldl (fun (a : List Piece × State) p =>
    let r := a.2.engXlate die lci k p.1.1
    (a.1 ++ [{ idx := p.2, va := p.1.1, ofs := p.1.2.1, len := p.1.2.2.1, nib := p.1.2.2.2, out := r.1 }], r.2)) ([], s)

/-- What stands in the way of a set of pieces. -/
inductive PageReach where
  | fail (cause va : Nat)
  | nonres (kind fa va level : Nat)
  | ok
  deriving DecidableEq, Repr

/-- The first failure, or else the first page that is not resident. -/
def reachOf (l : List Piece) : PageReach :=
  match l.findSome? fun p => match p.out with | .fail c _ => some (c, p.va) | _ => none with
  | some c => .fail c.1 c.2
  | none =>
    match l.findSome? fun p => match p.out with | .nonres k a lv => some (k, a, p.va, lv) | _ => none with
    | some n => .nonres n.1 n.2.1 n.2.2.1 n.2.2.2
    | none => .ok

/-- Holds a job on a page: the engine posts the page request; with its queue disabled the job faults (02 R65, R69). -/
def State.holdJob (s : State) (j : Job) (k : AccKind) (kind fa va level : Nat) : State :=
  match s.requestPage j.die (s.pageVf j.lci kind fa) kind fa va level (pageAcc k true) j.pchip (.job j.id va) with
  | none => s.jobFault j.id Cause.invalidPage va
  | some r => (r.1.modJob j.id fun x => { x with held := true }).failWaiters r.2

/-- A piece lies on this module: home chip and address. -/
def Piece.here? (p : Piece) : Option (Tlb × Nat × Nat) :=
  match p.out with
  | .here t a => match t.home with | .here lci _ => some (t, lci, a) | .remote _ => none
  | _ => none

/-- A piece lies on another module. -/
def Piece.far? (p : Piece) : Option (Tlb × Nat) :=
  match p.out with
  | .remote t a => some (t, a)
  | _ => none

/-! ### Accesses of a job at a bank -/

/-- Who asks for a job: its issuing team (04 R151). -/
def State.jobWho (s : State) (j : Job) : Who :=
  { agent := (match s.team? j.team with | some t => t.agent j.core | none => hwAgent j.pchip), team := some j.team,
    writer := some j.pchip, checked := false }

/-- A WO line that nothing has written in its generation (04 R131). -/
def State.unwritten (s : State) (lci line : Nat) : Bool :=
  (s.lineFor lci line .wo).unwritten s.gtc

/-- A local piece that cannot be read now: a shootdown or a store in progress, or an unwritten WO line (04 R121, 12 R336). -/
def State.readBlocked (s : State) (p : Piece) : Bool :=
  match p.here? with
  | some h => s.shootHolds h.2.1 h.2.2 h.1.cls || !s.readReady h.2.1 (h.2.2 / 128) h.1.cls ||
      (h.1.cls == .wo && s.unwritten h.2.1 (h.2.2 / 128))
  | none => false

/-- A local piece that cannot be written now. -/
def State.writeBlocked (s : State) (p : Piece) : Bool :=
  match p.here? with
  | some h => s.shootHolds h.2.1 h.2.2 h.1.cls
  | none => false

/-- The owner's dirty sectors are merged into a PV line before a job of that team touches it; ownership is kept (04 R151). -/
def State.recallFor (s : State) (team : TeamId) (lci line : Nat) : State :=
  match s.bankLine? lci line with
  | some b => if b.owner = some team then (let r := s.recall b; r.1.putLine r.2) else s
  | none => s

/-- The owner's own copy of a remote PV line is written back before a job of that team touches the line (04 R151). -/
def State.recallOwn (s : State) (team : TeamId) (cls : Cls) (pod : Nat) : State :=
  let key : Home := .remote (pod / 128 * 128)
  if cls != .pv then s
  else
    match s.pvCore? key team with
    | some core => (s.flushKey core key false none 0).1
    | none => s

/-- A request of a job at the bank of a local line. -/
def State.jobReq (s : State) (j : Job) (t : Tlb) (lci line : Nat) (lanes : List TxnLane) : BankReq :=
  { lci := lci, line := line, cls := t.cls, sync := false, scope := .device, who := s.jobWho j, lanes := lanes }

/-- The answer of a piece that was not performed. -/
def noAnswer (p : Piece) : LaneAns :=
  { lane := p.idx, data := List.replicate p.len 0, valid := false, cause := none, member := none }

/-- A job reads a local piece. -/
def State.readPiece (s : State) (j : Job) (p : Piece) : State × LaneAns :=
  match p.here? with
  | none => (s, noAnswer p)
  | some h =>
    let s := s.recallFor j.team h.2.1 (h.2.2 / 128)
    let r := s.bankRead (s.jobReq j h.1 h.2.1 (h.2.2 / 128)
      [{ lane := p.idx, addr := h.2.2, bytes := p.len, data := [], ea := p.va }]) 0
    (r.st, r.answers.headD (noAnswer p))

/-- The byte that a nibble write leaves: the low nibble is new (12 R333). -/
def nibByte (old new : Nat) : Nat := old / 16 % 16 * 16 + new % 16

/-- The data of a local piece: a nibble keeps the rest of its byte, which in an unwritten WO line is zero. -/
def State.pieceData (s : State) (t : Tlb) (lci a : Nat) (p : Piece) (row : List Byte) : List Byte :=
  let d := (row.drop p.ofs).take p.len
  if p.nib then
    let old := if t.cls == .wo then 0 else leNat (s.peek lci a 1 t.cls)
    [BitVec.ofNat 8 (nibByte old (leNat d))]
  else d

/-- A job writes its local pieces of one line as one write; the causes and the completion time (04 R131, R151). -/
def State.writeLine (s : State) (j : Job) (t : Tlb) (lci line : Nat) (l : List Piece) (row : List Byte) :
    State × List (Nat × Nat) × Nat :=
  let s := s.recallFor j.team lci line
  let lanes := l.filterMap fun p => p.here?.map fun h =>
    ({ lane := p.idx, addr := h.2.2, bytes := p.len, data := s.pieceData t lci h.2.2 p row, ea := p.va } : TxnLane)
  let r := s.bankStore (s.jobReq j t lci line lanes)
  (r.st, r.answers.filterMap LaneAns.cause, r.time)

/-- A job writes its local pieces, line by line: the state, the first cause, and the latest completion time. -/
def State.writePieces (s : State) (j : Job) (l : List Piece) (row : List Byte) : State × Option (Nat × Nat) × Nat :=
  let keys := (l.filterMap fun p => p.here?.map fun h => (h.2.1, h.2.2 / 128)).eraseDups
  keys.foldl (fun (a : State × Option (Nat × Nat) × Nat) k =>
    let mine := l.filter fun p => (p.here?.map fun h => (h.2.1, h.2.2 / 128)) == some k
    match mine.head?.bind Piece.here? with
    | none => a
    | some h =>
      let r := a.1.writeLine j h.1 k.1 k.2 mine row
      (r.1, a.2.1 <|> r.2.1.head?, max a.2.2 r.2.2)) (s, none, 0)

/-! ### Accesses of a job at another module -/

/-- A job whose remote side moves as a message of its class PRIO (12 R339). -/
def Job.pulls (j : Job) : Bool :=
  match j.kind with
  | .copy => true
  | .gather _ => true
  | .copyOut _ => true
  | .listed _ _ => false
  | .send _ _ _ _ => false
  | .card _ => false

/-- The first byte of a row, under either of its keys, in the message that its job is. -/
def Job.rowOfs (j : Job) (key : Nat) : Nat := key % j.rowTotal * j.box.rowBytes

/-- The message of a job's copy to a chip of another module. -/
def State.copySend? (s : State) (job pchip : Nat) : Option Send :=
  s.traffic.sends.find? fun x => x.job == job && x.copy && x.pchip == pchip

/-- The pod chip number that a piece on another module lies at. -/
def State.pieceChip (s : State) (j : Job) (p : Piece) : Option Nat :=
  match p.far?, s.chip? j.lci with
  | some h, some c => some (podChip c.ident.chw h.2)
  | _, _ => none

/-- The bytes of a piece that a store carries: a nibble outside a WO line is written by atomics. -/
def Piece.stored (p : Piece) : Nat :=
  match p.far? with
  | some h => if p.nib && h.1.cls != .wo then 0 else p.len
  | none => 0

/-- Class and token of the next piece that a copy writes: the token that covers its first byte, 0 in the prefix. What has left
grows by its bytes. -/
def State.pullTag (s : State) (j : Job) (p : Piece) : Option (Nat × Nat) × State :=
  match (s.pieceChip j p).bind fun c => s.copySend? j.id c with
  | none => (none, s)
  | some x =>
    let serves := fun (k : Nat × Nat × Nat × Nat) =>
      decide (s.gtc + 40 < k.2.2.2) && decide (k.2.1 ≤ x.sentTo) && decide (x.sentTo < k.2.1 + k.2.2.1)
    let tok := (x.tokens.find? serves).map (·.1)
    let n := x.sentTo + p.stored
    (some (x.prio, tok.getD 0), s.modTraffic fun t => { t with sends := t.sends.map fun y =>
      if y.id == x.id then { y with sentTo := n, tokens := y.tokens.filter fun k => decide (n < k.2.1 + k.2.2.1) } else y })

/-- Queues the read of a remote piece, under the piece's number. -/
def State.askPiece (s : State) (j : Job) (key : Nat) (p : Piece) : State :=
  match p.far? with
  | none => s
  | some h =>
    (s.recallOwn j.team h.1.cls h.2).hwTxn j.lci j.id key (s.jobWho j).agent (some j.team) h.1.cls h.1.s2cls .device h.2
      p.len p.idx none (if j.pulls then some (j.prio, 0) else none)

/-- A nibble that follows the piece before it in one WO line is part of that write. -/
def joinNib : List Piece → List Piece
  | [] => []
  | [p] => [p]
  | p :: q :: r =>
    match p.far? with
    | some h =>
      if q.nib && h.1.cls == .wo && p.va / 128 == q.va / 128 then [{ p with len := p.len + 1, nib := true }]
      else p :: joinNib (q :: r)
    | none => p :: joinNib (q :: r)

/-- The bytes of a piece; of its last byte only the low nibble where that is an in-bounds nibble (12 R333). -/
def Piece.cut (p : Piece) (row : List Byte) : List Byte :=
  let d := (row.drop p.ofs).take p.len
  if p.nib then d.dropLast ++ (d.drop (d.length - 1)).map fun b => b &&& 0x0F else d

/-- Queues the write of a remote piece. A nibble of a line that is not WO is written by two atomics, which keep the other
nibble; the other nibble of a WO line's byte is zero (12 R333, 04 R131; log 46). The first time it leaves, it leaves under a
token (16 R427). -/
def State.sendPiece (s : State) (j : Job) (key : Nat) (row : List Byte) (first : Bool) (p : Piece) : State :=
  match p.far? with
  | none => s
  | some h =>
    let s := s.recallOwn j.team h.1.cls h.2
    let d := p.cut row
    let ag := (s.jobWho j).agent
    let r := if first then s.pullTag j p else (none, s)
    let tag := r.1
    let s := r.2
    if p.nib && h.1.cls != .wo then
      let w := h.2 / 4 * 4
      let sh := 8 * (h.2 % 4)
      let keep := 0xFFFFFFFF - 15 * 2 ^ sh
      let s := s.hwSend j.lci j.id key ag (some j.team) h.1.cls h.1.s2cls .device w 4 p.idx (.atomic .andB32 false)
        (natLe 4 keep) tag
      s.hwSend j.lci j.id key ag (some j.team) h.1.cls h.1.s2cls .device w 4 p.idx (.atomic .orB32 false)
        (natLe 4 (leNat d % 16 * 2 ^ sh)) tag
    else s.hwTxn j.lci j.id key ag (some j.team) h.1.cls h.1.s2cls .device h.2 p.len p.idx (some d) tag

/-- The answer that the fetches of a key hold for a piece. -/
def fetchOf (l : List Fetch) (idx : Nat) : Option LaneAns :=
  l.findSome? fun f => (f.ans.getD []).find? fun a => a.lane == idx

/-- Pieces that a home did not perform: its page was not resident, or a WO line was unwritten. -/
def unserved (l : List Fetch) (ps : List Piece) : List Piece :=
  ps.filter fun p => l.any fun f => (f.ans.getD []).any fun a => a.lane == p.idx && !a.valid && a.cause.isNone

/-- Asks the home of a page for it. Where an unwritten WO line is the reason the home answers at once, and the piece is read
again (02 R65, R67, 12 R336). -/
def State.askHome (s : State) (j : Job) (k : AccKind) (p : Piece) : State :=
  match p.far? with
  | none => s
  | some h =>
    let r := s.askFar j.die j.lci h.2 (pageAcc k true) (.job j.id p.va)
    if r.2 then r.1.modJob j.id fun x => { x with held := true } else s.jobFault j.id Cause.peerLost p.va

/-- The effect time that answered fetches bring, at pod scope (04 R125, R149). -/
def fetchTime (l : List Fetch) : Nat := ((l.map Fetch.time).max?.getD 0)

/-! ### Rows -/

/-- A row that has been performed. -/
def State.rowDone (s : State) (j : Job) (row : Nat) : State :=
  let s := (s.dropFetches j.id row).dropFetches j.id (row + j.rowTotal)
  s.modJob j.id fun x => { x with rows := x.rows.filter fun r => r != row, begun := x.begun.filter fun p => p.1 != row }

/-- A row whose source read has begun, with what has been read. -/
def State.rowBegun (s : State) (j : Job) (row : Nat) (l : List Byte) : State :=
  s.modJob j.id fun x => { x with begun := (row, l) :: x.begun.filter fun p => p.1 != row }

/-- A row that met a fault is given up, and the job faults (12 R336). -/
def State.rowFault (s : State) (j : Job) (row cause va : Nat) : State := (s.jobFault j.id cause va).rowDone j row

/-- The outcome of a row's read. -/
inductive RowRead where
  | later (s : State)
  | data (l : List Byte) (s : State)
  deriving DecidableEq, Repr

/-- Places the answers of pieces in a row of zeros; a nibble's byte keeps its in-bounds nibble only (12 R333). -/
def placeRow (n : Nat) (l : List (Piece × LaneAns)) : List Byte :=
  l.foldl (fun row p =>
    let d := if p.1.nib then [BitVec.ofNat 8 (leNat p.2.data % 16)] else p.2.data
    patch row p.1.ofs d) (List.replicate n 0)

/-- The outcome of reading or writing a run of bytes for an engine. -/
inductive RunOut where
  /-- Nothing can be done yet. -/
  | wait (s : State)
  /-- A page of this module's view is not resident. -/
  | page (s : State) (kind fa va level : Nat)
  /-- The home of a piece did not serve it. -/
  | far (s : State) (p : Piece)
  | fault (s : State) (cause va : Nat)
  /-- Done: the bytes read, or the effect time of what was written. -/
  | done (s : State) (l : List Byte) (time : Nat)
  deriving DecidableEq, Repr

/-- Reads a run of parts from global memory into `n` bytes: local pieces at their banks, remote ones through fetches under
`key` (12 R333, R339). -/
def State.loadRun (s : State) (j : Job) (key n : Nat) (parts : List (Nat × Nat × Nat × Bool)) : RunOut :=
  let r := s.pieces j.die j.lci .read parts
  match reachOf r.1 with
  | .fail c va => .fault r.2 c va
  | .nonres k a va lv => .page r.2 k a va lv
  | .ok =>
    let far := r.1.filter fun p => p.far?.isSome
    let fs := r.2.fetchesOf j.id key
    if r.1.any r.2.readBlocked then .wait s
    else if !far.isEmpty && fs.isEmpty then .wait (far.foldl (fun s p => s.askPiece j key p) r.2)
    else if !fetchesDone fs then .wait s
    else
      match fetchCause fs with
      | some c => .fault r.2 c.1 c.2
      | none =>
        match (unserved fs far).head? with
        | some p => .far (r.2.dropFetches j.id key) p
        | none =>
          let q := r.1.foldl (fun (a : State × List (Piece × LaneAns)) p =>
            match fetchOf fs p.idx with
            | some ans => (a.1, a.2 ++ [(p, ans)])
            | none => let x := a.1.readPiece j p; (x.1, a.2 ++ [(p, x.2)])) (r.2, [])
          match q.2.findSome? fun p => p.2.cause with
          | some c => .fault q.1 c.1 c.2
          | none => .done q.1 (placeRow n q.2) 0

/-- Writes a run of parts: the remote pieces that `again` selects are sent under `key`. -/
def State.putRun (s : State) (j : Job) (key : Nat) (data : List Byte) (first : Bool) (far : List Piece) : State :=
  far.foldl (fun s p => s.sendPiece j key data first p) s

/-- Notes the effect time of a write of a job or card. -/
def State.jobEffect (s : State) (j : Job) (t : Nat) : State :=
  (s.modJob j.id fun x => { x with effect := max x.effect t }).modCard j.id fun x => { x with effect := max x.effect t }

/-- Writes a run of bytes to global memory: local pieces at once, remote ones under `key`, sent again after a page of their
home has come (12 R339). -/
def State.storeRun (s : State) (j : Job) (key : Nat) (parts : List (Nat × Nat × Nat × Bool)) (data : List Byte) : RunOut :=
  let r := s.pieces j.die j.lci .write parts
  let fs := s.fetchesOf j.id key
  match reachOf r.1 with
  | .fail c va => .fault r.2 c va
  | .nonres k a va lv => .page r.2 k a va lv
  | .ok =>
    let far := joinNib (r.1.filter fun p => p.far?.isSome)
    if fs.isEmpty then
      if r.1.any r.2.writeBlocked then .wait r.2
      else
        let w := r.2.writePieces j r.1 data
        match w.2.1 with
        | some c => .fault w.1 c.1 c.2
        | none => if far.isEmpty then .done w.1 [] w.2.2 else .wait ((w.1.jobEffect j w.2.2).putRun j key data true far)
    else if !fetchesDone fs then .wait s
    else
      match fetchCause fs with
      | some c => .fault r.2 c.1 c.2
      | none =>
        let again := unserved fs far
        match again.head? with
        | none => .done (s.dropFetches j.id key) [] (fetchTime fs)
        | some p => .far ((s.dropFetches j.id key).putRun j key data false again) p

/-- Bytes in global memory have begun to be read when a fetch is under way. -/
def State.rowAsked (s : State) (j : Job) (row : Nat) : State :=
  if (s.fetchesOf j.id row).isEmpty then s else s.rowBegun j row []

/-- The whole read of a row from global memory (12 R333, R339). -/
def State.rowLoad (s : State) (j : Job) (row : Nat) : RowRead :=
  let n := j.box.rowBytes
  match j.part row with
  | none => .data (List.replicate n 0) s
  | some part =>
    match s.loadRun j row n part.parts with
    | .wait s => .later (s.rowAsked j row)
    | .page s k a va lv => .later (s.holdJob j .read k a va lv)
    | .far s p => .later (s.askHome j .read p)
    | .fault s c va => .later (s.rowFault j row c va)
    | .done s l _ => .data l (s.dropFetches j.id row)

/-- The source of a row has been read: OUTBOUND falls on the barriers that count it. -/
def State.countRead (s : State) (j : Job) : State :=
  let u : Int := -((j.box.rowBytes / 16 : Nat) : Int)
  (if j.obar = j.bar then [j.bar] else [j.bar, j.obar]).foldl (fun s b => s.countOn j b 0 0 u) s

/-- Watchpoints of a row's scratchpad side (17 R447). -/
def State.watchRow (s : State) (j : Job) (row : Nat) (k : WatchKind) : State :=
  match s.team? j.team with
  | none => s
  | some t =>
    if j.box.swz = 0 then s.watchAccess t k 2 (j.box.dst + row * j.box.rowBytes) j.box.rowBytes
    else (j.box.rowUnits row).foldl (fun s o => s.watchAccess t k 2 o 16) s

/-- Why a row may not touch the scratchpad: rights, and for a write a held window (03 R102, R106). -/
def Team.rowCause (t : Team) (j : Job) (row : Nat) (write : Bool) : Option (Nat × Nat) :=
  (j.box.rowUnits row).findSome? fun o =>
    if !t.rightsOk o 16 then some (Cause.spadRights, o)
    else if write && (t.window o).held then some (Cause.window, o)
    else if !write && t.spadBad o 16 then some (Cause.poison, o)
    else none

/-- A row lands in the scratchpad, with its INBOUND count (12 R339). -/
def State.landRow (s : State) (j : Job) (row : Nat) (l : List Byte) : State :=
  match s.team? j.team with
  | none => s.rowFault j row Cause.access j.box.dst
  | some t =>
    match t.rowCause j row true with
    | some c => s.rowFault j row c.1 c.2
    | none =>
      let s := s.setTeam (t.rowWrite j.box row l)
      let s := s.watchRow j row .store
      (s.countOn j j.bar 0 (-((j.box.rowBytes / 16 : Nat) : Int)) 0).rowDone j row

/-- A row of a box that goes to the scratchpad. -/
def State.rowIn (s : State) (j : Job) (row : Nat) : State :=
  match s.rowLoad j row with
  | .later s => s
  | .data l s => s.landRow j row l

/-- What a row writes to global memory; `begun` once its remote pieces have left (12 R339). -/
def State.rowSend (s : State) (j : Job) (row key : Nat) (parts : List (Nat × Nat × Nat × Bool)) (data : List Byte) : State :=
  match s.storeRun j key parts data with
  | .wait s => s.rowBegun j row data
  | .page s k a va lv => (s.rowBegun j row data).holdJob j .write k a va lv
  | .far s p => (s.rowBegun j row data).askHome j .write p
  | .fault s c va => s.rowFault j row c va
  | .done s _ t => (s.jobEffect j t).rowDone j row

/-- Whether a row's global side can be written now: `none`, or what happens instead. -/
def State.rowBlocked (s : State) (j : Job) (row : Nat) (parts : List (Nat × Nat × Nat × Bool)) : Option State :=
  let r := s.pieces j.die j.lci .write parts
  match reachOf r.1 with
  | .fail c va => some (r.2.rowFault j row c va)
  | .nonres k a va lv => some (r.2.holdJob j .write k a va lv)
  | .ok => if r.1.any r.2.writeBlocked then some s else none

/-- A row of a box that goes from the scratchpad to global memory. -/
def State.rowOut (s : State) (j : Job) (row : Nat) : State :=
  let parts := match j.part row with | some p => p.parts | none => []
  match j.begun.find? fun p => p.1 == row with
  | some p => s.rowSend j row row parts p.2
  | none =>
    match s.team? j.team with
    | none => s.rowFault j row Cause.access j.box.dst
    | some t =>
      match t.rowCause j row false with
      | some c => s.rowFault j row c.1 c.2
      | none =>
        match s.rowBlocked j row parts with
        | some s => s
        | none => ((s.watchRow j row .load).countRead j).rowSend j row row parts (t.rowRead j.box row)

/-- A row of a box that goes from global memory to DEST, packed and unswizzled (12 R341). -/
def State.rowAcross (s : State) (j : Job) (dest row : Nat) : State :=
  let n := j.box.rowBytes
  match j.begun.find? fun p => p.1 == row && !p.2.isEmpty with
  | some p => s.rowSend j row (row + j.rowTotal) (RowPart.mk (dest + row * n) 0 n false).parts p.2
  | none =>
    match s.rowLoad j row with
    | .later s => s
    | .data l s => s.rowBegun j row l

end Sys2Proof.Machine
end

