-- ==== Sys2Proof/Machine/Recv.lean ====
section
/-! DEFINITION. The receiving side of messages: placement in posted buffers and receive logs, landing, headers, completion
and orphans (12 R353, R354, 16 R427 to R433). -/

namespace Sys2Proof.Machine

/-! ### Runs of bytes -/

/-- Whether runs cover `p` to `n - 1`; `k` bounds the runs looked at. -/
def runsCover : Nat → List (Nat × Nat) → Nat → Nat → Bool
  | 0, _, p, n => decide (n ≤ p)
  | k + 1, l, p, n =>
    if n ≤ p then true
    else
      match l.find? fun r => decide (r.1 ≤ p) && decide (p < r.1 + r.2) with
      | some r => runsCover k l (r.1 + r.2) n
      | none => false

/-- Runs cover a range. -/
def covered (l : List (Nat × Nat)) (ofs len : Nat) : Bool := runsCover (l.length + 1) l ofs (ofs + len)

/-- Adds a run; one that continues another extends it. -/
def addRun (l : List (Nat × Nat)) (ofs len : Nat) : List (Nat × Nat) :=
  if len = 0 || covered l ofs len then l
  else if l.any fun r => r.1 + r.2 == ofs then l.map fun r => if r.1 + r.2 == ofs then (r.1, r.2 + len) else r
  else l ++ [(ofs, len)]

/-! ### Requests -/

/-- The request of a number. -/
def State.msg? (s : State) (id : Nat) : Option MsgReq := s.traffic.msgs.find? fun m => m.id == id
/-- Applies `f` to a request. -/
def State.modMsg (s : State) (id : Nat) (f : MsgReq → MsgReq) : State :=
  s.modTraffic fun t => { t with msgs := t.msgs.map fun m => if m.id == id then f m else m }
/-- Removes a request with its tokens. -/
def State.dropMsg (s : State) (id : Nat) : State :=
  s.modTraffic fun t => { t with
    msgs := t.msgs.filter (fun m => m.id != id)
    tokens := t.tokens.filter fun k => k.req != id
    fetches := t.fetches.filter fun f => f.owner != id }

/-- Transport parameter `k` of a guest in the order of Table 16.6. -/
def State.param (s : State) (gid k : Nat) : Nat := (s.guest gid).params.getD k 0
/-- PREFIX. -/
def parPrefix : Nat := 0
/-- TEXP. -/
def parTexp : Nat := 1
/-- ORPH. -/
def parOrph : Nat := 2
/-- AGE. -/
def parAge : Nat := 7

/-! ### Writes of the fabric unit into a chip's memory -/

/-- The outcome of landing bytes: the time from which they are seen at pod scope; a page that is not resident; a fault. -/
inductive Landed where
  | ok (s : State) (time : Nat)
  | waits (s : State)
  | fault (s : State) (cause : Nat)
  deriving DecidableEq, Repr

/-- Translates through the fabric unit's TLB of a die (02 R60). -/
def State.fabXlate (s : State) (die lci : Nat) (k : AccKind) (va : Nat) : Xl × State :=
  let r := s.xlateDie die true lci va k
  (r.1, match r.1 with | .fail _ t => r.2.noteTable lci t | _ => r.2)

/-- The key of the fetch that writes message bytes `ofs` to `ofs + len - 1` at another module; 0 is the header's. -/
def landKey (ofs len : Nat) : Nat := 1 + len + 2 ^ 33 * ofs
/-- The run of a key. -/
def landRun (key : Nat) : Nat × Nat := (key / 2 ^ 33, key % 2 ^ 33 - 1)

/-- Writes bytes at a VA of a chip for its fabric unit, page by page and line by line; `w` waits for pages (12 R353, 16
R432, 02 R65). Lines of other modules are sent under the owner, with the place `ofs` of the bytes in the message, or as a
header; they have landed once their stores are acknowledged (04 R154). -/
def State.landBytes (s : State) (die lci owner va : Nat) (ofs : Option Nat) (w : PageWaiter) (l : List Byte) : Landed :=
  let pchip := match s.chip? lci with | some c => c.ident.pchip | none => 0
  let outs := (partsOf va l.length).foldl (fun (a : List Piece × State) p =>
    let r := a.2.fabXlate die lci .write p.1
    (a.1 ++ [{ idx := 0, va := p.1, ofs := p.1 - va, len := p.2, nib := false, out := r.1 }], r.2)) ([], s)
  let s := outs.2
  match reachOf outs.1 with
  | .fail c _ => .fault s c
  | .nonres k fa a lv =>
    (match s.requestPage die (s.pageVf lci k fa) k fa a lv (pageAcc .write true) pchip w with
     | none => .fault s Cause.invalidPage
     | some r => .waits (r.1.failWaiters r.2))
  | .ok =>
    if outs.1.any s.writeBlocked then .waits s
    else
      let who : Who := { agent := hwAgent pchip, team := none, writer := some pchip, checked := false }
      let r := outs.1.foldl (fun (a : State × Nat × Option Nat) p =>
        let d := (l.drop p.ofs).take p.len
        match p.here?, p.far? with
        | some h, _ =>
          let q := a.1.bankStore { lci := h.2.1, line := h.2.2 / 128, cls := h.1.cls, sync := false, scope := .pod, who := who,
                                   lanes := [{ lane := 0, addr := h.2.2, bytes := p.len, data := d, ea := p.va }] }
          (q.st, max a.2.1 (q.time + 40), a.2.2 <|> (q.answers.findSome? LaneAns.cause).map (·.1))
        | none, some h =>
          let key := match ofs with | some o => landKey (o + p.ofs) p.len | none => 0
          (a.1.hwTxn lci owner key (hwAgent pchip) none h.1.cls h.1.s2cls .pod h.2 p.len 0 (some d), a.2.1, a.2.2)
        | none, none => a) (s, s.gtc, none)
      match r.2.2 with
      | some c => .fault r.1 c
      | none => .ok r.1 r.2.1

/-! ### Headers (Table 12.8) -/

/-- A message header. -/
def msgHeader (len tag src seq : Nat) (done trunc fault drop : Bool) (stamp : Nat) : List Byte :=
  natLe 64 (field len 0 32 + field tag 32 32 + field src 64 10 + field seq 80 16 + (if done then 2 ^ 96 else 0) +
    (if trunc then 2 ^ 97 else 0) + (if fault then 2 ^ 98 else 0) + (if drop then 2 ^ 99 else 0) + field stamp 128 64)

/-- A log that is enabled (16 R433). -/
def RxLog.enabled (l : RxLog) : Bool := decide (6 ≤ l.size) && decide (l.size ≤ 21)
/-- VA of a slot. -/
def RxLog.slotVa (l : RxLog) (slot : Nat) : Nat := l.base + 64 * (slot % 2 ^ l.size)
/-- The log of a queue. -/
def State.rxLog (s : State) (lci q : Nat) : RxLog :=
  match s.chip? lci with | some c => smGet RxLog.init c.logs q | none => RxLog.init
/-- Replaces the log of a queue. -/
def State.setLog (s : State) (lci q : Nat) (l : RxLog) : State :=
  s.modChip lci fun c => { c with logs := smSet RxLog.init c.logs q l }

/-- Address of a placed request's header. -/
def State.headVa (s : State) (m : MsgReq) : Option Nat :=
  match m.place with
  | .unplaced => none
  | .buffer va _ _ _ => some va
  | .log slot _ => some ((s.rxLog m.lci m.queue).slotVa slot)
  | .region _ _ _ => none
  | .named => none

/-- Where bytes of a placed request go: address and how many of them fit. -/
def State.dataVa (s : State) (m : MsgReq) (ofs len : Nat) : Option (Nat × Nat) :=
  match m.place with
  | .unplaced => none
  | .buffer va cap _ _ => if cap - 64 ≤ ofs then none else some (va + 64 + ofs, min len (cap - 64 - ofs))
  | .log slot _ => some ((s.rxLog m.lci m.queue).slotVa slot + 64 + ofs, len)
  | .region _ _ _ => none
  | .named => none

/-! ### Placement (16 R428, R433) -/

/-- The slots that a message needs. -/
def logSlots (len : Nat) : Nat := 1 + ceilDiv len 64

/-- Reserves an entry, after a pad where the ring ends; `none` when the log is full. -/
def State.reserveLog (s : State) (die lci q len : Nat) : Option (State × Placement) :=
  let l := s.rxLog lci q
  let n := 2 ^ l.size
  let need := logSlots len
  let pos := l.tail % n
  let pad := if pos + need ≤ n then 0 else n - pos
  let used := ringUsed l.tail l.head
  if n < used + pad + need then none
  else
    let s :=
      if pad = 0 then s
      else
        match s.landBytes die lci s.ids (l.slotVa l.tail) none (.ring lci 0) (msgHeader (64 * pad) 0 0 0 false false false true 0) with
        | .ok t _ => t.dropFetches s.ids 0
        | .waits s => s
        | .fault s _ => s
    let slot := (l.tail + pad) % 2 ^ 32
    let l := { s.rxLog lci q with
      tail := (l.tail + pad + need) % 2 ^ 32
      entries := l.entries ++ (if pad = 0 then [] else [(l.tail, pad, true)]) ++ [(slot, need, false)] }
    some (s.setLog lci q l, .log slot need)

/-- The first posted buffer whose filter admits a tag, and the list without it (12 R353). -/
def takeBuffer (l : List PostBuf) (tag : Word) : Option (PostBuf × List PostBuf) :=
  match l.zipIdx.find? fun p => p.1.filter == tag || p.1.filter == 0xFFFFFFFF with
  | some p => some (p.1, l.eraseIdx p.2)
  | none => none

/-- Counts a request that waits unplaced, with LOG_FULL once (16 R428, Table 16.9). -/
def State.noteUnplaced (s : State) (lci q : Nat) : State :=
  let l := s.rxLog lci q
  let s := s.setLog lci q { l with waitq := l.waitq + 1, fullPosted := true }
  if l.fullPosted then s else s.postEvent lci 0x0049 q (l.waitq + 1)

/-- A request that waited has been placed. -/
def State.notePlaced (s : State) (lci q : Nat) : State :=
  let l := s.rxLog lci q
  s.setLog lci q { l with waitq := l.waitq - 1, fullPosted := l.fullPosted && decide (1 < l.waitq) }

/-- What becomes of a MSG_REQ. -/
inductive Arrival where
  | nak (reason : Nat)
  | taken (s : State)
  deriving DecidableEq, Repr

/-- A message request arrives at a die for a chip (16 R428). -/
def State.arriveMsg (s : State) (die lci src queue msgid len prio : Nat) (tag : Word) (spad : Bool) (peer : Nat) : Arrival :=
  match s.chip? lci with
  | none => .nak 2
  | some c =>
    if 63 < queue then .nak 2
    else if 4096 ≤ (s.traffic.msgs.filter fun m => m.die == die).length then .nak 1
    else
      let r := s.fresh
      let m : MsgReq := {
        id := r.1, die := die, lci := lci, src := src, queue := queue, msgid := msgid, len := len, prio := prio, tag := tag,
        arrived := s.gtc, lastToken := s.gtc, place := .unplaced, landed := [],
        granted := min (s.param c.ident.gid parPrefix) len, regrant := [], deferred := false, trunc := false, fault := false,
        orphAt := none, peer := peer, effect := 0, headed := false, spad := spad }
      let put := fun (s : State) (p : Placement) => s.modTraffic fun t => { t with msgs := t.msgs ++ [{ m with place := p }] }
      match takeBuffer (smGet [] c.posts queue) tag with
      | some b =>
        .taken (put (r.2.modChip lci fun c => { c with posts := smSet [] c.posts queue b.2 })
          (.buffer b.1.va b.1.cap b.1.bar b.1.team))
      | none =>
        let l := s.rxLog lci queue
        let wait := (r.2.modTraffic fun t => { t with msgs := t.msgs ++ [{ m with granted := 0 }] }).noteUnplaced lci queue
        if !l.enabled then .taken wait
        else if 2 ^ l.size - 1 < logSlots len then .nak 3
        else if l.waitq != 0 then .taken wait
        else
          match r.2.reserveLog die lci queue len with
          | some p => .taken (put p.1 p.2)
          | none => .taken wait

/-- Unplaced requests of a queue take log space in the order of their arrival (16 R428, 12 R354). -/
def State.placeWaiting (s : State) (lci q : Nat) : State :=
  let wait := s.traffic.msgs.filter fun m => m.lci == lci && m.queue == q && m.place == .unplaced
  if !(s.rxLog lci q).enabled then s
  else
    (wait.foldl (fun (a : State × Bool) m =>
      if a.2 then a
      else
        match a.1.reserveLog m.die lci q m.len with
        | some p => ((p.1.modMsg m.id fun x => { x with place := p.2, granted := 0 }).notePlaced lci q, false)
        | none => (a.1, true)) (s, false)).1

/-! ### Landing and completion (16 R430, 12 R353) -/

/-- The request is dropped from its sender's side when the sender is on this module (16 R498). -/
def State.sendAccepted (s : State) (m : MsgReq) : State :=
  s.modTraffic fun t => { t with sends := t.sends.filter fun x =>
    !(x.pchip == (match s.chip? m.lci with | some c => c.ident.pchip | none => 0) && x.queue == m.queue && x.msgid == m.msgid &&
      (match s.chip? x.lci with | some c => c.ident.pchip == m.src && s.gidOf x.lci == s.gidOf m.lci | none => false)) }

/-- The barrier arrival of a posted buffer (12 R353). -/
def State.arriveAt (s : State) (m : MsgReq) : State :=
  match m.place with
  | .buffer _ _ (some o) t => (s.engineCount t o 1 0 0).1
  | _ => s

/-- What remains of runs without a range. -/
def cutRuns (l : List (Nat × Nat)) (ofs len : Nat) : List (Nat × Nat) :=
  (l.flatMap fun r => [(r.1, min r.2 (ofs - r.1)), (max r.1 (ofs + len), r.1 + r.2 - max r.1 (ofs + len))]).filter
    fun r => r.2 != 0

/-- A request whose store under a key was not performed for want of a page: the bytes are granted again, or the header is
written again (02 R65, 16 R432). -/
def MsgReq.again (m : MsgReq) (key : Nat) : MsgReq :=
  if key = 0 then { m with headed := false }
  else { m with landed := cutRuns m.landed (landRun key).1 (landRun key).2, regrant := m.regrant ++ [landRun key] }

/-- Where a key's bytes go. -/
def State.keyVa (s : State) (m : MsgReq) (key : Nat) : Option Nat :=
  if key = 0 then s.headVa m else (s.dataVa m (landRun key).1 (landRun key).2).map (·.1)

/-- Asks the home of a key's bytes for their page (02 R65, R66). -/
def State.askLanding (s : State) (m : MsgReq) (key : Nat) : State :=
  match s.keyVa m key with
  | none => s
  | some va =>
    let r := s.fabXlate m.die m.lci .write va
    match r.1 with
    | .remote _ pod => (r.2.askFar m.die m.lci pod (pageAcc .write true) (.msg m.id)).1
    | .here _ _ => r.2
    | .nonres _ _ _ => r.2
    | .fail _ _ => r.2

/-- An answer to a store of a message at another module: its effect time, a fault, or a page to wait for (04 R154). -/
def State.landAnswer (s : State) (m : MsgReq) (f : Fetch) : State :=
  let l := f.ans.getD []
  let s := s.modTraffic fun t => { t with fetches := t.fetches.filter fun x => x.txn != f.txn }
  if l.any fun a => a.cause.isSome then s.modMsg m.id fun x => { x with fault := true }
  else if l.all LaneAns.valid then s.modMsg m.id fun x => { x with effect := max x.effect f.time }
  else (s.modMsg m.id fun x => x.again f.key).askLanding m f.key

/-- Takes the answers that a message's stores at other modules have received. -/
def State.landAnswers (s : State) (m : MsgReq) : State :=
  (s.traffic.fetches.filter fun f => f.owner == m.id && f.ans.isSome).foldl (fun s f => s.landAnswer m f) s

/-- A message whose bytes have all landed, on this module and by acknowledgement on others: the header, then the arrival or
the log's completion, each a release of what came before (04 R154). -/
def State.msgFinish (s : State) (id : Nat) : State :=
  match s.msg? id with
  | none => s
  | some m =>
    let s := s.landAnswers m
    let m := (s.msg? id).getD m
    if !covered m.landed 0 m.len || s.gtc < m.effect || s.traffic.fetches.any (fun f => f.owner == id) then s
    else if m.headed then ((s.arriveAt m).sendAccepted m).dropMsg id
    else
      match s.headVa m with
      | none => s
      | some va =>
        match s.landBytes m.die m.lci m.id va none (.msg id)
            (msgHeader m.len m.tag.toNat m.src m.msgid true m.trunc m.fault false s.gtc) with
        | .ok s t => s.modMsg id fun x => { x with headed := true, effect := t }
        | .waits s => s
        | .fault s _ => s.modMsg id fun x => { x with headed := true, fault := true }

/-- Notes bytes that have landed or been discarded; tokens whose bytes are all in are used. -/
def State.bytesIn (s : State) (m : MsgReq) (ofs len t : Nat) : State :=
  let orph := s.param (s.gidOf m.lci) parOrph
  let s := s.modMsg m.id fun x => { x with landed := addRun x.landed ofs len, effect := max x.effect t }
  let l := match s.msg? m.id with | some x => x.landed | none => []
  let s := s.modTraffic fun x => { x with tokens := x.tokens.filter fun k => !(k.req == m.id && covered l k.ofs k.len) }
  let more := s.traffic.tokens.any fun k => k.req == m.id
  s.modMsg m.id fun x => { x with orphAt := if more || s.isolated m.peer then some (s.gtc + orph) else none }

/-- Message bytes arrive: `false` when they must wait for a page. -/
def State.dataIn (s : State) (m : MsgReq) (ofs : Nat) (l : List Byte) : State × Bool :=
  if m.place == .unplaced then (s, true)
  else if covered m.landed ofs l.length then (s, true)
  else if m.fault then ((s.bytesIn m ofs l.length 0).msgFinish m.id, true)
  else
    match s.dataVa m ofs l.length with
    | none => (((s.modMsg m.id fun x => { x with trunc := true }).bytesIn m ofs l.length 0).msgFinish m.id, true)
    | some p =>
      let s := if p.2 < l.length then s.modMsg m.id fun x => { x with trunc := true } else s
      match s.landBytes m.die m.lci m.id p.1 (some ofs) (.msg m.id) (l.take p.2) with
      | .waits s => (s, false)
      | .ok s t => ((s.bytesIn m ofs l.length t).msgFinish m.id, true)
      | .fault s _ =>
        (((s.modMsg m.id fun x => { x with fault := true }).bytesIn m ofs l.length 0).msgFinish m.id, true)

/-! ### Tokens at their receiver (Table 16.7) -/

/-- What has been asked for under a void token and has not come is dropped (16 R430). -/
def State.dropPulled (s : State) (m : MsgReq) (k : Token) : State :=
  match m.place with
  | .region owner _ _ =>
    (match s.job? owner with
     | none => s
     | some j =>
       let hit := fun (row : Nat) =>
         decide (j.rowOfs row < k.ofs + k.len) && decide (k.ofs < j.rowOfs row + j.box.rowBytes) && j.rows.contains row
       ((List.range j.rowTotal).filter hit).foldl (fun s row => s.dropFetches owner row) s)
  | .named => s
  | .unplaced => s
  | .buffer _ _ _ _ => s
  | .log _ _ => s

/-- A token becomes void: its range is granted again. -/
def State.voidToken (s : State) (k : Token) : State :=
  let s := match s.msg? k.req with | some m => (s.count k.die m.lci 0xD 1).dropPulled m k | none => s
  let s := s.modTraffic fun t => { t with tokens := t.tokens.filter fun x => !(x.die == k.die && x.num == k.num) }
  s.modMsg k.req fun m => { m with regrant := m.regrant ++ [(k.ofs, k.len)] }

/-- A request is dropped as an orphan (16 R431). -/
def State.orphan (s : State) (m : MsgReq) : State :=
  let s := s.postEvent m.lci 0x0043 (field m.src 0 10 + field m.queue 16 6) m.msgid
  match m.place with
  | .unplaced => (s.notePlaced m.lci m.queue).dropMsg m.id
  | .named => s.dropMsg m.id
  | .region owner _ _ => ((s.jobFault owner Cause.peerLost 0).cardFault owner Cause.peerLost 0).dropMsg m.id
  | _ =>
    let s := match s.headVa m with
      | none => s
      | some va =>
        (match s.landBytes m.die m.lci m.id va none (.msg m.id)
            (msgHeader m.len m.tag.toNat m.src m.msgid false m.trunc m.fault true s.gtc) with
         | .ok s _ => s
         | .waits s => s
         | .fault s _ => s)
    let s := match m.place with
      | .log slot _ =>
        let l := s.rxLog m.lci m.queue
        s.setLog m.lci m.queue { l with entries := l.entries.map fun (e : Nat × Nat × Bool) => if e.1 == slot && !e.2.2 then (e.1, e.2.1, true) else e }
      | _ => s.arriveAt m
    (s.sendAccepted m).dropMsg m.id

end Sys2Proof.Machine
end

