-- ==== Sys2Proof/Machine/Send.lean ====
section
/-! DEFINITION. The sending side of messages: requests, prefixes, tokens served, DEFER and RESUME, NAK (12 R352, 16 R427 to
R430, R498). -/

namespace Sys2Proof.Machine

/-- The message of a number at its sender. -/
def State.send? (s : State) (id : Nat) : Option Send := s.traffic.sends.find? fun x => x.id == id
/-- Applies `f` to a message. -/
def State.modSend (s : State) (id : Nat) (f : Send → Send) : State :=
  s.modTraffic fun t => { t with sends := t.sends.map fun x => if x.id == id then f x else x }
/-- Removes a message. -/
def State.dropSend (s : State) (id : Nat) : State :=
  s.modTraffic fun t => { t with sends := t.sends.filter fun x => x.id != id }

/-- The pod chip number of a chip of this module. -/
def State.pchipOf (s : State) (lci : Nat) : Nat := match s.chip? lci with | some c => c.ident.pchip | none => 0

/-- The local index of a message's destination, when it is on this module (16 R498). -/
def State.sendHere? (s : State) (x : Send) : Option Nat :=
  match s.chipHome (s.gidOf x.lci) x.pchip with
  | .here lci => some lci
  | .peer _ _ => none
  | .unassigned => none

/-- The message's job faults and the message is given up (16 R428, R434). -/
def State.sendFault (s : State) (x : Send) (cause : Nat) : State :=
  (s.jobFault x.job cause ((s.job? x.job).map (fun j => j.box.base) |>.getD 0)).dropSend x.id

/-! ### Control beats (log 40) -/

/-- MSG_REQ: length [31:0], tag [63:32], queue [75:64], class [81:80], source kind [88], and a copy's [89]. -/
def msgReqCtl (len tag queue prio : Nat) (spad : Bool) (copy : Bool := false) : Beat :=
  beatOf [(0, 32, len), (32, 32, tag), (64, 12, queue), (80, 2, prio), (88, 1, if spad then 1 else 0),
    (89, 1, if copy then 1 else 0)]
/-- TOKEN: number [15:0], offset [63:32], length [95:64], expiry [159:96], queue [171:160]. -/
def tokenCtl (num ofs len expiry queue : Nat) : Beat :=
  beatOf [(0, 16, num), (32, 32, ofs), (64, 32, len), (96, 64, expiry), (160, 12, queue)]
/-- DEFER: MSGID [15:0], token [31:16], queue [43:32]; RESUME with token 0. -/
def deferCtl (msgid token queue : Nat) : Beat := beatOf [(0, 16, msgid), (16, 16, token), (32, 12, queue)]
/-- NAK: reason [7:0], queue [43:32]. -/
def nakCtl (reason queue : Nat) : Beat := beatOf [(0, 8, reason), (32, 12, queue)]

/-- A message packet of a chip. -/
def msgDraft (ty src dst addr msgid prio : Nat) (beats : List Beat) : Draft :=
  { ty := ty, src := src, dst := dst, addr := addr, msgid := msgid, prio := prio, cls := 0, scope := 0, beats := beats }

/-- The beats of MSG_DATA: the token number in bits [239:224] of the first, 28 bytes beside it and 32 in each later one. -/
def dataBeats (tok : Nat) (l : List Byte) : List Beat :=
  BitVec.ofNat 256 (leNat (l.take 28) + field tok 224 16) :: beatsOf (ceilDiv (l.length - 28) 32) (l.drop 28)

/-! ### Requests -/

/-- A request's answer of NAK at its sender (16 R428). -/
def State.sendNak (s : State) (x : Send) (reason : Nat) : State :=
  if reason = 1 && x.copy && decide (x.len ≤ x.sentTo) then s.dropSend x.id
  else if reason = 1 && x.copy then
    -- what has left of a copy has been stored, and its request tells of the rest
    s.modSend x.id fun y => { y with nakUntil := some (s.gtc + 10000), len := y.len - y.sentTo, sentTo := 0, tokens := [] }
  else if reason = 1 then s.modSend x.id fun y => { y with nakUntil := some (s.gtc + 10000), sentTo := 0, covered := [], tokens := [] }
  else s.sendFault x Cause.fabric

/-- Sends the request of a message. -/
def State.sendReq (s : State) (x : Send) : State :=
  let gid := s.gidOf x.lci
  let src := s.pchipOf x.lci
  match s.sendDraft gid (msgDraft ptMsgReq src x.pchip 0 x.msgid x.prio
      [msgReqCtl x.len x.tag.toNat x.queue x.prio x.spad x.copy]) with
  | .sent s => s
  | .here lci =>
    (match s.arriveMsg x.die lci src x.queue x.msgid x.len x.prio x.tag x.spad s.hub.position with
     | .taken s => s
     | .nak r => s.sendNak x r)
  | .lost => s.sendFault x Cause.peerLost
  | .unassigned => s.sendFault x Cause.access

/-- The number of a chip's next message to a queue of a chip, and the state in which it is taken (16 R416). -/
def State.nextSeq (s : State) (c : Chip) (lci pchip queue : Nat) : Nat × State :=
  let key := pchip * 4096 + queue
  let n := smGet 0 c.seqs key
  (n % 65536, s.modChip lci fun c => { c with seqs := smSet 0 c.seqs key (n + 1) })

/-- Starts the message of a job: its place resolved against the table in force, its sequence number for the queue, and its
request (01 R36, 16 R416, R427). -/
def State.startSend (s : State) (j : Job) (queue place : Nat) (tag : Word) (spad : Bool) : State :=
  match s.chip? j.lci with
  | none => s
  | some c =>
    match c.chipPlace place with
    | none => s.jobFault j.id Cause.access (placeAddr placeChip place)
    | some pchip =>
      let q := s.nextSeq c j.lci pchip queue
      let r := q.2.fresh
      let x : Send := {
        id := r.1, job := j.id, die := j.die, lci := j.lci, pchip := pchip, queue := queue, msgid := q.1, len := j.bytes,
        prio := j.prio, tag := tag, data := [], sentTo := 0, tokens := [], deferSent := false, nakUntil := none, covered := [],
        team := j.team, spad := spad }
      let s := r.2.modTraffic fun t => { t with sends := t.sends ++ [x] }
      (s.modJob j.id fun y => { y with msg := some x.id }).sendReq x

/-- A message whose chip resumes: its place is resolved again; a message whose place names another chip than before starts
again there, and one whose place names none faults (01 R36, 12 R337). -/
def State.resolveSend (s : State) (x : Send) : State :=
  match s.chip? x.lci, (s.job? x.job).map Job.kind with
  | some c, some (.send queue place _ _) =>
    match c.chipPlace place with
    | none => (s.jobFault x.job Cause.access (placeAddr placeChip place)).dropSend x.id
    | some p =>
      if p = x.pchip then s
      else
        let q := s.nextSeq c x.lci p queue
        let y := { x with pchip := p, msgid := q.1, sentTo := 0, tokens := [], covered := [], deferSent := false, nakUntil := none }
        (q.2.modSend x.id fun _ => y).sendReq y
  | _, _ => s

/-- The messages of a chip that resumes (01 R36). -/
def State.resolveSends (s : State) (lci : Nat) : State :=
  (s.traffic.sends.filter fun x => x.lci == lci).foldl (fun s x => s.resolveSend x) s

/-! ### Data -/

/-- The MSG_DATA packets of a run: offset and bytes. -/
def dataPackets (x : Send) (ofs len : Nat) : List (Nat × List Byte) :=
  (List.range (ceilDiv len 252)).map fun i => (ofs + 252 * i, ((x.data.drop (ofs + 252 * i)).take (min 252 (len - 252 * i))))

/-- The request at this module that a message of this module belongs to. -/
def State.peerMsg (s : State) (x : Send) (lci : Nat) : Option MsgReq :=
  s.traffic.msgs.find? fun m => m.lci == lci && m.queue == x.queue && m.msgid == x.msgid && m.src == s.pchipOf x.lci

/-- Delivers a run to a chip of this module: bytes that have landed are not sent again (16 R498). -/
def State.sendLocal (s : State) (x : Send) (lci ofs len : Nat) : State × Bool :=
  (dataPackets x ofs len).foldl (fun (a : State × Bool) p =>
    if !a.2 then a
    else
      match a.1.peerMsg x lci with
      | none => a
      | some m => a.1.dataIn m p.1 p.2) (s, true)

/-- Sends a run to another module. -/
def State.sendFar (s : State) (x : Send) (tok ofs len : Nat) : State × Bool :=
  (dataPackets x ofs len).foldl (fun (a : State × Bool) p =>
    if !a.2 then a
    else
      match a.1.sendDraft (a.1.gidOf x.lci) (msgDraft ptMsgData (a.1.pchipOf x.lci) x.pchip p.1 x.msgid x.prio (dataBeats tok p.2)) with
      | .sent s => (s, true)
      | .here _ => (a.1, false)
      | .lost => (a.1.sendFault x Cause.peerLost, false)
      | .unassigned => (a.1.sendFault x Cause.fabric, false)) (s, true)

/-- Sends a run of a message. -/
def State.sendRun (s : State) (x : Send) (tok ofs len : Nat) : State × Bool :=
  let r := match s.sendHere? x with
    | some lci => s.sendLocal x lci ofs len
    | none => s.sendFar x tok ofs len
  if r.2 then (r.1.modSend x.id fun y => { y with covered := addRun y.covered ofs len }, true) else r

/-- The source of a message can be read: a scratchpad's team is on its core and its chip is resident (16 R427). -/
def State.sourceHere (s : State) (x : Send) : Bool :=
  !x.spad ||
    ((match s.team? x.team with | some t => t.spadCore?.isSome | none => false) &&
      (match s.chip? x.lci with | some c => c.res.resident | none => false))

/-- A DEFER at the receiver of a message: a token is void, the request waits (Table 16.7). -/
def State.deferMsg (s : State) (lci src queue msgid num : Nat) : State :=
  match s.traffic.msgs.find? fun m => m.lci == lci && m.src == src && m.queue == queue && m.msgid == msgid with
  | none => s
  | some m =>
    let s := match s.traffic.tokens.find? fun k => k.die == m.die && k.num == num && k.req == m.id with
      | some k => s.voidToken k
      | none => s
    s.modMsg m.id fun y => { y with deferred := true }

/-- A RESUME at the receiver of a message. -/
def State.resumeMsg (s : State) (lci src queue msgid : Nat) : State :=
  s.modTraffic fun t => { t with msgs := t.msgs.map fun m =>
    if m.lci == lci && m.src == src && m.queue == queue && m.msgid == msgid then { m with deferred := false } else m }

/-- Sends DEFER for a token, or RESUME. -/
def State.sendDefer (s : State) (x : Send) (tok : Option Nat) : State :=
  let d := msgDraft (if tok.isSome then ptDefer else ptResume) (s.pchipOf x.lci) x.pchip 0 x.msgid x.prio
    [deferCtl x.msgid (tok.getD 0) x.queue]
  match s.sendDraft (s.gidOf x.lci) d with
  | .sent s => s
  | .here lci =>
    (match tok with
     | some n => s.deferMsg lci (s.pchipOf x.lci) x.queue x.msgid n
     | none => s.resumeMsg lci (s.pchipOf x.lci) x.queue x.msgid)
  | .lost => s
  | .unassigned => s

/-- Serves one token: late ones are discarded (16 R427). -/
def State.serveToken (s : State) (id : Nat) (k : Nat × Nat × Nat × Nat) : State :=
  match s.send? id with
  | none => s
  | some x =>
    let gone := fun (s : State) => s.modSend id fun y => { y with tokens := y.tokens.filter fun q => q.1 != k.1 }
    if k.2.2.2 ≤ s.gtc + 40 then gone s
    else
      let r := s.sendRun x k.1 k.2.1 k.2.2.1
      if r.2 then gone r.1 else r.1

/-- What a message's sender can do now: DEFER or RESUME, the prefix once the source has been read, and tokens that wait. -/
def State.pumpSend (s : State) (id : Nat) : State :=
  match s.send? id with
  | none => s
  | some x =>
    let gid := s.gidOf x.lci
    if (s.guest gid).paused || x.nakUntil.isSome then s
    else if !s.sourceHere x then
      let s := x.tokens.foldl (fun s k => s.sendDefer x (some k.1)) s
      s.modSend id fun y => { y with tokens := [], deferSent := y.deferSent || !x.tokens.isEmpty }
    else
      let s := if x.deferSent then (s.sendDefer x none).modSend id fun y => { y with deferSent := false } else s
      if x.data.length < x.len then s
      else
        let pre := min (s.param gid parPrefix) x.len
        let s :=
          if x.sentTo = 0 then
            let r := s.sendRun x 0 0 pre
            if r.2 then r.1.modSend id fun y => { y with sentTo := pre + 1 } else r.1
          else s
        match s.send? id with
        | none => s
        | some y => if y.sentTo = 0 then s else y.tokens.foldl (fun s k => s.serveToken id k) s

/-- A token arrives at the sender of a message (16 R427). -/
def State.tokenIn (s : State) (lci dst queue msgid num ofs len expiry : Nat) : State :=
  match s.traffic.sends.find? fun x => x.lci == lci && x.pchip == dst && x.queue == queue && x.msgid == msgid with
  | none => s
  | some x => (s.modSend x.id fun y => { y with tokens := y.tokens ++ [(num, ofs, len, expiry)] }).pumpSend x.id

/-- The source of a message has been read whole (12 R352). -/
def State.sourceRead (s : State) (id : Nat) (l : List Byte) : State := (s.modSend id fun y => { y with data := l }).pumpSend id

/-- Packets of a message that the next port has not accepted (16 R414). -/
def State.msgUnacked (s : State) (x : Send) : Bool :=
  let mine := fun (p : Packet) =>
    (p.type.toNat == ptMsgData || p.type.toNat == ptMsgReq) && p.src.toNat == s.pchipOf x.lci && p.dst.toNat == x.pchip &&
      p.msgid.toNat == x.msgid
  (s.dies.any fun d => d.2.port.unacked.any mine) || (s.guest (s.gidOf x.lci)).waiting.any mine

/-- The receiver has accepted the last byte of a message (12 R335; log 48). -/
def State.sendDone (s : State) (id : Nat) : Bool :=
  match s.send? id with
  | none => true
  | some x => (s.sendHere? x).isNone && covered x.covered 0 x.len && !s.msgUnacked x

end Sys2Proof.Machine
end

