-- ==== Sys2Proof/Machine/Pulls.lean ====
section
/-! DEFINITION. Pull tokens of copies and collective chunks: what comes from another module waits for a token of this
module's grant scheduler, and what goes there for a token of the other's (00 R9, 12 R339, 16 R427 to R431; log 56). -/

namespace Sys2Proof.Machine

/-- The queue number of a copy in its packets, above every queue (16 R428). -/
def copyQueue : Nat := 0xFFF

/-! ### What comes from another module -/

/-- The bytes that need no token, of a request of an owner under a key. -/
def MsgReq.regionOf (m : MsgReq) (owner key : Nat) : Option Nat :=
  match m.place with
  | .region o k pre => if o = owner && k = key then some pre else none
  | .named => none
  | .unplaced => none
  | .buffer _ _ _ _ => none
  | .log _ _ => none

/-- The request under which an owner reads from a chip of another module, with its prefix. -/
def State.pull? (s : State) (owner key src : Nat) : Option (MsgReq × Nat) :=
  s.traffic.msgs.findSome? fun m => if m.src = src then (m.regionOf owner key).map fun p => (m, p) else none

/-- A die's grant table is full (16 R428). -/
def State.grantsFull (s : State) (die : Nat) : Bool := decide (4096 ≤ (s.traffic.msgs.filter fun m => m.die == die).length)

/-- Enters a copy or chunk in a die's grant table; a full table makes it wait (16 R428). -/
def State.enterPull (s : State) (die lci src msgid len prio : Nat) (landed : List (Nat × Nat)) (place : Nat → Placement) :
    State :=
  if s.grantsFull die then s
  else
    let gid := s.gidOf lci
    let peer := match s.chipHome gid src with
      | .peer i _ => i
      | .here _ => s.hub.position
      | .unassigned => s.hub.position
    let pre := min (s.param gid parPrefix) len
    let r := s.fresh
    r.2.modTraffic fun t => { t with msgs := t.msgs ++ [{
      id := r.1, die := die, lci := lci, src := src, queue := copyQueue, msgid := msgid, len := len, prio := prio, tag := 0,
      arrived := s.gtc, lastToken := s.gtc, place := place pre, landed := landed, granted := pre, regrant := [],
      deferred := false, trunc := false, fault := false, orphAt := none, peer := peer, effect := 0, headed := false,
      spad := false }] }

/-- The runs of a request that may move: its prefix, what has landed, and what its tokens cover. -/
def State.pullRuns (s : State) (m : MsgReq) (pre : Nat) : List (Nat × Nat) :=
  (0, pre) :: m.landed ++ ((s.traffic.tokens.filter fun k => k.req == m.id).map fun k => (k.ofs, k.len))

/-- Whether `n` bytes from `ofs` of a copy from a chip may be asked for; the first question enters its request, of which the
runs `landed` have come already. -/
def State.pullReady (s : State) (die lci owner key src len prio : Nat) (landed : List (Nat × Nat)) (ofs n : Nat) :
    Bool × State :=
  let s := if (s.pull? owner key src).isSome then s else s.enterPull die lci src 0 len prio landed (.region owner key)
  (match s.pull? owner key src with
   | some p => covered (s.pullRuns p.1 p.2) ofs n
   | none => false, s)

/-- Bytes of an owner's copies have come; a request whose bytes are all in is done (Table 16.7). -/
def State.pullIn (s : State) (owner key ofs n : Nat) : State :=
  (s.traffic.msgs.filter fun m => (m.regionOf owner key).isSome && !covered m.landed ofs n).foldl (fun (s : State) m =>
    let s := s.bytesIn m ofs n 0
    match s.msg? m.id with
    | some x => if covered x.landed 0 x.len then s.dropMsg m.id else s
    | none => s) s

/-! ### Rows -/

/-- The pieces of a run of parts on other modules, as they are written. -/
def State.farPieces (s : State) (j : Job) (k : AccKind) (parts : List (Nat × Nat × Nat × Bool)) : List Piece × State :=
  let r := s.pieces j.die j.lci k parts
  (joinNib (r.1.filter fun p => p.far?.isSome), r.2)

/-- The bytes of another module that a row reads or writes: the key of its accesses, and its parts; `sent` selects what a
copy between two global sides writes. -/
def Job.farSide (j : Job) (row : Nat) (sent : Bool) : AccKind × Nat × List (Nat × Nat × Nat × Bool) :=
  let n := j.box.rowBytes
  let part := match j.part row with | some p => p.parts | none => []
  match j.kind with
  | .copyOut dest =>
    if sent then (.write, row + j.rowTotal, (RowPart.mk (dest + row * n) 0 n false).parts) else (.read, row, part)
  | _ => (if j.dir = 0 then .read else .write, row, part)

/-- A copy between two global sides has read a row, which is written next. -/
def Job.hasRead (j : Job) (row : Nat) : Bool := j.begun.any fun p => p.1 == row && !p.2.isEmpty

/-- The bytes of pieces that stores carry to a chip. -/
def State.bytesTo (s : State) (j : Job) (pchip : Nat) (l : List Piece) : Nat :=
  ((l.filter fun p => s.pieceChip j p == some pchip).map Piece.stored).sum

/-! ### What goes to another module -/

/-- Bytes of a job's remaining rows that go to a chip, as far as their pages are known now. -/
def State.copyBytes (s : State) (j : Job) (pchip : Nat) : Nat :=
  (j.rows.map fun row => s.bytesTo j pchip (s.farPieces j .write (j.farSide row true).2.2).1).sum

/-- Sends the request of a job's copy to a chip, of the bytes that are known to go there (16 R427). -/
def State.openCopy (s : State) (j : Job) (pchip : Nat) : State :=
  match s.chip? j.lci with
  | none => s
  | some c =>
    let q := s.nextSeq c j.lci pchip copyQueue
    let r := q.2.fresh
    let x : Send := {
      id := r.1, job := j.id, die := j.die, lci := j.lci, pchip := pchip, queue := copyQueue, msgid := q.1,
      len := s.copyBytes j pchip, prio := j.prio, tag := 0, data := [], sentTo := 0, tokens := [], deferSent := false,
      nakUntil := none, covered := [], team := j.team, spad := j.usesSpad, copy := true }
    let old := fun (y : Send) => y.job == j.id && y.copy && y.pchip == pchip
    (r.2.modTraffic fun t => { t with sends := t.sends.filter (fun y => !old y) ++ [x] }).sendReq x

/-- The runs of a copy that may leave: its prefix, and what its live tokens cover (16 R427). -/
def State.copyRuns (s : State) (x : Send) : List (Nat × Nat) :=
  (0, min (s.param (s.gidOf x.lci) parPrefix) x.len) ::
    (x.tokens.filter fun k => decide (s.gtc + 40 < k.2.2.2)).map fun k => (k.2.1, k.2.2.1)

/-- Whether the next `n` bytes of a job's copy to a chip may leave; the first question sends its request, and so does one
that goes past what the last request told of. -/
def State.copyReady (s : State) (j : Job) (pchip n : Nat) : Bool × State :=
  let told := match s.copySend? j.id pchip with | some x => decide (x.sentTo + n ≤ x.len) | none => false
  let s := if told then s else s.openCopy j pchip
  (match s.copySend? j.id pchip with
   | some x => x.nakUntil.isNone && covered (s.copyRuns x) x.sentTo n
   | none => false, s)

/-! ### The turn of a row -/

/-- The rows that a job has performed, as runs of its message. -/
def Job.doneRuns (j : Job) : List (Nat × Nat) :=
  ((List.range j.rowTotal).filter fun r => !j.rows.contains r).map fun r => (j.rowOfs r, j.box.rowBytes)

/-- Whether a row may move now, its bytes of other modules covered by prefixes and tokens; what has been asked for goes
on. -/
def State.rowPull (s : State) (j : Job) (row : Nat) : Bool × State :=
  let f := j.farSide row (j.hasRead row)
  if !j.pulls || !(s.fetchesOf j.id f.2.1).isEmpty then (true, s)
  else
    let r := s.farPieces j f.1 f.2.2
    ((r.1.filterMap fun p => s.pieceChip j p).eraseDups).foldl (fun (a : Bool × State) p =>
      let q := if f.1 == .read then
          a.2.pullReady j.die j.lci j.id 0 p j.bytes j.prio j.doneRuns (j.rowOfs row) j.box.rowBytes
        else a.2.copyReady j p (a.2.bytesTo j p r.1)
      (a.1 && q.1, q.2)) (true, r.2)

/-- A row that has been read from another module uses up its tokens; `j` is its job before its turn. -/
def State.rowMoved (s : State) (j : Job) (row : Nat) : State :=
  let read := match s.job? j.id with | some x => !x.rows.contains row || x.hasRead row | none => true
  if j.pulls && !j.hasRead row && read then s.pullIn j.id 0 (j.rowOfs row) j.box.rowBytes else s

/-! ### Chunks -/

/-- Whether what a card's chunk takes from members on other modules has come: `l` gives each one's key, pod chip number and
bytes (16 R428). -/
def State.chunkPull (s : State) (die lci owner prio : Nat) (l : List (Nat × Nat × Nat)) : Bool × State :=
  l.foldl (fun (a : Bool × State) q =>
    let r := a.2.pullReady die lci owner q.1 q.2.1 q.2.2 prio [] 0 q.2.2
    (a.1 && r.1, r.2)) (true, s)

/-! ### Ends -/

/-- The requests and messages of an owner's copies go with it. -/
def State.dropPulls (s : State) (owner : Nat) : State :=
  let mine := fun (m : MsgReq) => match m.place with
    | .region o _ _ => o == owner
    | .named => false
    | .unplaced => false
    | .buffer _ _ _ _ => false
    | .log _ _ => false
  ((s.traffic.msgs.filter mine).foldl (fun (s : State) m => s.dropMsg m.id) s).modTraffic fun t =>
    { t with sends := t.sends.filter fun x => !(x.job == owner && x.copy) }

/-! ### Copies of other modules -/

/-- The request of another module's copy that a store's token serves, and the first of its bytes that has not come: with
token 0, the prefix. -/
def State.namedReq (s : State) (lci src tok : Nat) : Option (MsgReq × Nat) :=
  let mine := fun (m : MsgReq) => m.lci == lci && m.src == src && m.place == .named
  let within := fun (ofs len : Nat) (r : Nat × Nat) => decide (ofs ≤ r.1) && decide (r.1 < ofs + len)
  let next := fun (m : MsgReq) (ofs len : Nat) =>
    ((m.landed.filter (within ofs len)).map fun r => min (r.1 + r.2) (ofs + len)).foldl max ofs
  if tok = 0 then
    s.traffic.msgs.findSome? fun m =>
      let pre := min (s.param (s.gidOf m.lci) parPrefix) m.len
      if mine m && next m 0 pre < pre then some (m, next m 0 pre) else none
  else
    s.traffic.tokens.findSome? fun k =>
      if k.num = tok then (s.msg? k.req).bind fun m => if mine m then some (m, next m k.ofs k.len) else none else none

/-- `n` bytes of another module's copy have come under a token: a request whose bytes are all in is done (Table 16.7). -/
def State.namedIn (s : State) (lci src tok n : Nat) : State :=
  match s.namedReq lci src tok with
  | none => s
  | some p =>
    let s := s.bytesIn p.1 p.2 n 0
    match s.msg? p.1.id with
    | some x => if covered x.landed 0 x.len then s.dropMsg x.id else s
    | none => s

end Sys2Proof.Machine
end

