-- ==== Sys2Proof/Machine/Quant.lean ====
section
/-! DEFINITION. Block scaling: code values, the choice of scale and codes, auto mode and outlier lists
(07 R220 to R228). `q8` is the width: 8-bit codes, else 4-bit codes. -/

namespace Sys2Proof.Machine

/-- Magnitudes of the q4 codes 0 to 7 by TYPE, Table 7.4. -/
def q4Mag (ty k : Nat) : Fv :=
  match ty % 4 with
  | 0 => .fin false k 0
  | 1 => if k < 4 then .fin false k (-1) else .fin false (2 + k % 2) ((k / 2 : Nat) - 2 : Int)
  | 2 => if k = 0 then .fin false 0 0 else .fin false 1 ((k : Int) - 7)
  | _ => if k < 4 then .fin false k 0 else .fin false (2 + k % 2) ((k / 2 : Nat) - 1 : Int)

/-- The value of a code of a block's TYPE (07 R222, R223); a reserved TYPE gives NaN. -/
def codeValue (q8 : Bool) (ty code : Nat) : Fv :=
  if q8 then
    match ty % 4 with
    | 0 => fdecode .e4m3 (code % 256)
    | 1 => fdecode .e5m2 (code % 256)
    | 2 => .ofInt (toSigned 8 code)
    | _ => .nan
  else if ty % 4 = 0 then .ofInt (toSigned 4 code)
  else
    match q4Mag ty (code % 8) with
    | .nan => .nan
    | .inf n => .inf n
    | .fin _ m e => if m = 0 then .fin false 0 0 else .fin (decide (8 ≤ code % 16)) m e

/-- The value of an element of a block with scale byte `s` (07 R224). -/
def blockDecode (q8 : Bool) (s code : Nat) : Fv :=
  if s % 64 = 63 || (q8 && s / 64 % 4 == 3) then .nan
  else
    match codeValue q8 (s / 64) code with
    | .nan => .nan
    | .inf n => .inf n
    | .fin n m e => .fin n m (e + (s % 64 : Nat) - 48)

/-- fmax of a type, Tables 7.4 and 7.5. -/
def qfmax (q8 : Bool) (ty : Nat) : Nat :=
  match q8, ty % 4 with
  | true, 0 => 448 | true, 1 => 57344 | true, _ => 127
  | false, 0 => 7 | false, 1 => 6 | false, 2 => 1 | false, _ => 12

/-- The magnitudes that an encoder may choose, by positive code. -/
def qmags (q8 : Bool) (ty : Nat) : List Nat :=
  match q8, ty % 4 with
  | true, 0 => List.range 0x7F
  | true, 1 => List.range 0x7C
  | true, _ => List.range 128
  | false, _ => List.range 8

/-- The code of a magnitude code with a sign. -/
def qsigned (q8 : Bool) (ty k : Nat) (neg : Bool) : Nat :=
  let w := if q8 then 256 else 16
  if k = 0 || !neg then k
  else if (q8 && ty % 4 == 2) || (!q8 && ty % 4 == 0) then w - k
  else w / 2 + k

/-- A value without its sign. -/
def Fv.abs (v : Fv) : Fv := v.modify false true

/-- A finite value scaled by a power of two. -/
def Fv.scale (v : Fv) (k : Int) : Fv :=
  match v with
  | .nan => .nan
  | .inf n => .inf n
  | .fin n m e => .fin n m (e + k)

/-- `nearest(T, y)` (07 R225): least distance, then bit 0 clear. -/
def qnearest (q8 : Bool) (ty : Nat) (y : Fv) : Nat :=
  let v := y.abs
  let e0 := min (-200) (minExpOf [v])
  let key := fun k => 2 * (v.units e0 - (codeValue q8 ty k).units e0).natAbs + k % 2
  let best := (qmags q8 ty).foldl (fun b k => if key k < key b then k else b) 0
  qsigned q8 ty best y.neg

/-- The outcome of `encode()` before outliers are appended. -/
structure QEnc where
  scale : Nat
  ty : Nat
  codes : List Nat
  overs : List Bool
  invalid : Bool
  deriving DecidableEq, Repr

/-- The least e at or above -48 with m at most F * 2^e, for m above 0 (07 R225). -/
def scaleExp (m : Fv) (f : Nat) : Int :=
  match m with
  | .nan => -48
  | .inf _ => -48
  | .fin n a e =>
    if a = 0 then -48
    else
      let k := (Nat.log2 a : Int) + e - Nat.log2 f
      let fits := fun (c : Int) => fcmp (.fin n a e) (.fin false f c) != .gt
      max (-48) (if fits (k - 1) then k - 1 else if fits k then k else k + 1)

/-- A clip ratio with the treatment of Table 11.5: NaN or a value outside (0, 1] acts as 1. -/
def clipRatio (c : Fv) : Fv :=
  let one : Fv := .fin false 1 0
  match c with
  | .nan => one
  | .inf _ => one
  | .fin n m e => if n || m = 0 || fcmp c one == .gt then one else .fin n m e

/-- An invalid block (07 R225). -/
def qInvalid (n : Nat) : QEnc :=
  { scale := 0x3F, ty := 0, codes := List.replicate n 0, overs := List.replicate n false, invalid := true }

/-- `encode()` for one type, without appending (07 R225). -/
def encodeType (q8 : Bool) (ty : Nat) (fixed : Option Int) (clip : Option Fv) (xs : List Fv) : QEnc :=
  let f := qfmax q8 ty
  let above := fun (x : Fv) (k : Int) => fcmp x.abs (.fin false f k) == .gt
  let m := xs.foldl (fun m x => if above x 14 then m else if fcmp x.abs m == .gt then x.abs else m) (.fin false 0 0)
  let m := match clip with | some c => fmulv (clipRatio c) m | none => m
  let e := match fixed with | some e => e | none => scaleExp m f
  { scale := ty % 4 * 64 + (e + 48).toNat, ty := ty,
    codes := xs.map fun x => if above x e then 0 else qnearest q8 ty (x.scale (-e)),
    overs := xs.map fun x => above x e, invalid := false }

/-- The error E_t of auto mode in units of 2^-400 (07 R226). -/
def qerror (q8 : Bool) (q : QEnc) (xs : List Fv) : Nat :=
  ((xs.zip (q.codes.zip q.overs)).map fun p =>
    if p.2.2 then 0
    else (p.1.units (-200) - (blockDecode q8 q.scale p.2.1).units (-200)).natAbs ^ 2).sum

/-- `encode()` with a fixed type or auto mode (07 R225, R226). -/
def encodeBlock (q8 : Bool) (ty : Option Nat) (fixed : Option Int) (clip : Option Fv) (xs : List Fv) : QEnc :=
  if xs.any fun x => match x with | .nan => true | .inf _ => true | .fin _ _ _ => false then qInvalid xs.length
  else
    match ty with
    | some t => encodeType q8 t fixed clip xs
    | none =>
      let q0 := encodeType q8 0 fixed clip xs
      let r := (if q8 then [1, 2] else [1, 2, 3]).foldl (fun (b : QEnc × Nat) t =>
        let q := encodeType q8 t fixed clip xs
        let e := qerror q8 q xs
        if e < b.2 then (q, e) else b) (q0, qerror q8 q0 xs)
      r.1

/-- An outlier list: capacity and count at `ofs` of a scratchpad (07 R227). -/
def listCap (m : SMap Byte) (ofs : Nat) : Nat := leNat (smRead 0 m (ofs + 4) 4)
/-- COUNT of an outlier list. -/
def listCount (m : SMap Byte) (ofs : Nat) : Nat := leNat (smRead 0 m ofs 4)

/-- `append` at a scratchpad of `size` bytes; the second result is `full` (07 R228). -/
def appendOutlier (m : SMap Byte) (size ofs index value : Nat) : SMap Byte × Bool :=
  let n := listCount m ofs
  if n < listCap m ofs && decide (ofs + 8 + 8 * n + 8 ≤ size) then
    (smWrite 0 (smWrite 0 m ofs (natLe 4 (n + 1))) (ofs + 8 + 8 * n) (natLe 4 index ++ natLe 4 value), false)
  else (m, true)

/-- What an encoder's second half leaves: scratchpad, codes, and whether an element was saturated. -/
structure QDone where
  spad : SMap Byte
  codes : List Nat
  full : Bool
  deriving DecidableEq, Repr

/-- Sets bits of sr.qflags (07 R229). -/
def Team.raiseFlags (t : Team) (full invalid : Bool) : Team :=
  { t with qflags := t.qflags ||| (if full then 1 else 0) ||| (if invalid then 2 else 0) }

/-- The code of a saturated element (07 R228). -/
def qsaturated (q8 : Bool) (ty : Nat) (neg : Bool) : Nat := qnearest q8 ty (.fin neg (qfmax q8 ty) 0)

/-- Appends the overflowing elements in increasing order, or saturates them (07 R225, R228). `list` is the list's offset,
`index` the INDEX of element i, `xs` the elements as f32 patterns. -/
def finishBlock (q8 : Bool) (q : QEnc) (m : SMap Byte) (size : Nat) (list : Option Nat) (index : Nat → Nat)
    (xs : List Nat) : QDone :=
  (((xs.zip (q.codes.zip q.overs)).zipIdx).foldl (fun (d : QDone) p =>
    let x := p.1.1
    let code := p.1.2.1
    if p.1.2.2 then
      match list with
      | some ofs =>
        let r := appendOutlier d.spad size ofs (index p.2 % 2 ^ 32) x
        if r.2 then { spad := r.1, codes := d.codes ++ [qsaturated q8 q.ty (decide (2 ^ 31 ≤ x))], full := true }
        else { spad := r.1, codes := d.codes ++ [0], full := d.full }
      | none => { spad := d.spad, codes := d.codes ++ [qsaturated q8 q.ty (decide (2 ^ 31 ≤ x))], full := true }
    else { spad := d.spad, codes := d.codes ++ [code], full := d.full })
    { spad := m, codes := [], full := false })

/-- Code bytes of a block (07 R221). -/
def packCodes (q8 : Bool) (codes : List Nat) : List Nat :=
  if q8 then codes.map (· % 256)
  else (List.range (codes.length / 2)).map fun i => codes.getD (2 * i) 0 % 16 + 16 * (codes.getD (2 * i + 1) 0 % 16)

end Sys2Proof.Machine
end

