-- ==== Sys2Proof/Machine/Collect.lean ====
section
/-! DEFINITION. Collective cards: parsing, posting, matching, chunks and completion; the end of a record or card in memory
(12 R344, R348 to R351). -/

namespace Sys2Proof.Machine

/-! ### Cards (Table 12.7) -/

/-- A card that breaks no rule of Table 12.7. -/
def cardOk (n : Nat) : Bool :=
  let q8 := bits n 4 4 == 2
  bits n 0 1 == 1 && bits n 576 448 == 0 && bits n 480 32 == 0 && bits n 448 8 == 0 && bits n 56 8 == 0 &&
    decide (bits n 1 3 ≤ 3) && decide (bits n 4 4 ≤ 2) && bits n 8 2 != 3 && (!q8 || bits n 8 2 == 0) && bits n 13 2 != 3 &&
    (bits n 12 1 == 0 || bits n 13 2 == 0) && decide (2 ≤ bits n 40 8) && decide (bits n 40 8 ≤ 64) &&
    decide (bits n 32 8 < bits n 40 8) && (bits n 1 3 != 3 || decide (bits n 48 8 < bits n 40 8)) && bits n 256 32 != 0 &&
    (!q8 || bits n 256 32 % 32 == 0) && bits n 288 32 != 0 && bits n 288 32 % 4096 == 0 && bits n 472 8 != 0

/-- A card read at a VA, not yet started. -/
def cardOf (id die ch lci pchip : Nat) (team : TeamId) (record : Option Nat) (va n : Nat) : Card :=
  { id := id, die := die, lci := lci, pchip := pchip, team := team, va := va, op := bits n 1 3, dt := bits n 4 4,
    rop := bits n 8 2, prio := bits n 10 2, auto := bits n 12 1 == 1, qt := bits n 13 2, evt := bits n 15 1 == 1,
    tag := bits n 16 16, rank := bits n 32 8, nmem := bits n 40 8, root := bits n 48 8, memb := bits n 64 64,
    send := bits n 128 64, recv := bits n 192 64, count := bits n 256 32, chunk := bits n 288 32, sscale := bits n 320 64,
    rscale := bits n 384 64, barb := bits n 456 16, nbar := bits n 472 8, started := false, members := [], chunks := [],
    qsat := false, record := record, ch := ch, instance_ := 0, outcome := 0, cause := 0, effect := 0, counting := [],
    begun := [], order := 0, held := false, skip := false }

/-- A card's requests at banks and pages are those of a job of its team (04 R149, R151). -/
def Card.job (c : Card) (owner : Nat) : Job :=
  { id := owner, die := c.die, ch := c.ch, lci := c.lci, team := c.team, pchip := c.pchip, kind := .card c.va, dir := 0,
    box := { base := 0, dtype := .i8, rank := 1, ext := [], stride := [], box := [], org := [], dst := 0, swz := 0, bar := none },
    rows := [], bytes := 0, bar := none, arr := false, obar := none, cbar := none, prio := c.prio, prom := 0, started := true,
    foot := [], record := none, evt := false, msg := none, held := false, core := c.die * 128, order := 0, begun := [],
    outcome := 0, cause := 0, effect := 0, rec0 := 0, skip := false }

/-- Holds a card on a page (02 R65, R69). -/
def State.holdCard (s : State) (c : Card) (k : AccKind) (kind fa va level : Nat) : State :=
  if c.held then s
  else
    match s.requestPage c.die (s.pageVf c.lci kind fa) kind fa va level (pageAcc k true) c.pchip (.job c.id va) with
    | none => s.cardFault c.id Cause.invalidPage va
    | some r => (r.1.modCard c.id fun x => { x with held := true }).failWaiters r.2

/-- Asks the home of a page that a card needs. -/
def State.askCard (s : State) (c : Card) (k : AccKind) (p : Piece) : State :=
  match p.far? with
  | none => s
  | some h =>
    if c.held || (h.1.cls == .wo && k == .read && !h.1.s2cls) then s
    else
      let r := s.askFar c.die c.lci h.2 (pageAcc k true) (.job c.id p.va)
      if r.2 then r.1.modCard c.id fun x => { x with held := true } else s.cardFault c.id Cause.peerLost p.va

/-- Carries the outcome of a run of a card to `k`. -/
def State.cardRun (c : Card) (acc : AccKind) (o : RunOut) (k : State → List Byte → Nat → State) : State :=
  match o with
  | .wait s => s
  | .page s kind fa va lv => s.holdCard c acc kind fa va lv
  | .far s p => s.askCard c acc p
  | .fault s cause va => s.cardFault c.id cause va
  | .done s l t => k s l t

/-- Posts a card on a die; the collective engine holds 64 (12 R348). -/
def State.postCard (s : State) (c : Card) : State := s.modTraffic fun t => { t with cards := t.cards ++ [c] }
/-- The die's collective engine is full. -/
def State.cardsFull (s : State) (die : Nat) : Bool := decide (64 ≤ (s.traffic.cards.filter fun c => c.die == die).length)

/-! ### Start and matching (12 R349, 01 R36) -/

/-- The 16-bit entries of a member list. -/
def memberFields (l : List Byte) (n : Nat) : List Nat := (List.range n).map fun r => leNat ((l.drop (2 * r)).take 2)

/-- The outcome of resolving a member list: a cause and an address, or the pod chip numbers. -/
def State.resolveMembers (s : State) (ch : Chip) (l : List Nat) : (Nat × Nat) ⊕ List Nat :=
  l.foldl (fun (a : (Nat × Nat) ⊕ List Nat) f =>
    match a with
    | .inl e => .inl e
    | .inr r =>
      if 4096 ≤ f then .inl (Cause.reservedBits, f)
      else
        match ch.chipPlace f with
        | none => .inl (Cause.access, placeAddr placeChip f)
        | some p =>
          (match s.chipHome ch.ident.gid p with
           | .unassigned => .inl (Cause.access, placeAddr placeChip f)
           | .here _ => .inr (r ++ [p])
           | .peer _ _ => .inr (r ++ [p]))) (.inr [])

/-- Two cards of one instance. -/
def State.sameInstance (s : State) (a b : Card) : Bool :=
  a.started && b.started && a.tag == b.tag && a.members == b.members && a.instance_ == b.instance_ && s.gidOf a.lci == s.gidOf b.lci

/-- The matched cards of this module, with the card itself. -/
def State.matched (s : State) (c : Card) : List Card := s.traffic.cards.filter fun x => s.sameInstance x c

/-- Matched cards agree. -/
def Card.agrees (a b : Card) : Bool :=
  a.op == b.op && a.dt == b.dt && a.rop == b.rop && a.nmem == b.nmem && a.count == b.count && a.chunk == b.chunk &&
    (a.id == b.id || a.rank != b.rank)

/-- A member of the list is on a module that has been isolated. -/
def State.memberLost (s : State) (c : Card) : Bool :=
  c.members.any fun p =>
    match s.chipHome (s.gidOf c.lci) p with
    | .peer i _ => s.isolated i
    | .here _ => false
    | .unassigned => false

/-- What the member list says once every entry has resolved. -/
def State.joinCard (s : State) (c : Card) (members : List Nat) : State :=
  let again := !c.members.isEmpty
  let n := match s.chip? c.lci with
    | some ch => ((ch.colls.find? fun e => e.1 == c.tag && e.2.1 == members).map fun e => e.2.2).getD 0
    | none => 0
  let s := if again then s else s.modChip c.lci fun ch => { ch with
    colls := (c.tag, members, n + 1) :: ch.colls.filter fun e => !(e.1 == c.tag && e.2.1 == members) }
  let r := s.fresh
  let c2 := { c with
    started := true, members := members, instance_ := if again then c.instance_ else n, order := r.1
    chunks := if again then c.chunks else List.range c.chunkCount }
  let s := r.2.modCard c.id fun _ => c2
  let all := s.matched c2
  if s.memberLost c2 then all.foldl (fun s x => s.cardFault x.id Cause.peerLost x.va) s
  else if members[c.rank]? != some c.pchip || !(all.all fun a => all.all fun b => a.agrees b) then
    all.foldl (fun s x => s.cardFault x.id Cause.fabric x.va) s
  else s

/-- Earlier cards of the chip with this TAG have started. -/
def State.cardTurn (s : State) (c : Card) : Bool :=
  !s.traffic.cards.any fun x => x.lci == c.lci && x.tag == c.tag && decide (x.id < c.id) && !x.started && x.outcome == 0

/-- The chip of a card or job is resident. -/
def State.chipRuns (s : State) (lci : Nat) : Bool := match s.chip? lci with | some c => c.res.resident | none => false

/-- COLL_CARD_START: the member list is read and its places resolved, and the card is matched (12 R349, 01 R36). -/
def execCollCardStart (card : Nat) (s : State) : Out :=
  .next (match s.card? card with
  | none => s
  | some c =>
    match s.chip? c.lci with
    | none => s
    | some ch =>
      if c.started || c.outcome != 0 || c.held || !ch.res.resident || !s.cardTurn c || 256 ≤ s.depCount c.die then s
      else
        State.cardRun c .read (s.loadRun (c.job c.id) 0 (2 * c.nmem) (RowPart.mk c.memb 0 (2 * c.nmem) false).parts)
          fun s l _ =>
            let s := s.dropFetches c.id 0
            match s.resolveMembers ch (memberFields l c.nmem) with
            | .inl e => s.cardFault c.id e.1 e.2
            | .inr m => s.joinCard c m)

/-! ### Chunks (12 R350, R351) -/

/-- A source of a chunk: rank, first byte in its SEND, bytes, and first byte in the chunk. -/
structure ChunkSrc where
  rank : Nat
  ofs : Nat
  len : Nat
  at_ : Nat
  deriving DecidableEq, Repr

/-- Bytes `[lo, hi)` of RECV that chunk `k` covers. -/
def Card.chunkSpan (c : Card) (k : Nat) : Nat × Nat := (k * c.chunk, min c.recvBytes ((k + 1) * c.chunk))

/-- The sources of a chunk. -/
def Card.sources (c : Card) (k : Nat) : List ChunkSrc :=
  let lo := (c.chunkSpan k).1
  let hi := (c.chunkSpan k).2
  let n := c.count * c.elem
  match c.op with
  | 0 => (List.range c.nmem).filterMap fun r =>
      let a := max lo (r * n)
      let b := min hi ((r + 1) * n)
      if b ≤ a then none else some { rank := r, ofs := a - r * n, len := b - a, at_ := a - lo }
  | 1 => (List.range c.nmem).map fun r => { rank := r, ofs := c.rank * n + lo, len := hi - lo, at_ := 0 }
  | 2 => (List.range c.nmem).map fun r => { rank := r, ofs := lo, len := hi - lo, at_ := 0 }
  | _ => [{ rank := c.root, ofs := lo, len := hi - lo, at_ := 0 }]

/-- The card of a rank among the matched ones. -/
def rankCard (l : List Card) (r : Nat) : Option Card := l.find? fun x => x.rank == r

/-- The ranks of a card's list whose chips are on this module. -/
def State.ranksHere (s : State) (c : Card) : List Nat :=
  (c.members.zipIdx.filter fun p =>
    match s.chipHome (s.gidOf c.lci) p.1 with
    | .here _ => true
    | .peer _ _ => false
    | .unassigned => false).map (·.2)

/-- Every member of this module has started its card and none has failed. -/
def State.allStarted (s : State) (c : Card) : Bool :=
  (s.ranksHere c).all fun r => match rankCard (s.matched c) r with | some x => x.outcome == 0 || x.outcome == 1 | none => false

/-- The outcome of gathering a chunk's sources: the codes and scale bytes of each. -/
inductive Gathered where
  | later (s : State)
  | got (l : List (List Byte × List Byte)) (s : State)
  deriving DecidableEq, Repr

/-- Free bytes: what a member on another module sends is known to that module alone. -/
def State.freeBytes (s : State) (n : Nat) : List Byte × State :=
  ((List.range n).map fun i => Config.freeByte s.free i, { s with free := s.free + 1 })

/-- Reads one source of a chunk. -/
def State.gatherOne (s : State) (c : Card) (all : List Card) (k : Nat) (q : ChunkSrc) : Gathered :=
  let m := if c.dt = 2 then q.len / 32 else 0
  match rankCard all q.rank with
  | none =>
    let a := s.freeBytes (q.len + m)
    .got [(a.1.take q.len, a.1.drop q.len)] a.2
  | some x =>
    let parts := (RowPart.mk (x.send + q.ofs) 0 q.len false).parts ++
      (if m = 0 then [] else (RowPart.mk (x.sscale + q.ofs / 32) q.len m false).parts)
    match s.loadRun (x.job c.id) (k * 256 + q.rank) (q.len + m) parts with
    | .wait s => .later s
    | .page s kind fa va lv => .later (s.holdCard x .read kind fa va lv)
    | .far s p => .later (s.askCard x .read p)
    | .fault s cause va => .later (s.cardFault x.id cause va)
    | .done s l _ => .got [(l.take q.len, l.drop q.len)] s

/-- Reads every source of a chunk: each is asked for, and the chunk is there once all are. -/
def State.gatherAll (c : Card) (all : List Card) (k : Nat) : List ChunkSrc → State → Gathered
  | [], s => .got [] s
  | q :: r, s =>
    match s.gatherOne c all k q with
    | .later s =>
      (match State.gatherAll c all k r s with
       | .later s => .later s
       | .got _ s => .later s)
    | .got a s =>
      (match State.gatherAll c all k r s with
       | .later s => .later s
       | .got b s => .got (a ++ b) s)

/-- The sources of a chunk whose members are on other modules: the key of each, its pod chip number and its bytes. -/
def State.chunkFar (s : State) (c : Card) (k : Nat) (l : List ChunkSrc) : List (Nat × Nat × Nat) :=
  l.filterMap fun q =>
    if (rankCard (s.matched c) q.rank).isSome then none
    else some (k * 256 + q.rank, c.members.getD q.rank 0, q.len + (if c.dt = 2 then q.len / 32 else 0))

/-- A reduction of values by ROP. -/
def reduceFv (rop : Nat) (l : List Fv) : Fv :=
  match rop, l with
  | 0, l => fsum false l
  | _, [] => .nan
  | 1, a :: r => r.foldl (fminmax true) a
  | _, a :: r => r.foldl (fminmax false) a

/-- Element `i` of `w` bytes. -/
def elemAt (w : Nat) (l : List Byte) (i : Nat) : Nat := leNat ((l.drop (w * i)).take w)

/-- A reduced chunk of floats. -/
def reduceFloats (t : Ty) (w rop n : Nat) (l : List (List Byte)) : List Byte :=
  (List.range (n / w)).flatMap fun i =>
    natLe w (roundTo t (reduceFv rop (l.map fun x => fdecode t (elemAt w x i))) (.rm .rne) false)

/-- A reduced q8 block: its 32 codes, its scale byte, and whether an element saturated. -/
def reduceBlock (c : Card) (l : List (List Byte × List Byte)) (b : Nat) : List Byte × Byte × Bool × Bool :=
  let xs := (List.range 32).map fun i =>
    fsum false (l.map fun p => blockDecode true (elemAt 1 p.2 b) (elemAt 1 p.1 (32 * b + i)))
  let q := encodeBlock true (if c.auto then none else some c.qt) none none xs
  let d := finishBlock true q [] 0 none (fun _ => 0) (xs.map fun x => if x.neg then 2 ^ 31 else 0)
  (d.codes.map (BitVec.ofNat 8), BitVec.ofNat 8 q.scale, d.full, q.invalid)

/-- The bytes of a chunk: RECV, scale bytes, whether a q8 element saturated (12 R350), and whether a q8 block is invalid
(07 R225). -/
def Card.chunkBytes (c : Card) (n : Nat) (l : List (List Byte × List Byte)) : List Byte × List Byte × Bool × Bool :=
  if c.op = 0 || 3 ≤ c.op then (l.flatMap (·.1), l.flatMap (·.2), false, false)
  else
    match c.dt with
    | 0 => (reduceFloats .f32 4 c.rop n (l.map (·.1)), [], false, false)
    | 1 => (reduceFloats .bf16 2 c.rop n (l.map (·.1)), [], false, false)
    | _ =>
      let bs := (List.range (n / 32)).map (reduceBlock c l)
      (bs.flatMap (·.1), bs.map (·.2.1), bs.any (·.2.2.1), bs.any (·.2.2.2))

/-- A chunk has been read: a card that reads the same sources takes the same bytes, so that every member receives the same
(12 R350). An invalid q8 block sets INVALID_BLOCK of the posting team (07 R225). A q8 element that saturates sets QSAT alone:
R350 re-encodes with no list, and whether OUTLIER_FULL is set too it does not say (07 R228, log 85). -/
def State.captured (s : State) (c : Card) (k n : Nat) (l : List (List Byte × List Byte)) : State :=
  let shares := fun (x : Card) =>
    x.id == c.id || (s.sameInstance x c && c.op != 1 && (c.op != 3 || x.root == c.root) && x.outcome == 0)
  let takes := fun (x : Card) => shares x && x.chunks.contains k && !(x.begun.any fun p => p.1 == k)
  let take := fun (x : Card) =>
    if takes x then
      let r := x.chunkBytes n l
      { x with begun := (k, r.1 ++ r.2.1) :: x.begun, qsat := x.qsat || r.2.2.1 }
    else x
  let bad := s.traffic.cards.filter fun x => takes x && (x.chunkBytes n l).2.2.2
  bad.foldl (fun (s : State) x => s.modTeam x.team fun t => t.raiseFlags false true)
    (s.modTraffic fun t => { t with cards := t.cards.map take })

/-- A chunk whose bytes are known is written (12 R351). -/
def State.chunkOut (s : State) (c : Card) (k : Nat) (data : List Byte) : State :=
  let n := (c.chunkSpan k).2 - (c.chunkSpan k).1
  let parts := (RowPart.mk (c.recv + k * c.chunk) 0 n false).parts ++
    (if c.dt = 2 then (RowPart.mk (c.rscale + k * c.chunk / 32) n (n / 32) false).parts else [])
  match s.storeRun (c.job c.id) (k * 256 + 255) parts data with
  | .wait s => s
  | .page s kind fa va lv => s.holdCard c .write kind fa va lv
  | .far s p => s.askCard c .write p
  | .fault s cause va =>
    (s.cardFault c.id cause va).modCard c.id fun x => { x with begun := x.begun.filter fun p => p.1 != k }
  | .done s _ t =>
    s.modCard c.id fun x => { x with
      begun := x.begun.filter fun p => p.1 != k
      counting := (k, max t x.effect) :: x.counting }

/-- A chunk's count on its barrier, a release of pod scope of its bytes. -/
def State.chunkCount (s : State) (c : Card) (k : Nat) : State :=
  let n := (c.chunkSpan k).2 - (c.chunkSpan k).1
  let s := s.modCard c.id fun x => { x with
    counting := x.counting.filter fun p => p.1 != k
    chunks := x.chunks.filter fun i => i != k }
  if c.barb = 0xFFFF then s
  else s.cardCount c (16 * c.barb + 16 * (k % c.nbar)) (-((ceilDiv n 16 : Nat) : Int))

/-- COLL_CHUNK_LANDING: a chunk is read and combined, written, and counted once its writes have taken effect. -/
def execCollChunkLanding (card chunk : Nat) (s : State) : Out :=
  .next (match s.card? card with
  | none => s
  | some c =>
    if !c.chunks.contains chunk || c.held || !s.chipRuns c.lci then s
    else
      match c.counting.find? fun p => p.1 == chunk with
      | some p => if p.2 ≤ s.gtc then s.chunkCount c chunk else s
      | none =>
        match c.begun.find? fun p => p.1 == chunk with
        | some p => s.chunkOut c chunk p.2
        | none =>
          let n := (c.chunkSpan chunk).2 - (c.chunkSpan chunk).1
          if !c.started || c.outcome != 0 then s
          else if s.memberLost c then s.cardFault c.id Cause.peerLost c.va
          else if !s.allStarted c || !s.depFree c.die c.order c.team c.foot then s
          else
            let qs := c.sources chunk
            let far := s.chunkFar c chunk qs
            let r := s.chunkPull c.die c.lci c.id c.prio far
            if !r.1 then r.2
            else
              match State.gatherAll c (r.2.matched c) chunk qs r.2 with
              | .later s => s
              | .got l s =>
                let s := qs.foldl (fun s q => s.dropFetches c.id (chunk * 256 + q.rank)) s
                (far.foldl (fun (s : State) q => s.pullIn c.id q.1 0 q.2.2) s).captured c chunk n l)

/-! ### The end of a record or card (12 R344, R351) -/

/-- A status word (Table 12.5). -/
def statusWord (now outcome cause : Nat) (qsat : Bool) : Nat :=
  field now 32 32 + (if qsat then 2 ^ 16 else 0) + (if outcome = 2 then field cause 8 8 else 0) + outcome

/-- The lanes that end a record at an address: STATUS at `ofs` and the byte that holds OWN. -/
def endLanes (a ofs va own status : Nat) : List TxnLane :=
  [{ lane := 0, addr := a + ofs, bytes := 8, data := natLe 8 status, ea := va + ofs },
   { lane := 1, addr := a, bytes := 1, data := [BitVec.ofNat 8 own], ea := va }]

/-- Writes STATUS and clears OWN as one write of their line: done, or not yet; what cannot be written is left (log 45). -/
def State.endRecord (s : State) (j : Job) (key va ofs own status : Nat) : RunOut :=
  let r := s.engXlate j.die j.lci .write va
  match r.1 with
  | .fail _ _ => .done r.2 [] 0
  | .nonres k fa lv => .page r.2 k fa va lv
  | .here t mpa =>
    let home := match t.home with | .here h _ => h | .remote _ => j.lci
    if r.2.shootHolds home mpa t.cls then .wait r.2
    else
      let s := r.2.recallFor j.team home (mpa / 128)
      let w := s.bankStore (s.jobReq j t home (mpa / 128) (endLanes mpa ofs va own status))
      .done w.st [] w.time
  | .remote t pod =>
    let fs := s.fetchesOf j.id key
    let p : Piece := { idx := 0, va := va, ofs := 0, len := 8, nib := false, out := .remote t pod }
    if fs.isEmpty then
      let q := (r.2.recallOwn j.team t.cls pod).fresh
      let m := q.2.newMsgid
      let x : Txn := {
        id := q.1, acc := none, team := some j.team, group := 0, core := j.core, kind := .store,
        home := .remote (pod / 128 * 128), cls := t.cls, s2cls := t.s2cls, scope := .device, sync := false, lease := 0,
        install := false, lanes := endLanes pod ofs va own status, agent := (s.jobWho j).agent, contribs := [],
        msgid := m, member := none }
      let s := ({ q.2 with free := q.2.free + 1 } : State).modTraffic fun y => { y with
        txns := y.txns ++ [x]
        fetches := y.fetches ++ [{ owner := j.id, key := key, txn := q.1, ans := none, time := 0 }] }
      .wait (s.sendTxn j.lci x)
    else if !fetchesDone fs then .wait s
    else
      match (unserved fs [p, { p with idx := 1 }]).head? with
      | some _ => .far (s.dropFetches j.id key) p
      | none => .done (s.dropFetches j.id key) [] (fetchTime fs)

/-- The key of a card's end among its fetches. -/
def endKey : Nat := 2 ^ 40

/-- Teams parked in place whose last job has ended leave their core (12 R337, 14 R380). -/
def State.releasePlaces (s : State) (lci : Nat) : State :=
  let off := fun (t : Team) =>
    match t.place with
    | .parkedInPlace _ _ => if s.holdsPlace t.id then t else { t with place := .parked }
    | .resident _ _ => t
    | .parked => t
    | .preempted => t
  ({ s with teams := s.teams.map off }.reap).unblock lci

/-- What a finished job or card owed to cancellations: their accesses wait for it no more (12 R346). -/
def State.cancelDone (s : State) (id : Nat) : State :=
  let f := fun (a : Access) => match a.dst with
    | .status _ _ => { a with open_ := a.open_.filter fun i => i != id }
    | _ => a
  s.modTraffic fun t => { t with accesses := t.accesses.map f }

/-- A card has ended: its event, which follows the card's words by `time`, and the record that posted it ends with it (12
R341, R351, 04 R155). -/
def State.cardGone (s : State) (c : Card) (outcome time : Nat) : State :=
  let s := if c.evt then s.postAfter c.lci 0x0004 c.va c.ch time else s
  let s := ((s.modTraffic fun t => { t with cards := t.cards.filter fun x => x.id != c.id }).cancelDone c.id).dropPulls c.id
  let s := s.releasePlaces c.lci
  let ended := fun (j : Job) =>
    { j with held := false, outcome := if j.outcome = 0 then outcome else j.outcome, cause := c.cause }
  match c.record with
  | none => s
  | some id => s.modJob id ended

/-- COLL_CARD_END: STATUS, then OWN, by a release of pod scope, and the event (12 R351). -/
def execCollCardEnd (card : Nat) (s : State) : Out :=
  .next (match s.card? card with
  | none => s
  | some c =>
    let outcome := if c.outcome = 0 then 1 else c.outcome
    let peers := (s.matched c).all fun x => x.chunks.isEmpty || x.outcome != 0
    if !c.begun.isEmpty || !c.counting.isEmpty || c.held || s.gtc < c.effect ||
        (c.outcome == 0 && (!c.started || !c.chunks.isEmpty || !peers)) then s
    else if c.skip then s.cardGone c outcome 0
    else
      let own := 16 * c.dt + 2 * c.op
      let s := s.modCard card fun x => { x with outcome := outcome }
      match s.endRecord (c.job c.id) endKey c.va 64 own (statusWord s.gtc outcome c.cause c.qsat) with
      | .wait s => s
      | .page s kind fa va lv => s.holdCard { c with outcome := outcome } .write kind fa va lv
      | .far s p => s.askCard { c with outcome := outcome } .write p
      | .fault s _ _ => s.cardGone c outcome 0
      | .done s _ t => s.cardGone c outcome t)

end Sys2Proof.Machine
end

