-- ==== Sys2Proof/Machine/Jobs.lean ====
section
/-! DEFINITION. TCOPY, TGATHER, TCHAIN, TCANCEL, TSTAT and COLL, and the steps of jobs and chains (12 R334 to R348, 04
R149, R150). -/

namespace Sys2Proof.Machine

/-! ### Posting -/

/-- The channel of a core: number within its die (12 R334). -/
def coreChan (core : Nat) : Nat := clusterOf core % 32

/-- Jobs queued on a channel: posted and not started (12 R334). -/
def State.queued (s : State) (die ch : Nat) : Nat :=
  ((s.chanJobs die ch).filter fun j => !j.started && j.outcome == 0).length

/-- What an instruction posts. -/
structure JobPlan where
  kind : JobKind
  dir : Nat
  box : Box
  rows : Nat
  prio : Nat
  arr : Bool
  deriving DecidableEq, Repr

/-- A job of a plan. -/
def JobPlan.job (p : JobPlan) (id : Nat) (t : Team) (core : Nat) : Job :=
  { id := id, die := dieOf core, ch := coreChan core, lci := t.id.lci, team := t.id, pchip := t.pchip, kind := p.kind,
    dir := p.dir, box := p.box, rows := List.range p.rows, bytes := p.rows * p.box.rowBytes, bar := p.box.bar, arr := p.arr,
    obar := none, cbar := none, prio := p.prio, prom := 0, started := false, foot := [], record := none, evt := false,
    msg := none, held := false, core := core, order := 0, begun := [], outcome := 0, cause := 0, effect := 0, rec0 := 0,
    skip := false }

/-- The promise in a barrier's PROMISE field, and OUTBOUND of a source that the job reads (12 R335, R339). -/
def State.promised (s : State) (j : Job) (bars : List Nat) (outbound : Bool) : State :=
  let put := fun (t : Team) (o : Nat) => t.putBar o (setBits (t.bar o) 96 32 j.prom)
  let s := s.modTeam j.team fun t => j.bar.toList.foldl put t
  if outbound then bars.foldl (fun s o => s.countOn j (some o) 0 0 ((j.bytes / 16 : Nat) : Int)) s else s

/-- Puts a job on its channel. -/
def State.addJob (s : State) (j : Job) : State := s.modTraffic fun t => { t with jobs := t.jobs ++ [j] }

/-- Posts the job of an instruction: a full queue holds the group; else DST and PROMISE take the promise (12 R334, R335). -/
def Ix.postJob (x : Ix) (f : FmtX) (p : JobPlan) (far : Bool) : State :=
  let die := dieOf x.cur.core
  let ch := coreChan x.cur.core
  if 16 ≤ x.s.queued die ch then x.hold
  else
    let r := x.s.fresh
    let j := p.job r.1 x.t x.cur.core
    let path := if far then promisePath true false else x.s.globalPath j
    let prom := x.s.promise die ch j.bytes path
    let j := { j with prom := prom }
    let y : Ix := { x with s := r.2 }
    let s := y.finish f.r.sched none ((lanesOf x.active).flatMap fun l => x.dst l f.r.dst prom)
    (s.addJob j).promised j j.bar.toList (p.dir = 1 || far)

/-- The register of a v number as an instruction reads it in its lowest active lane. -/
def Ix.vreg (x : Ix) (n : Nat) : Nat := x.reg x.low (x.t.desc.vwv / 4 + n)

/-- The record of an instruction, resolved: the trap, or the box (12 R331, R332). -/
def Ix.resolve (x : Ix) (sh : Shape) (span : Bool) : (Nat × Nat) ⊕ Box :=
  match shapeResolve sh span x.vreg (fun d => x.vreg ((shapeOrgRegs sh).getD d 0)) with
  | .bad cause bit => .inl (cause, if cause = Cause.reservedBits then x.cur.line.toNat else bit)
  | .ok b => .inr b

/-- Why a box's scratchpad side or barrier stops an instruction (12 R331, 09 R264). -/
def Ix.boxTrap (x : Ix) (b : Box) (rows : Nat) (store : Bool) : Option (Nat × Nat) :=
  match x.t.boxTrap b rows store with
  | some p => some p
  | none => b.bar.bind fun o => (x.t.barCause o).map fun c => (c, o)

/-- Registers of a format-X instruction. -/
def Ix.regsX (x : Ix) (f : FmtX) : List Nat :=
  ((shapeVregs f.shape).map fun n => x.t.desc.vwv / 4 + n) ++ x.t.desc.regsOf f.r.sa ++ x.t.desc.regsOf f.r.sb

/-- The checks of operands, then of an instruction without active lanes, then `k`. -/
def Ix.onBox (x : Ix) (f : FmtX) (span : Bool) (k : Box → State) : State :=
  match x.operandTrap (x.own (x.regsX f)) (x.t.desc.regsOf f.r.dst) with
  | some tr => x.trap tr
  | none =>
    if x.active = 0 then x.finish f.r.sched none []
    else
      match x.resolve f.shape span with
      | .inl e => x.trapActive e.1 e.2
      | .inr b => k b

/-- Whether the global side of a plan lies on another module: the fence before it is then of pod scope (04 R149). -/
def Ix.planFar (x : Ix) (p : JobPlan) : Bool := x.s.globalPath (p.job 0 x.t x.cur.core) == promisePath true false

/-- TCOPY. -/
def execTcopy (f : FmtX) (s : State) : Out :=
  issue s f.r.sched fun i =>
    i.onBox f true fun b =>
      let dir := if f.r.mod.getLsbD 0 then 1 else 0
      match i.boxTrap b b.rowCount (dir = 0) with
      | some e => i.trapActive e.1 e.2
      | none =>
        let p : JobPlan := {
          kind := .copy, dir := dir, box := b, rows := b.rowCount, prio := bits f.r.mod.toNat 2 2, arr := f.r.mod.getLsbD 1 }
        i.fenced (if i.planFar p then .pod else .device) fun _ => i.postJob f p false

/-- Coordinate 1 of each row of a gather: the indices of the active lanes (12 R340). -/
def Ix.indices (x : Ix) (o : Opd) : List Int := (lanesOf x.active).map fun l => toSigned 32 (x.rd l o)

/-- One past the last global byte of a gather's rows. -/
def gatherTop (b : Box) (rows : List Int) : Nat :=
  ((rows.filterMap fun c => (b.rowPart [c, b.origin 2, b.origin 3]).map fun p => p.va + p.len).max?).getD 0

/-- TGATHER's own checks: the field of the record that fails (12 R340). -/
def gatherBad (b : Box) (rows : List Int) : Option Nat :=
  if b.rank < 2 then some 62
  else if b.size 1 ≠ 1 then some 262
  else if b.size 2 ≠ 1 then some 272
  else if b.size 3 ≠ 1 then some 282
  else if 2 ^ 57 < gatherTop b rows then some 0
  else none

/-- TGATHER. -/
def execTgather (f : FmtX) (s : State) : Out :=
  issue s f.r.sched fun i =>
    i.onBox f false fun b =>
      let dir := if f.r.mod.getLsbD 0 then 1 else 0
      let rows := i.indices f.r.sb
      match gatherBad b rows with
      | some bit => i.trapActive Cause.access bit
      | none =>
        match i.boxTrap b rows.length (dir = 0) with
        | some e => i.trapActive e.1 e.2
        | none =>
          let p : JobPlan := {
            kind := .gather rows, dir := dir, box := b, rows := rows.length, prio := bits f.r.mod.toNat 2 2,
            arr := f.r.mod.getLsbD 1 }
          i.fenced (if i.planFar p then .pod else .device) fun _ => i.postJob f p false

/-! ### Channels -/

/-- The channel that SB selects: its die-wide number, or the value that fails (12 R343, R346, R347). -/
def Ix.chanOf (x : Ix) (sb : Opd) : Nat ⊕ Nat :=
  if sb = .zero then .inr (coreChan x.cur.core)
  else
    let n := x.rd x.low sb
    match x.s.chip? x.t.id.lci with
    | none => .inl n
    | some c => if n < 32 && c.res.clusters.contains (dieOf x.cur.core * 32 + n) then .inr n else .inl n

/-- The common start of TCHAIN, TCANCEL and TSTAT: operands, no active lane, the channel. -/
def Ix.onChan (x : Ix) (f : FmtR) (k : Nat → State) : State :=
  match x.operandTrap (x.own (x.t.desc.regsOf f.sa ++ x.t.desc.regsOf f.sb)) (x.t.desc.regsOf f.dst) with
  | some tr => x.trap tr
  | none =>
    if x.active = 0 then x.finish f.sched none []
    else
      match x.chanOf f.sb with
      | .inl n => x.trapActive Cause.access n
      | .inr ch => k ch

/-- The same value in DST of every active lane. -/
def Ix.allDst (x : Ix) (o : Opd) (v : Nat) : List Wr := (lanesOf x.active).flatMap fun l => x.dst l o v

/-- TCHAIN. -/
def execTchain (f : FmtR) (s : State) : Out :=
  issue s f.sched fun i =>
    i.onChan f fun ch =>
      let va := i.rd i.low f.sa
      let die := dieOf i.cur.core
      if va % 128 ≠ 0 then i.trapActive Cause.misaligned va
      else i.fenced .device fun _ =>
        if (i.s.channel die ch).walk.isSome then i.finish f.sched none (i.allDst f.dst 1)
        else
          (i.finish f.sched none (i.allDst f.dst 0)).modChannel die ch fun c =>
            { c with walk := if va = 0 then none else some va, walkTeam := if va = 0 then none else some i.t.id }

/-- The word of TSTAT (Table 12.6). -/
def State.tstat (s : State) (die ch : Nat) (team : TeamId) : Nat :=
  let c := s.channel die ch
  let n := ((s.chanJobs die ch).filter fun j => j.team == team && j.record.isNone).length
  field c.lcause 32 8 + (if c.walk.isSome then 2 ^ 16 else 0) + min n 0xFFFF

/-- TSTAT. -/
def execTstat (f : FmtR) (s : State) : Out :=
  issue s f.sched fun i =>
    i.onChan f fun ch =>
      let die := dieOf i.cur.core
      let s := i.finish f.sched none (i.allDst f.dst (i.s.tstat die ch i.t.id))
      if f.mod.getLsbD 0 then s.modChannel die ch fun c => { c with lcause := 0 } else s

/-! ### Cancellation (12 R346) -/

/-- A job that an instruction posted and TCANCEL.jobs of a team cancels. -/
def Job.cancels (j : Job) (die ch : Nat) (team : TeamId) : Bool :=
  j.die == die && j.ch == ch && j.team == team && j.record.isNone && j.outcome == 0 && !j.rows.isEmpty &&
    (match j.kind with
     | .copy => true
     | .gather _ => true
     | .listed _ _ => false
     | .send _ _ _ _ => false
     | .copyOut _ => false
     | .card _ => false)

/-- An unfinished record of a channel. -/
def Job.chained (j : Job) (die ch : Nat) : Bool :=
  let isCard := match j.kind with
    | .card _ => true
    | .copy => false
    | .gather _ => false
    | .listed _ _ => false
    | .send _ _ _ _ => false
    | .copyOut _ => false
  j.die == die && j.ch == ch && j.record.isSome && j.outcome == 0 && (!j.rows.isEmpty || isCard)

/-- What a cancellation selects: jobs and cards. -/
def State.cancelled (s : State) (mode die ch : Nat) (team : TeamId) : List Nat × List Nat :=
  let cards := s.traffic.cards.filter fun c => c.outcome == 0
  match mode with
  | 0 => ((s.traffic.jobs.filter fun j => j.cancels die ch team).map Job.id, [])
  | 1 =>
    let js := (s.traffic.jobs.filter fun j => j.chained die ch).map Job.id
    (js, (cards.filter fun c => c.record.any js.contains).map Card.id)
  | _ => ([], (cards.filter fun c => c.die == die && c.team == team).map Card.id)

/-- Cancels jobs and cards: nothing more starts. -/
def State.cancel (s : State) (jobs cards : List Nat) : State :=
  let fj := fun (j : Job) => if jobs.contains j.id then { j with outcome := 3, held := false } else j
  let fc := fun (c : Card) => if cards.contains c.id then { c with outcome := 3, held := false } else c
  s.modTraffic fun t => { t with jobs := t.jobs.map fj, cards := t.cards.map fc }

/-- TCANCEL. -/
def execTcancel (f : FmtR) (s : State) : Out :=
  issue s f.sched fun i =>
    i.onChan f fun ch =>
      let die := dieOf i.cur.core
      let mode := bits f.mod.toNat 0 2
      let sel := i.s.cancelled mode die ch i.t.id
      let n := if mode = 2 then sel.2.length else sel.1.length
      let r := i.s.fresh
      let a : Access := {
        id := r.1, team := i.t.id, group := i.cur.group, pc := i.cur.pc, ctr := setCtr f.sched,
        dst := .status f.dst (BitVec.ofNat 32 n), active := i.active, sync := false, isSc := false, isLoad := false,
        isStore := false, scope := .team, answers := [], open_ := sel.1 ++ sel.2, effect := 0, followed := false }
      let y : Ix := { i with s := r.2 }
      let s := y.put (y.advance ((y.g.reserve (i.allDst f.dst 0) (y.cover f.sched none) r.1 y.cur.first).bump (setCtr f.sched)))
      let s := (s.addAccess a).cancel sel.1 sel.2
      if mode = 1 then s.modChannel die ch fun c => { c with walk := none, walkTeam := none } else s

/-! ### COLL -/

/-- The owner number of a group's reads of a card. -/
def Ix.cardOwner (x : Ix) : Nat := 2 ^ 41 + x.t.order * 2 ^ 20 + x.t.id.index * 32 + x.cur.group

/-- COLL: the card is read and posted; its chunks count on registered barriers (12 R348, 09 R264). -/
def execColl (f : FmtR) (s : State) : Out :=
  issue s f.sched fun i =>
    match i.operandTrap (i.via f.perm (i.t.desc.regsOf f.sa)) (i.t.desc.regsOf f.dst) with
    | some tr => i.trap tr
    | none =>
      if i.active = 0 then i.finish f.sched none []
      else
        let va := i.rdVia f.perm i.low f.sa
        if 2 ^ 57 ≤ va then i.trapActive Cause.access va
        else if va % 128 ≠ 0 then i.trapActive Cause.misaligned va
        else i.fenced .pod fun _ =>
          let die := dieOf i.cur.core
          let waits := fun (x : PageWaiter) => x == .job i.cardOwner va
          match i.s.hwRead i.t.id.lci i.cardOwner 0 va 128 with
          | .waits s => (i.withState s).hold
          | .fail c s => (i.withState s).trapActive c va
          | .nonres =>
            -- the engine requests the page as its walk ahead does, and the group is held (02 R65)
            (match i.s.xlateWalk i.t.id.lci false va .read with
             | .nonres k a lv =>
               if i.s.traffic.pages.any fun p => p.waiters.any waits then i.hold
               else
                 (match i.s.requestPage die (i.s.pageVf i.t.id.lci k a) k a va lv (pageAcc .read true) i.t.pchip
                     (.job i.cardOwner va) with
                  | none => i.trapActive Cause.invalidPage va
                  | some r => (i.withState (r.1.failWaiters r.2)).hold)
             | .remote _ pod =>
               if i.s.traffic.pages.any fun p => p.waiters.any waits then i.hold
               else
                 let r := (i.s.dropFetches i.cardOwner 0).askFar die i.t.id.lci pod (pageAcc .read true) (.job i.cardOwner va)
                 if r.2 then (i.withState r.1).hold else i.trapActive Cause.peerLost va
             | .here _ _ => i.hold
             | .fail c _ => i.trapActive c va)
          | .bytes l s =>
            let y := i.withState s
            let n := leNat l
            let r := s.fresh
            let c := cardOf r.1 die (coreChan i.cur.core) i.t.id.lci i.t.pchip i.t.id none va n
            if !cardOk n then y.finish f.sched none (y.allDst f.dst 2)
            else
              match c.counted.findSome? fun o => (i.t.barCause o).map fun k => (k, o) with
              | some e => y.trapActive e.1 e.2
              | none =>
                if s.cardsFull die then y.finish f.sched none (y.allDst f.dst 1)
                else
                  let z := y.withState r.2
                  (z.finish f.sched none (z.allDst f.dst 0)).postCard c

/-! ### Starting jobs -/

/-- The card of a transfer record is read and posted; a card that breaks Table 12.7 faults its record (12 R341; log 49). -/
def State.startCard (s : State) (j : Job) (va : Nat) : State :=
  if va % 128 ≠ 0 then s.jobFault j.id Cause.misaligned va
  else if s.cardsFull j.die then s
  else
    match s.loadRun j 0 128 (RowPart.mk va 0 128 false).parts with
    | .wait s => s
    | .page s k fa a lv => s.holdJob j .read k fa a lv
    | .far s p => s.askHome j .read p
    | .fault s cause a => s.jobFault j.id cause a
    | .done s l _ =>
      let s := s.dropFetches j.id 0
      let n := leNat l
      if !cardOk n then s.jobFault j.id Cause.reservedBits va
      else
        let r := s.fresh
        (r.2.postCard (cardOf r.1 j.die j.ch j.lci j.pchip j.team (some j.id) va n)).modJob j.id fun x =>
          { x with started := true, held := true }

/-- A started job enters the dependence unit with its footprint (12 R334, R345). -/
def State.enterUnit (s : State) (j : Job) : State :=
  let r := s.fresh
  let foot := if j.foot.isEmpty then j.shapeFoot else j.foot
  r.2.modJob j.id fun x => { x with started := true, foot := foot, order := r.1 }

/-- The index list of a record is read, and its job starts; a page that it needs holds the job, and a failure faults it
(12 R336, R341). -/
def State.startListed (s : State) (j : Job) (list count : Nat) : State :=
  match s.loadRun j 0 (4 * count) (RowPart.mk list 0 (4 * count) false).parts with
  | .wait s => s
  | .page s kind fa va lv => s.holdJob j .read kind fa va lv
  | .far s p => s.askHome j .read p
  | .fault s cause va => s.jobFault j.id cause va
  | .done s l _ =>
    let s := s.dropFetches j.id 0
    let rows := (List.range count).map fun i => toSigned 32 (elemAt 4 l i)
    match gatherBad { j.box with box := [j.box.size 0, 1, j.box.size 2, j.box.size 3] } rows with
    | some bit => s.jobFault j.id Cause.access bit
    | none =>
      let j := { j with kind := .gather rows }
      (s.modJob j.id fun x => { x with kind := j.kind }).enterUnit j

/-- JOB_START: a channel starts its next posted job, in posting order (12 R334). -/
def execJobStart (die : BitVec 4) (ch : BitVec 5) (s : State) : Out :=
  .next (match (s.chanJobs die.toNat ch.toNat).find? fun j => !j.started && j.outcome == 0 with
  | none => s
  | some j =>
    if j.held || !s.chipRuns j.lci || 256 ≤ s.depCount die.toNat then s
    else
      match j.kind with
      | .card va => s.startCard j va
      | .send q p tag spad =>
        if (s.guest (s.gidOf j.lci)).paused then s else (s.enterUnit j).startSend j q p tag spad
      | .copy => s.enterUnit j
      | .gather _ => s.enterUnit j
      | .listed list n => s.startListed j list n
      | .copyOut _ => s.enterUnit j)

/-! ### Rows -/

/-- The team's scratchpad is on its core. -/
def State.spadHere (s : State) (id : TeamId) : Bool := match s.team? id with | some t => t.spadCore?.isSome | none => false

/-- A chip that is being pre-empted starts no row (12 R337, 14 R386). -/
def State.stopsRows (s : State) (lci : Nat) : Bool := s.teams.any fun t => t.id.lci == lci && t.leave == 2 && !t.ended

/-- A row may be started or go on. -/
def State.mayRow (s : State) (j : Job) (row : Nat) : Bool :=
  j.started && j.rows.contains row && !j.held && (!j.usesSpad || s.spadHere j.team) &&
    ((j.begun.any fun p => p.1 == row) ||
      (j.outcome == 0 && s.chipRuns j.lci && !s.stopsRows j.lci && s.depFree j.die j.order j.team j.foot))

/-- The bytes of a message's row from a scratchpad: out-of-bounds elements are zero (12 R352). -/
def maskRow (part : Option RowPart) (n : Nat) (l : List Byte) : List Byte :=
  match part with
  | none => List.replicate n 0
  | some p =>
    let d := (l.drop p.ofs).take p.len
    let d := if p.nib then d.take (p.len - 1) ++ [BitVec.ofNat 8 (leNat (d.drop (p.len - 1)) % 16)] else d
    patch (List.replicate n 0) p.ofs d

/-- A row of a message's source has been read; the last one completes the message's bytes. -/
def State.sendRowIn (s : State) (j : Job) (row : Nat) (l : List Byte) : State :=
  let s := (s.dropFetches j.id row).countRead j
  let rows := j.rows.filter fun r => r != row
  let got := (row, l) :: j.begun.filter fun p => p.1 != row
  if rows.isEmpty then
    let data := (List.range j.rowTotal).flatMap fun r => smGet [] got r
    let s := s.modJob j.id fun x => { x with rows := [], begun := [] }
    match j.msg with
    | some m => s.sourceRead m data
    | none => s
  else s.modJob j.id fun x => { x with rows := rows, begun := got }

/-- A row of a message's source (12 R352). -/
def State.rowSource (s : State) (j : Job) (row : Nat) (spad : Bool) : State :=
  if spad then
    match s.team? j.team with
    | none => s.rowFault j row Cause.access j.box.dst
    | some t =>
      match t.rowCause j row false with
      | some c => s.rowFault j row c.1 c.2
      | none => (s.watchRow j row .load).sendRowIn j row (maskRow (j.part row) j.box.rowBytes (t.rowRead j.box row))
  else
    match s.rowLoad j row with
    | .later s => s
    | .data l s => s.sendRowIn j row l

/-- What a row of a job does at its turn (12 R339). -/
def State.moveRow (s : State) (j : Job) (row : Nat) : State :=
  match j.kind with
  | .copyOut dest => s.rowAcross j dest row
  | .send _ _ _ spad => s.rowSource j row spad
  | .copy => if j.dir = 0 then s.rowIn j row else s.rowOut j row
  | .gather _ => if j.dir = 0 then s.rowIn j row else s.rowOut j row
  | .listed _ _ => s
  | .card _ => s

/-- The runs of global memory that a row reads and writes: kind, address, length. -/
def Job.globals (j : Job) (row : Nat) : List (AccKind × Nat × Nat) :=
  let n := j.box.rowBytes
  let part := fun (k : AccKind) => match j.part row with | some p => [(k, p.va, p.len)] | none => []
  match j.kind with
  | .copyOut dest => part .read ++ [(.write, dest + row * n, n)]
  | .send _ _ _ spad => if spad then [] else part .read
  | .copy => part (if j.dir = 0 then .read else .write)
  | .gather _ => part (if j.dir = 0 then .read else .write)
  | .listed _ _ => []
  | .card _ => []

/-- A walk ahead of one page of a job: a page that is not resident is requested; the job is held when it gets there (02 R65). -/
def State.walkPage (s : State) (j : Job) (k : AccKind) (va : Nat) : State :=
  let r := s.xlateDie j.die false j.lci va k
  match r.1 with
  | .nonres kind fa level =>
    (match r.2.requestPage j.die (r.2.pageVf j.lci kind fa) kind fa va level (pageAcc k true) j.pchip (.job j.id va) with
     | some q => q.1.failWaiters q.2
     | none => r.2)
  | .here _ _ => r.2
  | .remote _ _ => r.2
  | .fail _ _ => r.2

/-- The pages of the next 8 tiles are walked while a tile moves (02 R65). -/
def State.walkAhead (s : State) (j : Job) (row : Nat) : State :=
  ((j.rows.filter fun r => r != row).take 8).foldl (fun s r =>
    (j.globals r).foldl (fun s p =>
      (rangePages p.2.1 p.2.2).foldl (fun s q => s.walkPage j p.1 q.2) s) s) s

/-- BOX_ROW: a row is read and written, with its counts, once its tokens have come; the pages of the next ones are walked. -/
def execBoxRow (job row : Nat) (s : State) : Out :=
  .next (match s.job? job with
  | none => s
  | some j =>
    if !s.mayRow j row then s
    else
      let r := (s.walkAhead j row).rowPull j row
      if r.1 then (r.2.moveRow j row).rowMoved j row else r.2)

/-! ### The end of a job (12 R334, R335, R344) -/

/-- A job is gone: the arrival on CBAR, the event, which follows the record's words by `time`, and what waited for it (12
R344, 04 R155). -/
def State.jobGone (s : State) (j : Job) (time : Nat) : State :=
  let s := if j.outcome = 3 then s else s.countOn j j.cbar 1 0 0
  let s := if j.evt then s.postAfter j.lci 0x0004 (j.record.getD 0) j.ch time else s
  let s := match j.msg with | some m => s.dropSend m | none => s
  let s := (s.modTraffic fun t => { t with
    jobs := t.jobs.filter fun x => x.id != j.id
    fetches := t.fetches.filter fun f => f.owner != j.id }).cancelDone j.id
  let s := s.dropPulls j.id
  s.releasePlaces j.lci

/-- A job's last write has been performed, and the receiver has its message (12 R335). -/
def State.jobOver (s : State) (j : Job) : Bool :=
  !j.inFlight && !j.held && decide (j.effect ≤ s.gtc) &&
    (j.outcome != 0 || (j.started && j.rows.isEmpty &&
      (match j.kind with
       | .send _ _ _ _ => (match j.msg with | some m => s.sendDone m | none => true)
       | .card _ => false
       | .copy => true
       | .gather _ => true
       | .listed _ _ => false
       | .copyOut _ => true)))

/-- The arrival of a job that asked for one, once (12 R339). -/
def State.jobArrives (s : State) (j : Job) : State :=
  match j.outcome == 0 && j.arr, j.bar with
  | true, some o => s.countOn j (some o) 1 0 0
  | _, _ => s

/-- JOB_END. -/
def execJobEnd (job : Nat) (s : State) : Out :=
  .next (match s.job? job with
  | none => s
  | some j =>
    if !s.jobOver j then s
    else
      let s := s.jobArrives j
      let j := { j with outcome := if j.outcome = 0 then 1 else j.outcome }
      let s := s.modJob job fun x => { x with outcome := j.outcome }
      match j.record with
      | none => s.jobGone j 0
      | some va =>
        if j.skip then s.jobGone j 0
        else
          match s.endRecord j endKey va 112 (j.rec0 - j.rec0 % 2) (statusWord s.gtc j.outcome j.cause false) with
          | .wait s => s
          | .page s k fa a lv => s.holdJob j .write k fa a lv
          | .far s p => s.askHome j .write p
          | .fault s _ _ => s.jobGone j 0
          | .done s _ t => s.jobGone j t)

/-! ### Chains (12 R341 to R344) -/

/-- A footprint range (Table 12.4); none when unused. -/
def footOf (n : Nat) (write : Bool) : List Foot :=
  let len := bits n 50 11
  let unit := match bits n 62 2 with | 0 => 2 ^ 7 | 1 => 2 ^ 12 | 2 => 2 ^ 17 | _ => 2 ^ 22
  if len = 0 then []
  else [{ spad := bits n 61 1 == 1, write := write, lo := bits n 0 50 * 128, len := len * unit : Foot }]

/-- The declared footprint of a record. -/
def recordFoot (n : Nat) : List Foot :=
  footOf (bits n 576 64) false ++ footOf (bits n 640 64) false ++ footOf (bits n 704 64) true ++ footOf (bits n 768 64) true

/-- The cause of a record that R344 turns away. -/
def recordBad (n : Nat) : Option Nat :=
  let sh := Shape.ofRecord (BitVec.ofNat 384 (bits n 128 384))
  let shapeBad := match sh with | none => true | some x => x.mark != 0 || decide (4 ≤ x.swz.toNat) || decide (15 ≤ x.dtype.toNat)
  if bits n 864 32 ≠ 0 || bits n 10 54 ≠ 0 || shapeBad then some Cause.reservedBits
  else if 5 ≤ bits n 1 3 || bits n 4 2 = 3 then some Cause.illegalOp
  else if bits n 1 3 = 4 then some Cause.access
  else none

/-- A barrier field of a record; all ones is none. -/
def barField (x : Nat) : Option Nat := if x = 0xFFFF then none else some (16 * x)

/-- The job of a record, before its shape is resolved. -/
def recordJob (id die ch : Nat) (t : TeamId) (pchip va n : Nat) : Job :=
  { id := id, die := die, ch := ch, lci := t.lci, team := t, pchip := pchip, kind := .copy, dir := bits n 4 2,
    box := { base := 0, dtype := .i8, rank := 1, ext := [], stride := [], box := [], org := [], dst := 0, swz := 0, bar := none },
    rows := [], bytes := 0, bar := none, arr := false, obar := none, cbar := none, prio := bits n 6 2, prom := 0,
    started := false, foot := recordFoot n, record := some va, evt := bits n 8 1 == 1, msg := none, held := false,
    core := die * 128 + 4 * ch, order := 0, begun := [], outcome := 0, cause := 0, effect := 0, rec0 := bits n 0 8,
    skip := false }

/-- A job that ends at once with a fault of its record alone: STATUS is written and OWN cleared (12 R344). -/
def State.badRecord (s : State) (j : Job) (cause : Nat) : State :=
  (s.addJob { j with outcome := 2, cause := cause, evt := false }).modChannel j.die j.ch fun c =>
    { c with walk := none, walkTeam := none }

/-- What a record asks of its team: its barriers registered and its scratchpad side allowed (12 R331, R341). -/
def State.recordTrap (s : State) (j : Job) : Option (Nat × Nat) :=
  if !j.holds then none
  else
    match s.team? j.team with
    | none => some (Cause.access, j.box.base)
    | some t =>
      if t.ended then some (Cause.access, j.box.base)
      else
        match j.bars.findSome? fun o => (t.barCause o).map fun c => (c, o) with
        | some p => some p
        | none => if j.usesSpad then t.boxTrap j.box j.rowTotal (j.dir = 0) else none

/-- The box of a record: its origins name registers of no group, so they are free values (12 R331; log 50). -/
def State.recordBox (s : State) (n : Nat) (span : Bool) : BoxOut :=
  match Shape.ofRecord (BitVec.ofNat 384 (bits n 128 384)) with
  | none => .bad Cause.reservedBits 0
  | some sh => shapeResolve sh span (fun _ => 0) fun d => (Config.freeWord s.free d).toNat

/-- Posts the job of a record with what its kind moves (12 R341); its index list is read when the job starts. -/
def State.postRecord (s : State) (j : Job) (n : Nat) : State :=
  let kind := bits n 1 3
  let j := { j with cbar := barField (bits n 848 16) }
  if kind = 3 then s.addJob { j with kind := .card (bits n 512 64) }
  else
    match s.recordBox n (kind = 0) with
    | .bad c a => (s.addJob j).jobFault j.id c a
    | .ok b =>
      let s := { s with free := s.free + 1 }
      let dir := if kind = 1 then 0 else if kind = 2 then 1 else j.dir
      let k : JobKind := if kind ≠ 0 then .listed (bits n 512 64) (bits n 390 10 + 1) else if dir = 2 then .copyOut (bits n 512 64) else .copy
      let j := { j with
        kind := k, dir := dir, box := b, bar := if dir = 2 then none else b.bar
        obar := if dir = 1 then barField (bits n 832 16) else none }
      let j := { j with rows := List.range j.rowTotal, bytes := j.rowTotal * b.rowBytes }
      let bad := match k with
        | .listed _ _ => gatherBad { b with box := [b.size 0, 1, b.size 2, b.size 3] } []
        | .gather _ => none
        | .copy => none
        | .send _ _ _ _ => none
        | .copyOut _ => none
        | .card _ => none
      match bad with
      | some bit => (s.addJob j).jobFault j.id Cause.access bit
      | none =>
        match s.recordTrap j with
        | some e => (s.addJob j).jobFault j.id e.1 e.2
        | none =>
          let j := { j with prom := s.promise j.die j.ch j.bytes (s.globalPath j) }
          (s.addJob j).promised j (j.bar.toList ++ j.obar.toList).eraseDups (dir = 1)

/-- Holds a channel's walk on a page (02 R65). -/
def State.holdWalk (s : State) (die ch lci pchip va : Nat) : State :=
  if s.traffic.pages.any fun p => p.waiters.any fun w => w == .walk die ch then s
  else
    match s.xlateWalk lci false va .read with
    | .nonres k a lv =>
      (match s.requestPage die (s.pageVf lci k a) k a va lv (pageAcc .read true) pchip (.walk die ch) with
       | none => s.walkFault die ch Cause.invalidPage
       | some r => r.1.failWaiters r.2)
    | .remote _ pod =>
      let r := s.askFar die lci pod (pageAcc .read true) (.walk die ch)
      if r.2 then r.1 else s.walkFault die ch Cause.peerLost
    | .here _ _ => s
    | .fail c _ => s.walkFault die ch c

/-- The owner number of a channel's own reads. -/
def walkOwner (die ch : Nat) : Nat := 2 ^ 42 + die * 32 + ch

/-- The walk goes on after a record (12 R344). -/
def State.walkNext (s : State) (die ch n : Nat) : State :=
  let next := bits n 64 64
  let stop := bits n 9 1 == 1 || next == 0 || (s.channel die ch).walk.isNone
  s.modChannel die ch fun c => { c with walk := if stop then none else some next, walkTeam := if stop then none else c.walkTeam }

/-- A record that has been read: turned away, or posted (12 R344). -/
def State.takeRecord (s : State) (die ch : Nat) (t : TeamId) (pchip va n : Nat) : State :=
  let idle := fun (s : State) => s.modChannel die ch fun c => { c with walk := none, walkTeam := none }
  if bits n 0 1 = 0 then idle s
  else
    let r := s.fresh
    let j := recordJob r.1 die ch t pchip va n
    match recordBad n with
    | some c => r.2.badRecord j c
    | none => (r.2.postRecord j n).walkNext die ch n

/-- CHAIN_RECORD_READ: a walking channel reads its next record. -/
def execChainRecordRead (die : BitVec 4) (ch : BitVec 5) (s : State) : Out :=
  let d := die.toNat
  let k := ch.toNat
  .next (match (s.channel d k).walk, (s.channel d k).walkTeam with
  | some va, some t =>
    if !s.chipRuns t.lci || 16 ≤ s.queued d k then s
    else if va % 128 ≠ 0 then s.walkFault d k Cause.misaligned
    else
      match s.hwRead t.lci (walkOwner d k) 0 va 128 with
      | .waits s => s
      | .nonres => s.holdWalk d k t.lci (s.pchipOf t.lci) va
      | .fail c s => s.walkFault d k c
      | .bytes l s => s.takeRecord d k t (s.pchipOf t.lci) va (leNat l)
  | _, _ => s)

end Sys2Proof.Machine
end

