-- ==== Sys2Proof/Machine/Fabric.lean ====
section
/-! DEFINITION. Packets that arrive: ingress checks, service of remote loads, stores, atomics and page requests, their
answers, and errors (02 R58, R67, R71, 16 R416 to R422, R425, R499). -/

namespace Sys2Proof.Machine

/-! ### Ingress (16 R417, R422, 15 R412) -/

/-- The die whose units serve an arriving packet: its port's; scale-out packets are served on die 0 (log 51). -/
def portDie (port : Nat) : Nat := if port < 16 then port else 0

/-- Counts a rejected packet and posts INGRESS_REJECT: port in [20:16], label in [11:0] (16 R422; log 40). -/
def State.rejected (s : State) (port label : Nat) : State :=
  let d := portDie port
  let n := (s.die d).port.rejects + 1
  (s.modDie d fun x => { x with port := { x.port with rejects := n } }).postPf 0x0048 (field label 0 12 + field port 16 5) n

/-- A packet that expects an answer. -/
def isRequest (ty : Nat) : Bool := ty == ptLoad || ty == ptStore || ty == ptAtomic || ty == ptMsgReq

/-- The words of a request's line that it names. -/
def requestWords (p : Packet) : Nat := if p.type.toNat = ptLoad && p.len ≠ 0 then beatGet (pktCtl p) 0 32 else 0xFFFFFFFF

/-- An ERROR packet for a request: cause in [7:0], words in [63:32] (log 40). -/
def errorDraft (p : Packet) (cause : Nat) : Draft :=
  { ty := ptError, src := p.dst.toNat, dst := p.src.toNat, addr := p.addr.toNat, msgid := p.msgid.toNat, prio := p.prio.toNat,
    cls := 0, scope := 0, beats := [beatOf [(0, 8, cause), (8, 5, p.type.toNat), (32, 32, requestWords p)]] }

/-- A rejected packet; a request is answered with ERROR. -/
def State.rejectPacket (s : State) (port : Nat) (p : Packet) (gid : Nat) : State :=
  let s := s.rejected port p.route.toNat
  if isRequest p.type.toNat then s.reply gid (errorDraft p Cause.fabric) else s

/-- A packet that fails its authentication tag (15 R412). -/
def State.authFailed (s : State) (port : Nat) (p : Packet) (lci gid : Nat) : State :=
  let d := portDie port
  let n := (s.die d).port.authFails + 1
  let s := (s.modDie d fun x => { x with port := { x.port with authFails := n } }).postBoth lci 0x0050 p.src.toNat n
  if isRequest p.type.toNat then s.reply gid (errorDraft p Cause.fabric) else s

/-- Where an arriving packet goes: answered or relayed here, or delivered to a chip. -/
inductive Ingress where
  | done (s : State)
  | deliver (lci : Nat)
  deriving DecidableEq, Repr

/-- A packet whose TYPE and LEN agree with what it carries. -/
def packetOk (p : Packet) : Bool := lenOk p.type.toNat p.len.toNat && p.beats.length == p.len.toNat

/-- The processing of an arriving packet (16 R422). -/
def State.ingress (s : State) (port : Nat) (p : Packet) : Ingress :=
  let e := s.route port p.route.toNat
  let gid := rGuest e
  if !packetOk p then .done (s.rejectPacket port p gid)
  else if !rV e || !(rStrands e).testBit p.strand.toNat then .done (s.rejectPacket port p gid)
  else if rFwd e then .done (if (s.die (rPort e)).port.up then s.emit (rPort e) p else s)
  else
    match s.chipHome gid p.dst.toNat, s.chipHome gid p.src.toNat with
    | .here lci, .here _ => if p.authentic then .deliver lci else .done (s.authFailed port p lci gid)
    | .here lci, .peer _ _ => if p.authentic then .deliver lci else .done (s.authFailed port p lci gid)
    | _, _ => .done (s.rejectPacket port p gid)

/-- A packet of one type at a port: what is not this event's changes nothing; a link that is down brings nothing. -/
def State.arrives (s : State) (port : Nat) (p : Packet) (ty : Nat) (k : Nat → State) : State :=
  if p.type.toNat != ty || (port < 16 && !(s.die port).port.up) then s
  else
    match s.ingress port p with
    | .done s => s
    | .deliver lci => (k lci).count (portDie port) lci 0xB (32 * (1 + p.beats.length))

/-! ### Stage 2 at the home (02 R58) -/

/-- The outcome of an arriving access's translation. -/
inductive HomeXl where
  | at_ (mpa : Nat) (cls : Cls)
  | nonres (level : Nat)
  | fail
  deriving DecidableEq, Repr

/-- Walks stage 2 on the walkers of a die through its fabric unit's TLB, whose entries hold the leaf's class and, as `s2cls`,
OVR (02 R58, R60). An access without a stage-1 class does not reach a locked chip (15 R410); a page request does. -/
def State.homeXlate (s : State) (die lci pod : Nat) (cls : Option Cls) (k : AccKind) (request : Bool := false) :
    HomeXl × State :=
  match s.chip? lci with
  | none => (.fail, s)
  | some c =>
    let give := fun (t : Tlb) (a : Nat) => HomeXl.at_ a (match cls with | some x => if t.s2cls then t.cls else x | none => t.cls)
    let mpaOf := fun (t : Tlb) => match t.home with | .here _ m => m + (pod - t.input) | .remote _ => pod
    let cofs := podOfs c.ident.chw pod
    let locked := c.ident.tdi == 1 || c.ident.tdi == 2
    let wc := (s.die die).walk
    let kept := fun (t : Option Tlb) => s.modDie die fun d => { d with
      walk := keepWalk wc (s.s2Trail wc lci cofs), fabTlb := tlbWalked 2048 d.fabTlb lci true pod t }
    let walk : HomeXl × State :=
      match s.s2Walk lci cofs wc with
      | .nonres _ _ level => (.nonres level, kept none)
      | .fail _ _ => (.fail, kept none)
      | .ok out cc ovr r w x page =>
        if !allowed r w x k then (.fail, kept none)
        else
          let t := mkTlb lci true pod page (.here lci (out / page * page)) cc ovr r w x (cofs / page * page)
          (give t out, kept (some t))
    if podChip c.ident.chw pod ≠ c.ident.pchip || (cls.isNone && locked && !request) then (.fail, s)
    else
      match tlbFind (s.die die).fabTlb lci true pod with
      | some t => if allowed t.r t.w t.x k then (give t (mpaOf t), s) else walk
      | none => walk

/-- The requester of an arriving access: its agent, and for a PV line the team that stands for it (log 42). -/
def farWho (p : Packet) (ident : Nat) (sync : Bool) : Who :=
  let a := Agent.ofIdent ident
  { agent := { a with pchip := p.src.toNat }
    team := if ident = 0 then none else some { lci := 4096 + p.src.toNat, handle := a.launch, index := a.team }
    writer := some p.src.toNat, checked := sync, pod := p.addr.toNat / 128 * 128 }

/-- An arriving access that its page's class forbids: of an order other than weak to a PV page (Table 4.5). A PV write-back
of an owner's dirty sectors, a STORE of class PV, marks the end of the ownership in its ORD field (log 41). -/
def farIllegal (p : Packet) (cls : Cls) (ord : Nat) (s2c : Bool) : Bool :=
  cls == .pv && ord != 0 && (s2c || p.type.toNat != ptStore || Cls.ofCode p.cls.toNat != .pv)

/-- The class that a packet carries; none under S2C (16 R499). -/
def packetCls (p : Packet) (s2c : Bool) : Option Cls := if s2c then none else some (Cls.ofCode p.cls.toNat)

/-- The answer to a packet. -/
def answerDraft (p : Packet) (ty : Nat) (beats : List Beat) : Draft :=
  { ty := ty, src := p.dst.toNat, dst := p.src.toNat, addr := 0, msgid := p.msgid.toNat, prio := p.prio.toNat, cls := 0,
    scope := 0, beats := beats }

/-- The cause of lanes that failed, as an answer carries it. -/
def ansCause (l : List LaneAns) : Nat := ((l.findSome? LaneAns.cause).map (·.1)).getD 0

/-- Bits of a mask. -/
def maskBits (n : Nat) (p : Nat → Bool) : Nat := ((List.range n).filter p).foldl (fun m k => m + 2 ^ k) 0

/-! ### Loads -/

/-- A remote load is performed at this home (02 R58, 16 R417). -/
def State.serveLoad (s : State) (port lci : Nat) (p : Packet) : State :=
  let gid := s.gidOf lci
  let ctl := if p.len = 0 then beatOf [(0, 32, 0xFFFFFFFF)] else pktCtl p
  let ord := beatGet ctl 32 3
  let s2c := beatGet ctl 255 1 == 1
  let pod := p.addr.toNat / 128 * 128
  let words := (List.range 32).filter fun k => (beatGet ctl 0 32).testBit k
  let r := s.homeXlate (portDie port) lci pod (packetCls p s2c) .read
  let send := fun (s : State) (valid cause : Nat) (l : List Byte) =>
    s.reply gid (answerDraft p ptLoadRsp (loadRspCtl valid cause s.gtc :: beatsOf (ceilDiv l.length 32) l))
  match r.1 with
  | .nonres _ => send r.2 0 0 []
  | .fail => send r.2 0 Cause.fabric []
  | .at_ mpa cls =>
    if farIllegal p cls ord s2c then send r.2 0 Cause.classIllegal []
    else if r.2.shootHolds lci mpa cls || !r.2.readReady lci (mpa / 128) cls then s
    else
      let sync := ord != 0 || cls == .sc
      let lanes : List TxnLane := words.map fun k =>
        { lane := k, addr := mpa + 4 * k, bytes := 4, data := [], ea := pod + 4 * k }
      let q := r.2.bankRead
        { lci := lci, line := mpa / 128, cls := cls, sync := sync, scope := scopeOfNum p.scope.toNat,
          who := farWho p (beatGet ctl 64 64) sync, lanes := lanes } 0
      let line := q.answers.foldl (fun l a => patch l (4 * a.lane) a.data) (List.replicate 128 0)
      send q.st (maskBits 32 fun k => q.answers.any fun a => a.lane == k && a.valid) (ansCause q.answers) line

/-- LOAD. -/
def execLoadPacket (port : BitVec 5) (pkt : Packet) (s : State) : Out :=
  .next (s.arrives port.toNat pkt ptLoad fun lci => s.serveLoad port.toNat lci pkt)

/-- The outstanding transaction that a packet answers. -/
def State.answeredTxn (s : State) (lci : Nat) (p : Packet) : Option Txn :=
  s.traffic.txns.find? fun t =>
    t.msgid == p.msgid.toNat && t.agent.pchip == s.pchipOf lci &&
      (match t.home, s.chip? lci with
       | .remote pod, some c => podChip c.ident.chw pod == p.src.toNat
       | _, _ => false)

/-- Words of a line that a lane touches. -/
def TxnLane.words (t : TxnLane) : List Nat :=
  (List.range 32).filter fun k => decide (t.addr % 128 < 4 * k + 4) && decide (4 * k < t.addr % 128 + t.bytes)

/-- The answers of lanes whose line's words carry valid bits, and one cause for the others. -/
def wordAnswers (lanes : List TxnLane) (valid cause pod : Nat) (line : List Byte) : List LaneAns :=
  lanes.map fun t =>
    let ok := t.words.all fun k => valid.testBit k
    { lane := t.lane, valid := ok, member := none
      data := if ok then (line.drop (t.addr % 128)).take t.bytes else List.replicate t.bytes 0
      cause := if ok || cause = 0 then none
        else some (cause, if cause = Cause.fabric || cause = Cause.peerLost then pod + t.addr % 128 else t.ea) }

/-- Sectors whose words are all valid. -/
def validSectors (valid : Nat) (m : BitVec 4) : Bool :=
  (List.range 4).all fun k => !m.getLsbD k || (List.range 8).all fun i => valid.testBit (8 * k + i)

/-- A load's answer at its requester; lines that an L1 may hold are kept (03 R79, 04 R133). -/
def State.loadAnswered (s : State) (t : Txn) (p : Packet) : State :=
  let ctl := pktCtl p
  let valid := beatGet ctl 0 32
  let cause := beatGet ctl 32 8
  let line := (bytesOfBeats (p.beats.drop 1) ++ List.replicate 128 0).take 128
  let sect := lanesSectors t.lanes
  let ans := wordAnswers t.lanes valid cause t.pod line
  if t.cls == .pv && !t.s2cls && t.acc.isSome then
    if cause = 0 && validSectors valid sect then
      let s := s.l1Install t.core t.home .pv line sect 0 t.team t.first
      match s.pvCopy t with
      | some l => s.performPv t l
      | none => s
    else s.answerTxn t ans 0
  else
    let s :=
      if t.install && t.cls == .wo && !t.s2cls && cause = 0 && validSectors valid sect then
        s.l1Install t.core t.home .wo line sect 0 none t.first
      else s
    s.answerTxn t ans 0

/-- LOAD_RSP. -/
def execLoadRsp (port : BitVec 5) (pkt : Packet) (s : State) : Out :=
  .next (s.arrives port.toNat pkt ptLoadRsp fun lci =>
    match s.answeredTxn lci pkt with
    | some t => s.loadAnswered t pkt
    | none => s)

/-! ### Stores -/

/-- Runs of set bits of a byte mask: first byte and length; `k` bounds the bytes looked at. -/
def byteRuns (m : Nat) : Nat → Nat → List (Nat × Nat)
  | 0, _ => []
  | k + 1, i =>
    let r := byteRuns m k (i + 1)
    if !m.testBit i then r
    else
      match r with
      | (a, n) :: q => if a = i + 1 then (i, n + 1) :: q else (i, 1) :: r
      | [] => [(i, 1)]

/-- A run of bytes of a line, cut at its sectors. -/
def sectorRuns (ofs len : Nat) : List (Nat × Nat) :=
  (List.range 4).filterMap fun k =>
    let lo := max ofs (32 * k)
    let hi := min (ofs + len) (32 * k + 32)
    if lo < hi then some (lo, hi - lo) else none

/-- A remote store is performed at this home. A PV store of order rel ends the ownership of its line (log 41). -/
def State.serveStore (s : State) (port lci : Nat) (p : Packet) : State :=
  let gid := s.gidOf lci
  let ctl := pktCtl p
  let ord := beatGet ctl 192 3
  let s2c := beatGet ctl 255 1 == 1
  let pod := p.addr.toNat / 128 * 128
  let mask := beatGet ctl 0 128
  let line := (bytesOfBeats (p.beats.drop 1) ++ List.replicate 128 0).take 128
  let r := s.homeXlate (portDie port) lci pod (packetCls p s2c) .write
  let send := fun (s : State) (c valid cause : Nat) => s.reply gid (answerDraft p ptStoreAck [storeAckCtl c valid cause])
  match r.1 with
  | .nonres _ => send r.2 s.gtc 0 0
  | .fail => send r.2 s.gtc 0 Cause.fabric
  | .at_ mpa cls =>
    if farIllegal p cls ord s2c then send r.2 r.2.gtc 0 Cause.classIllegal
    else if r.2.shootHolds lci mpa cls then s
    else
      let sync := (ord != 0 && cls != .pv) || cls == .sc
      let who := farWho p (beatGet ctl 128 64) sync
      let marks : BitVec 4 := BitVec.ofNat 4 (beatGet ctl 196 4)
      let runs := if marks = 0 then byteRuns mask 128 0
        else (byteRuns mask 128 0).flatMap fun q => (sectorRuns q.1 q.2)
      let lanes : List TxnLane := runs.map fun q =>
        { lane := q.1, addr := mpa + q.1, bytes := q.2, data := (line.drop q.1).take q.2, ea := pod + q.1,
          bad := marks.getLsbD (q.1 / 32) }
      let q := r.2.bankStore
        { lci := lci, line := mpa / 128, cls := cls, sync := sync, scope := scopeOfNum p.scope.toNat, who := who, lanes := lanes }
      let s := if cls == .pv && ord = 2 then
          (match q.st.bankLine? lci (mpa / 128) with
           | some b => if b.owner == who.team then q.st.endOwner b else q.st
           | none => q.st)
        else q.st
      let cause := ansCause q.answers
      send s q.time (if cause = 0 then laneWords lanes else 0) cause

/-- STORE. -/
def execStorePacket (port : BitVec 5) (pkt : Packet) (s : State) : Out :=
  .next (s.arrives port.toNat pkt ptStore fun lci =>
    let s := s.serveStore port.toNat lci pkt
    let ctl := pktCtl pkt
    if beatGet ctl 240 1 = 1 then
      s.namedIn lci pkt.src.toNat (beatGet ctl 224 16) ((List.range 128).filter fun b => ctl.getLsbD b).length
    else s)

/-- The drained line that a packet answers. -/
def State.answeredWcb (s : State) (p : Packet) : Option Wcb :=
  (s.traffic.drained.find? fun d => d.1 == p.msgid.toNat).map (·.2)

/-- A drained line leaves the list of those that wait. -/
def State.dropDrained (s : State) (msgid : Nat) : State :=
  s.modTraffic fun t => { t with drained := t.drained.filter fun d => d.1 != msgid }

/-- What the answer of a core's own store leaves at the core: a WO store is waited for until its effect time, and one that was
not performed leaves no trace in the core's copy (04 R123, R131). -/
def State.storeTold (s : State) (t : Txn) (done : Bool) (c : Nat) : State :=
  if t.acc.isNone || t.cls == .pv then s
  else if done then s.noteLate t.core t.home t.cls c
  else s.dropCopy t.core t.home t.cls

/-- A store's answer at its requester: pending times rise to C + 40 (04 R124). -/
def State.storeAnswered (s : State) (lci : Nat) (p : Packet) : State :=
  let ctl := pktCtl p
  let c := beatGet ctl 0 64
  let valid := beatGet ctl 64 32
  let cause := beatGet ctl 96 8
  match s.answeredWcb p with
  | some w => (s.dropDrained p.msgid.toNat).answerWcb w (valid != 0) cause (c + 40)
  | none =>
    match s.answeredTxn lci p with
    | some t => (s.storeTold t (valid != 0) (c + 40)).answerTxn t (wordAnswers t.lanes valid cause t.pod [])
        (if valid = 0 then 0 else c + 40)
    | none => s

/-- STORE_ACK. -/
def execStoreAck (port : BitVec 5) (pkt : Packet) (s : State) : Out :=
  .next (s.arrives port.toNat pkt ptStoreAck fun lci => s.storeAnswered lci pkt)

/-! ### Atomics (16 R418) -/

/-- The lanes of an ATOMIC packet at a line. -/
def atomicLanes (p : Packet) (op : AtomOp) (base pod : Nat) : List TxnLane :=
  let ctl := pktCtl p
  let w := atomOperand op
  let data := bytesOfBeats (p.beats.drop 1)
  (List.range (min (beatGet ctl 80 4) 8)).map fun i =>
    let d := beatGet ctl (96 + 16 * i) 16
    { lane := i, addr := base + 4 * bits d 5 5, bytes := atomWidth op, data := (data.drop (w * i)).take w,
      ea := pod + 4 * bits d 5 5 }

/-- A remote atomic is performed at this home: a synchronising access, whatever its order (04 R146). -/
def State.serveAtomic (s : State) (port lci : Nat) (p : Packet) : State :=
  let gid := s.gidOf lci
  let ctl := pktCtl p
  let ret := beatGet ctl 88 1 == 1
  let s2c := beatGet ctl 255 1 == 1
  let pod := p.addr.toNat / 128 * 128
  match AtomOp.ofCode (BitVec.ofNat 4 (beatGet ctl 64 8)), decide (beatGet ctl 64 8 < 16) with
  | some op, true =>
    let r := s.homeXlate (portDie port) lci pod (packetCls p s2c) .atomic
    let send := fun (s : State) (valid c cause : Nat) (l : List Byte) =>
      s.reply gid (answerDraft p ptAtomicRsp
        (beatOf [(0, 8, valid), (8, 8, cause), (64, 64, c)] :: beatsOf (ceilDiv l.length 32) l))
    (match r.1 with
     | .nonres _ => send r.2 0 s.gtc 0 []
     | .fail => send r.2 0 s.gtc Cause.fabric []
     | .at_ mpa cls =>
       if farIllegal p cls (beatGet ctl 72 3) s2c then send r.2 0 r.2.gtc Cause.classIllegal []
       else if r.2.shootHolds lci mpa cls then s
       else
         let lanes := atomicLanes p op mpa pod
         let q := r.2.bankAtomic
           { lci := lci, line := mpa / 128, cls := cls, sync := true, scope := scopeOfNum (beatGet ctl 75 3),
             who := farWho p (beatGet ctl 0 64) true, lanes := lanes } op
         send q.st (maskBits 8 fun k => q.answers.any fun a => a.lane == k && a.valid) q.time (ansCause q.answers)
           (if ret then q.answers.flatMap fun a => (a.data ++ List.replicate (atomWidth op) 0).take (atomWidth op) else []))
  | _, _ => s.rejectPacket port p gid

/-- ATOMIC. -/
def execAtomic (port : BitVec 5) (pkt : Packet) (s : State) : Out :=
  .next (s.arrives port.toNat pkt ptAtomic fun lci => s.serveAtomic port.toNat lci pkt)

/-- An atomic's answer at its requester. -/
def State.atomicAnswered (s : State) (t : Txn) (p : Packet) : State :=
  let ctl := pktCtl p
  let valid := beatGet ctl 0 8
  let cause := beatGet ctl 8 8
  let w := match t.kind with | .atomic op _ => atomWidth op | .load => 4 | .store => 4
  let data := bytesOfBeats (p.beats.drop 1)
  let ans := t.lanes.zipIdx.map fun q =>
    let ok := valid.testBit q.2
    ({ lane := q.1.lane, valid := ok, member := none
       data := if ok then ((data.drop (w * q.2)).take w ++ List.replicate w 0).take w else List.replicate w 0
       cause := if ok || cause = 0 then none
         else some (cause, if cause = Cause.fabric then t.pod + q.1.addr % 128 else q.1.ea) } : LaneAns)
  s.answerTxn t ans (if valid = 0 then 0 else beatGet ctl 64 64 + 40)

/-- ATOMIC_RSP. -/
def execAtomicRsp (port : BitVec 5) (pkt : Packet) (s : State) : Out :=
  .next (s.arrives port.toNat pkt ptAtomicRsp fun lci =>
    match s.answeredTxn lci pkt with
    | some t => s.atomicAnswered t pkt
    | none => s)

/-! ### Page requests over the fabric (02 R67, R71) -/

/-- A PREQ: kind 0 request, 1 reply in [7:0]; ACC in [9:8] of a request; outcome in [15:8] of a reply (log 40). -/
def preqReply (code : Nat) : Beat := beatOf [(0, 8, 1), (8, 8, code)]

/-- Answers a page request of another module. -/
def State.replyFar (s : State) (lci pchip msgid page code : Nat) : State :=
  s.reply (s.gidOf lci)
    { ty := ptPreq, src := s.pchipOf lci, dst := pchip, addr := page, msgid := msgid, prio := 0, cls := 0, scope := 0,
      beats := [preqReply code] }

/-- The home of a page that another module asks for. -/
def State.servePreq (s : State) (port lci : Nat) (p : Packet) : State :=
  let acc := beatGet (pktCtl p) 8 2
  let k : AccKind := if acc % 2 = 1 then .write else .read
  let pod := p.addr.toNat
  let r := s.homeXlate (portDie port) lci pod none k true
  let answer := fun (s : State) (code : Nat) => s.replyFar lci p.src.toNat p.msgid.toNat (pod / 4096 * 4096) code
  match r.1 with
  | .at_ _ _ => answer r.2 pgResolved
  | .fail => answer r.2 pgFabric
  | .nonres level =>
    match r.2.requestPage (portDie port) lci 1 pod 0 level acc p.src.toNat (.far p.src.toNat p.msgid.toNat) with
    | none => answer r.2 pgFailed
    | some q => q.1.failWaiters q.2

/-- The outcome of a page request of this module at another: lanes and engines go on or fail (02 R71, R65). -/
def State.farDone (s : State) (q : PageReq) (code : Nat) : State :=
  let s := s.dropPage q.vf 2 q.reqid
  let s := s.lanesDone q.waiters code q.faddr
  if code = pgResolved || code = pgOk || code = pgCancelled then s.freeEngines q.waiters
  else s.failEngines q.waiters (pageCause code)

/-- Sends the requests to other modules that have waited for room in their die's table; one whose peer is lost by now fails
(02 R70, R71). -/
def State.farNext (s : State) : State :=
  s.traffic.pages.foldl (fun (s : State) q =>
    if q.queue != 2 || q.posted || 128 ≤ s.pagesPosted q.die then s
    else
      let r := s.sendPreq q
      if r.2 then r.1 else r.1.farDone q pgLost) s

/-- Posts and sends the requests that have waited for room, and fails the waiters of records that cannot be written (02 R70,
R493). -/
def State.pagesNext (s : State) : State :=
  let r := s.farNext.postPages
  r.1.failWaiters r.2

/-- An acknowledgement of another module: the access that waits for it takes note (log 33). -/
def State.noticeHeard (s : State) (n : Notice) : State :=
  let s := s.modMod fun m => { m with notices := m.notices.filter fun x => x.id != n.id }
  match n.who with
  | .access a => s.modAccess a fun x => x.got n.id [] 0
  | .shoot _ => s
  | .none => s

/-- PREQ. -/
def execPreq (port : BitVec 5) (pkt : Packet) (s : State) : Out :=
  .next (s.arrives port.toNat pkt ptPreq fun lci =>
    if beatGet (pktCtl pkt) 0 8 = 0 then s.servePreq port.toNat lci pkt
    else
      match s.traffic.pages.find? fun q => q.queue == 2 && q.vf == lci && q.reqid == pkt.msgid.toNat with
      | some q => (s.farDone q (beatGet (pktCtl pkt) 8 8)).pagesNext
      | none => s)

/-! ### Errors (Table 16.2) -/

/-- ERROR: the request it answers fails with its cause; a store is dropped and reported (15 R412). -/
def execError (port : BitVec 5) (pkt : Packet) (s : State) : Out :=
  .next (s.arrives port.toNat pkt ptError fun lci =>
    let cause := beatGet (pktCtl pkt) 0 8
    match s.answeredWcb pkt with
    | some w => ((s.dropDrained pkt.msgid.toNat).noteDrop w.lci w.pod).answerWcb w false 0 0
    | none =>
      match s.answeredTxn lci pkt with
      | some t => (if t.kind == .store then s.storeTold t false 0 else s).loseTxn t lci cause
      | none =>
        match s.traffic.sends.find? fun x => x.lci == lci && x.pchip == pkt.src.toNat && x.msgid == pkt.msgid.toNat with
        | some x => s.sendFault x cause
        | none => s)

end Sys2Proof.Machine
end

