-- ==== Sys2Proof/Machine/Messages.lean ====
section
/-! DEFINITION. FSEND, FPOST and FLOGPOP, the grant scheduler, and the message packets and timers (12 R352 to R355, 16 R426
to R432). -/

namespace Sys2Proof.Machine

/-! ### FSEND (12 R352) -/

/-- The place field of an FSEND, which its job holds (01 R36), or why it stops: reserved bits, the place, or an unassigned
chip (01 R33, R26). -/
def Ix.sendPlace (x : Ix) (v : Nat) : (Nat × Nat) ⊕ Nat :=
  let fld := bits v 0 12
  if bits v 24 8 ≠ 0 then .inl (Cause.reservedBits, x.cur.line.toNat)
  else
    match x.s.chip? x.t.id.lci with
    | none => .inl (Cause.access, placeAddr placeChip fld)
    | some c =>
      match c.chipPlace fld with
      | none => .inl (Cause.access, placeAddr placeChip fld)
      | some p =>
        match x.s.chipHome c.ident.gid p with
        | .unassigned => .inl (Cause.access, placeAddr placeChip fld)
        | .here _ => .inr fld
        | .peer _ _ => .inr fld

/-- FSEND. -/
def execFsend (f : FmtX) (s : State) : Out :=
  issue s f.r.sched fun i =>
    match i.operandTrap (i.own (i.regsX f)) (i.t.desc.regsOf f.r.dst) with
    | some tr => i.trap tr
    | none =>
      if i.active = 0 then i.finish f.r.sched none []
      else
        let v := i.rd i.low f.r.sa
        match i.sendPlace v with
        | .inl e => i.trapActive e.1 e.2
        | .inr fld =>
          match i.resolve f.shape true with
          | .inl e => i.trapActive e.1 e.2
          | .inr b =>
            match i.boxTrap b b.rowCount false with
            | some e => i.trapActive e.1 e.2
            | none =>
              if 2 ^ 26 < b.rowCount * b.rowBytes then i.trapActive Cause.access 0xFFFFFFFF
              else
                let spad := f.r.mod.getLsbD 2
                let plan : JobPlan := {
                  kind := .send (bits v 12 12) fld (BitVec.ofNat 32 (i.rd i.low f.r.sb)) spad, dir := 1, box := b,
                  rows := b.rowCount, prio := bits f.r.mod.toNat 0 2, arr := false }
                i.fenced .pod fun _ => i.postJob f plan true

/-! ### FPOST (12 R353) -/

/-- The earliest unplaced request of a queue whose tag a buffer admits (16 R428). -/
def State.wantsBuffer (s : State) (lci queue : Nat) (filter : Word) : Option MsgReq :=
  s.traffic.msgs.find? fun m =>
    m.lci == lci && m.queue == queue && m.place == .unplaced && (filter == m.tag || filter == 0xFFFFFFFF)

/-- A buffer is posted: it takes a waiting request, or waits itself. -/
def State.postBuffer (s : State) (lci queue : Nat) (b : PostBuf) : State :=
  match s.wantsBuffer lci queue b.filter with
  | some m =>
    (s.modMsg m.id fun x => { x with place := .buffer b.va b.cap b.bar b.team, granted := 0 }).notePlaced lci queue
  | none => s.modChip lci fun c => { c with posts := smSet [] c.posts queue (smGet [] c.posts queue ++ [b]) }

/-- FPOST. -/
def execFpost (f : FmtR) (s : State) : Out :=
  issue s f.sched fun i =>
    match i.operandTrap (i.own (i.t.desc.regsOf f.sa ++ i.t.desc.regsFrom f.sb 4)) (i.t.desc.regsOf f.dst) with
    | some tr => i.trap tr
    | none =>
      if i.active = 0 then i.finish f.sched none []
      else
        let va := i.rd i.low f.sa
        let arg := fun (k : Nat) => i.reg i.low ((i.t.desc.regsFrom f.sb 4).getD k 0)
        let cap := arg 1
        let bar := if arg 2 = 0xFFFFFFFF then none else some (arg 2)
        if va % 64 ≠ 0 then i.trapActive Cause.misaligned va
        else if cap % 64 ≠ 0 then i.trapActive Cause.misaligned cap
        else if cap < 128 || 2 ^ 26 + 64 < cap then i.trapActive Cause.access cap
        else
          match bar.bind fun o => (i.t.barCause o).map fun c => (c, o) with
          | some e => i.trapActive e.1 e.2
          | none =>
            let queue := arg 0
            let held := match i.s.chip? i.t.id.lci with | some c => (smGet [] c.posts queue).length | none => 0
            if 63 < queue then i.finish f.sched none (i.allDst f.dst 2)
            else if 64 ≤ held then i.finish f.sched none (i.allDst f.dst 1)
            else
              (i.finish f.sched none (i.allDst f.dst 0)).postBuffer i.t.id.lci queue
                { va := va, cap := cap, bar := bar, filter := BitVec.ofNat 32 (arg 3), team := i.t.id }

/-! ### FLOGPOP (12 R355) -/

/-- Frees the first entry of a log. -/
def RxLog.freeHead (l : RxLog) : RxLog :=
  match l.entries with
  | [] => { l with popped := false }
  | e :: r => { l with entries := r, head := (l.head + e.2.1) % 2 ^ 32, popped := false }

/-- Frees entries that DROP marks; `k` bounds them. -/
def RxLog.skipDropped : Nat → RxLog → RxLog
  | 0, l => l
  | k + 1, l =>
    match l.entries with
    | [] => l
    | e :: _ => if e.2.2 then RxLog.skipDropped k l.freeHead else l

/-- The message whose entry stands at a slot has not been completed. -/
def State.logPending (s : State) (lci queue slot : Nat) : Bool :=
  s.traffic.msgs.any fun m => m.lci == lci && m.queue == queue &&
    (match m.place with
     | .log k _ => k == slot
     | .unplaced => false
     | .buffer _ _ _ _ => false
     | .region _ _ _ => false
     | .named => false)

/-- FLOGPOP on a log: the log afterwards, and the value of DST. -/
def State.popLog (s : State) (lci queue : Nat) (freeOnly : Bool) : RxLog × Nat :=
  let l := s.rxLog lci queue
  let l := if l.popped then l.freeHead else l
  if freeOnly then (l, 0)
  else
    let l := RxLog.skipDropped l.entries.length l
    match l.entries with
    | [] => (l, 0)
    | e :: _ => if s.logPending lci queue e.1 then (l, 0) else ({ l with popped := true }, l.slotVa e.1)

/-- FLOGPOP. -/
def execFlogpop (f : FmtR) (s : State) : Out :=
  issue s f.sched fun i =>
    match i.operandTrap (i.own (i.t.desc.regsOf f.sa)) (i.t.desc.regsOf f.dst) with
    | some tr => i.trap tr
    | none =>
      if i.active = 0 then i.finish f.sched none []
      else
        let queue := i.rd i.low f.sa
        let lci := i.t.id.lci
        if 63 < queue || !(i.s.rxLog lci queue).enabled then i.trapActive Cause.access queue
        else
          let r := i.s.popLog lci queue (f.mod.getLsbD 0)
          ((i.finish f.sched none (i.allDst f.dst r.2)).setLog lci queue r.1).placeWaiting lci queue

/-! ### The grant scheduler (16 R429) -/

/-- Bytes of a request that no token covers. -/
def MsgReq.ungranted (m : MsgReq) : Nat := (m.len - m.granted) + (m.regrant.map (·.2)).sum

/-- Ticks that a request has waited. -/
def MsgReq.waited (m : MsgReq) (now : Nat) : Nat := now - max m.arrived m.lastToken

/-- Class of a request: one that has waited 1 ms is of class 3. -/
def MsgReq.class_ (m : MsgReq) (now : Nat) : Nat := if 1000000 ≤ m.waited now then 3 else m.prio

/-- The request of a token. -/
def State.tokenReq (s : State) (k : Token) : Option MsgReq := s.msg? k.req

/-- Tokens outstanding on a die whose requests satisfy `p`. -/
def State.tokensWhere (s : State) (die : Nat) (p : MsgReq → Bool) : Nat :=
  (s.traffic.tokens.filter fun k => k.die == die && (match s.tokenReq k with | some m => p m | none => false)).length

/-- A request that may be granted; `rtt` is the measured round trip of its sender's path. -/
def State.mayGrant (s : State) (m : MsgReq) (rtt : Nat) : Bool :=
  let gid := s.gidOf m.lci
  m.place != .unplaced && (m.queue != copyQueue || m.place == .named || s.chipRuns m.lci) && !m.deferred && m.ungranted != 0 && !(s.guest gid).paused && !s.isolated m.peer &&
    decide (s.tokensWhere m.die (fun x => x.src == m.src && s.gidOf x.lci == gid) < max 2 (ceilDiv (56 * rtt) 4096)) &&
    decide (s.tokensWhere m.die (fun x => x.prio == m.prio && s.gidOf x.lci == gid) < s.param gid (3 + m.prio))

/-- The key of a request within its class. -/
def State.grantKey (s : State) (m : MsgReq) : Int :=
  (m.ungranted : Int) - 4096 * (m.waited s.gtc / max 1 (s.param (s.gidOf m.lci) parAge) : Nat)

/-- The request that the next token goes to. -/
def State.nextGrant (s : State) (die rtt : Nat) : Option MsgReq :=
  let l := s.traffic.msgs.filter fun m => m.die == die && s.mayGrant m rtt
  let top := (l.map fun m => m.class_ s.gtc).foldl max 0
  (l.filter fun m => m.class_ s.gtc == top).foldl (fun (a : Option MsgReq) m =>
    match a with
    | none => some m
    | some b => if s.grantKey m < s.grantKey b then some m else some b) none

/-- The range of a request's next token, and the request afterwards. -/
def MsgReq.takeRange (m : MsgReq) : (Nat × Nat) × MsgReq :=
  match m.regrant with
  | r :: rest => (r, { m with regrant := rest })
  | [] =>
    let n := min 4096 (m.len - m.granted)
    ((m.granted, n), { m with granted := m.granted + n })

/-- Sends a token to the sender of a request; a copy that reads from a home serves its token by its own LOADs (log 56). -/
def State.sendToken (s : State) (m : MsgReq) (k : Token) : State :=
  let gid := s.gidOf m.lci
  let me := s.pchipOf m.lci
  if m.queue = copyQueue && m.place != .named then s
  else
  match s.sendDraft gid (msgDraft ptToken me m.src 0 m.msgid m.prio [tokenCtl k.num k.ofs k.len k.expiry m.queue]) with
  | .sent s => s
  | .here lci => s.tokenIn lci me m.queue m.msgid k.num k.ofs k.len k.expiry
  | .lost => s.voidToken k
  | .unassigned => s.voidToken k

/-- Grants one token. -/
def State.grant (s : State) (m : MsgReq) : State :=
  let gid := s.gidOf m.lci
  let r := m.takeRange
  let used := (s.traffic.tokens.filter fun k => k.die == m.die).map Token.num
  let num := freshIn 65536 (Config.freeNat s.free) (0 :: used)
  let k : Token := {
    num := num, die := m.die, req := m.id, ofs := r.1.1, len := r.1.2, expiry := s.gtc + s.param gid parTexp }
  let m2 := { r.2 with lastToken := s.gtc, orphAt := some (m.orphAt.getD (s.gtc + s.param gid parOrph)) }
  let s := ({ s with free := s.free + 1 }.modMsg m.id fun _ => m2).modTraffic fun t => { t with tokens := t.tokens ++ [k] }
  let s := s.count m.die m.lci 0xC 1
  s.sendToken m2 k

/-- A message whose log entry cannot be written is answered NAK 2 and gives up its entry (02 R493). -/
def State.refuseLogged (s : State) (m : MsgReq) : State :=
  match m.place with
  | .log slot _ =>
    if !m.fault then s
    else
      let l := s.rxLog m.lci m.queue
      let gone := fun (e : Nat × Nat × Bool) => if e.1 == slot && !e.2.2 then (e.1, e.2.1, true) else e
      let s := (s.setLog m.lci m.queue { l with entries := l.entries.map gone }).dropMsg m.id
      let me := s.pchipOf m.lci
      (match s.sendDraft (s.gidOf m.lci) (msgDraft ptNak me m.src 0 m.msgid m.prio [nakCtl 2 m.queue]) with
       | .sent s => s
       | .here lci =>
         (match s.traffic.sends.find? fun x => x.lci == lci && x.pchip == me && x.queue == m.queue && x.msgid == m.msgid with
          | some x => s.sendNak x 2
          | none => s)
       | .lost => s
       | .unassigned => s)
  | .unplaced => s
  | .buffer _ _ _ _ => s
  | .region _ _ _ => s
  | .named => s

/-- TOKEN_ISSUE: messages whose bytes are all in are completed, senders do what they can, and one token is granted. -/
def execTokenIssue (die : BitVec 4) (s : State) : Out :=
  let d := die.toNat
  let s := ((s.traffic.msgs.filter fun m => m.die == d).map MsgReq.id).foldl (fun s id => s.msgFinish id) s
  let s := (s.traffic.msgs.filter fun m => m.die == d).foldl (fun s m => s.refuseLogged m) s
  let s := ((s.traffic.sends.filter fun x => x.die == d).map Send.id).foldl (fun s id => s.pumpSend id) s
  .next (
    if 1024 ≤ (s.traffic.tokens.filter fun k => k.die == d).length then s
    else
      match s.nextGrant d (Config.freeNat s.free) with
      | some m => { s with free := s.free + 1 }.grant m
      | none => s)

/-! ### Timers (16 R430, R431, 15 R401) -/

/-- TOKEN_EXPIRY. -/
def execTokenExpiry (die : BitVec 4) (tok : Nat) (s : State) : Out :=
  .next (match s.traffic.tokens.find? fun k => k.die == die.toNat && k.num == tok with
  | none => s
  | some k =>
    match s.tokenReq k with
    | none => s
    | some m => if (s.guest (s.gidOf m.lci)).paused || s.gtc < k.expiry then s else s.voidToken k)

/-- The orphan timer of a request runs (16 R431). -/
def State.orphanRuns (s : State) (m : MsgReq) : Bool :=
  !(s.guest (s.gidOf m.lci)).paused && (s.isolated m.peer || s.traffic.tokens.any fun k => k.req == m.id)

/-- ORPHAN_TIMEOUT. -/
def execOrphanTimeout (die : BitVec 4) (req : Nat) (s : State) : Out :=
  .next (match s.msg? req with
  | none => s
  | some m =>
    match m.orphAt with
    | none => s
    | some t => if m.die == die.toNat && decide (t ≤ s.gtc) && s.orphanRuns m then s.orphan m else s)

/-- NAK_RETRY: the sender sends its request and prefix again after 10 us (16 R428). -/
def execNakRetry (msg : Nat) (s : State) : Out :=
  .next (match s.send? msg with
  | none => s
  | some x =>
    match x.nakUntil with
    | none => s
    | some t =>
      if s.gtc < t || (s.guest (s.gidOf x.lci)).paused then s
      else
        let s := s.modSend msg fun y => { y with nakUntil := none, sentTo := 0 }
        match s.send? msg with
        | some y => (s.sendReq y).pumpSend msg
        | none => s)

/-! ### Message packets (16 R417, R427, R428) -/

/-- A packet of a request restarts its orphan timer. -/
def State.touchMsg (s : State) (id : Nat) : State :=
  let orph := match s.msg? id with | some m => s.param (s.gidOf m.lci) parOrph | none => 0
  s.modMsg id fun m => { m with orphAt := m.orphAt.map fun _ => s.gtc + orph }

/-- MSG_REQ. -/
def execMsgReq (port : BitVec 5) (pkt : Packet) (s : State) : Out :=
  .next (s.arrives port.toNat pkt ptMsgReq fun lci =>
    let c := pktCtl pkt
    let gid := s.gidOf lci
    let peer := match s.chipHome gid pkt.src.toNat with
      | .peer i _ => i
      | .here _ => s.hub.position
      | .unassigned => s.hub.position
    if beatGet c 89 1 = 1 then
      if s.grantsFull (portDie port.toNat) then
        s.reply gid (msgDraft ptNak (s.pchipOf lci) pkt.src.toNat 0 pkt.msgid.toNat pkt.prio.toNat [nakCtl 1 copyQueue])
      else
        s.enterPull (portDie port.toNat) lci pkt.src.toNat pkt.msgid.toNat (beatGet c 0 32) (beatGet c 80 2) [] fun _ => .named
    else
    match s.arriveMsg (portDie port.toNat) lci pkt.src.toNat (beatGet c 64 12) pkt.msgid.toNat (beatGet c 0 32)
        (beatGet c 80 2) (BitVec.ofNat 32 (beatGet c 32 32)) (beatGet c 88 1 == 1) peer with
    | .taken s => s
    | .nak r =>
      s.reply gid (msgDraft ptNak (s.pchipOf lci) pkt.src.toNat 0 pkt.msgid.toNat pkt.prio.toNat [nakCtl r (beatGet c 64 12)]))

/-- The message bytes of a MSG_DATA packet: 28 in the first beat, 32 in each later one. -/
def dataOf (p : Packet) : List Byte := (natLe 32 (pktCtl p).toNat).take 28 ++ bytesOfBeats (p.beats.drop 1)

/-- The request that a MSG_DATA packet belongs to: a token's, or for a prefix the earliest of its sender and MSGID whose
bytes there have not landed. A token moves with its chip, whose packets may then come through another die's port. -/
def State.dataReq (s : State) (port lci : Nat) (p : Packet) : Option MsgReq :=
  let tok := beatGet (pktCtl p) 224 16
  if tok = 0 then
    s.traffic.msgs.find? fun m => m.lci == lci && m.queue != copyQueue && m.src == p.src.toNat && m.msgid == p.msgid.toNat &&
      !covered m.landed p.addr.toNat (min (dataOf p).length (m.len - p.addr.toNat))
  else
    let mine := s.traffic.tokens.filter fun k => k.num == tok &&
      (match s.msg? k.req with | some m => m.lci == lci && m.queue != copyQueue && m.src == p.src.toNat | none => false)
    (match mine.find? fun (k : Token) => k.die == portDie port with
     | some k => some k
     | none => mine.head?).bind fun k => s.msg? k.req

/-- MSG_DATA: data under a void token is dropped; bytes past the message are padding. -/
def execMsgData (port : BitVec 5) (pkt : Packet) (s : State) : Out :=
  .next (s.arrives port.toNat pkt ptMsgData fun lci =>
    match s.dataReq port.toNat lci pkt with
    | none => s
    | some m =>
      let r := s.dataIn m pkt.addr.toNat ((dataOf pkt).take (m.len - pkt.addr.toNat))
      if r.2 then r.1.touchMsg m.id else r.1)

/-- TOKEN. -/
def execToken (port : BitVec 5) (pkt : Packet) (s : State) : Out :=
  .next (s.arrives port.toNat pkt ptToken fun lci =>
    let c := pktCtl pkt
    s.tokenIn lci pkt.src.toNat (beatGet c 160 12) pkt.msgid.toNat (beatGet c 0 16) (beatGet c 32 32) (beatGet c 64 32)
      (beatGet c 96 64))

/-- DEFER. -/
def execDefer (port : BitVec 5) (pkt : Packet) (s : State) : Out :=
  .next (s.arrives port.toNat pkt ptDefer fun lci =>
    let c := pktCtl pkt
    s.deferMsg lci pkt.src.toNat (beatGet c 32 12) (beatGet c 0 16) (beatGet c 16 16))

/-- RESUME. -/
def execResume (port : BitVec 5) (pkt : Packet) (s : State) : Out :=
  .next (s.arrives port.toNat pkt ptResume fun lci =>
    let c := pktCtl pkt
    s.resumeMsg lci pkt.src.toNat (beatGet c 32 12) (beatGet c 0 16))

/-- NAK. -/
def execNak (port : BitVec 5) (pkt : Packet) (s : State) : Out :=
  .next (s.arrives port.toNat pkt ptNak fun lci =>
    let c := pktCtl pkt
    match s.traffic.sends.find? fun x => x.lci == lci && x.pchip == pkt.src.toNat && x.queue == beatGet c 32 12 &&
        x.msgid == pkt.msgid.toNat with
    | some x => s.sendNak x (beatGet c 0 8)
    | none => s)

end Sys2Proof.Machine
end

