-- ==== Sys2Proof/Machine/Links.lean ====
section
/-! DEFINITION. Links and peers: acknowledgements, resends, training, detours, rekeying, isolation, and the time base
(16 R414, R415, R424, R434, R435, R437, 15 R412). -/

namespace Sys2Proof.Machine

/-- Applies `f` to a port. -/
def State.modPort (s : State) (p : Nat) (f : Port → Port) : State := s.modDie p fun d => { d with port := f d.port }

/-! ### Links (16 R414, R415) -/

/-- Packets after the acknowledgement of a link sequence number: those up to it are accepted. -/
def ackUpTo (l : List Packet) (n : BitVec 12) : List Packet :=
  if l.any fun p => p.lseq == n then (l.dropWhile fun p => p.lseq != n).drop 1 else l

/-- LINK_ACK: accepted packets are never sent again. -/
def execLinkAck (port : BitVec 4) (lseq : BitVec 12) (s : State) : Out :=
  .next (s.modPort port.toNat fun p => { p with unacked := ackUpTo p.unacked lseq, resends := 0 })

/-- The destinations of a guest on other modules of the cell: peer and label. -/
def State.cellPeers (s : State) (gid : Nat) : List (Nat × Nat) :=
  ((s.guest gid).table.filterMap fun e =>
    match s.chipHome gid e.1 with
    | .peer i label => if i < 16 then some (i, label) else none
    | .here _ => none
    | .unassigned => none).eraseDups

/-- Guests with their cell peers and labels. -/
def State.allRoutes (s : State) : List (Nat × Nat × Nat) :=
  s.mod.guests.flatMap fun g => (s.cellPeers g.1).map fun p => (g.1, p.1, p.2)

/-- A label of a guest uses a port: it goes out of it, or its detour does. -/
def State.usesPort (s : State) (gid label port : Nat) : Bool :=
  let ports := s.routePorts gid label
  ports.contains port || (match ports with
    | [] => false
    | p :: _ => rRv (s.route p label) && (portsTo Config.cellOfEight s.hub.position (rRelay (s.route p label))).contains port)

/-- A chip of a guest with an entry towards a peer. -/
def State.hasRoute (s : State) (gid peer : Nat) : Bool :=
  (s.guest gid).table.any fun e =>
    match s.chipHome gid e.1 with
    | .peer i _ => i == peer
    | .here _ => false
    | .unassigned => false

/-- Posts an event about a peer to the physical function and to each chip with a route to it (Table 16.9). -/
def State.postPeer (s : State) (code peer info1 : Nat) : State :=
  let s := s.postPf code peer info1
  s.chips.foldl (fun s c => if s.hasRoute c.2.ident.gid peer then s.postEvent c.1 code peer info1 else s) s

/-- The peer that a transaction goes to. -/
def State.txnPeer (s : State) (t : Txn) : Option Nat :=
  match t.home, s.chip? (t.lci s) with
  | .remote pod, some c =>
    (match s.chipHome c.ident.gid (podChip c.ident.chw pod) with
     | .peer i _ => some i
     | .here _ => none
     | .unassigned => none)
  | _, _ => none

/-- The peer that a pod address of a chip lies on. -/
def State.podPeer (s : State) (lci pod : Nat) : Option Nat :=
  match s.chip? lci with
  | none => none
  | some c =>
    match s.chipHome c.ident.gid (podChip c.ident.chw pod) with
    | .peer i _ => some i
    | .here _ => none
    | .unassigned => none

/-- Everything outstanding towards an isolated peer is answered here (16 R434); what it was asked to acknowledge is waited for
no more (log 33). -/
def State.answerLost (s : State) (peer : Nat) : State :=
  let s := (s.traffic.txns.filter fun t => s.txnPeer t == some peer).foldl
    (fun (s : State) t => s.loseTxn t (t.lci s) Cause.peerLost) s
  let s := (s.traffic.drained.filter fun d => s.podPeer d.2.lci d.2.pod == some peer).foldl
    (fun (s : State) d => ((s.dropDrained d.1).noteDrop d.2.lci d.2.pod).answerWcb d.2 false 0 0) s
  let s := (s.traffic.sends.filter fun x => match s.chipHome (s.gidOf x.lci) x.pchip with | .peer i _ => i == peer | _ => false).foldl
    (fun (s : State) x => s.sendFault x Cause.peerLost) s
  let s := (s.traffic.pages.filter fun q => q.queue == 2 && s.podPeer q.vf q.faddr == some peer).foldl
    (fun (s : State) q => s.farDone q pgLost) s
  let s := ((s.mod.notices.filter fun n => n.peer == peer).foldl (fun (s : State) n => s.noticeHeard n) s).pagesNext
  let s := (s.traffic.tokens.filter fun k => match s.tokenReq k with | some m => m.peer == peer | none => false).foldl
    (fun (s : State) k => s.voidToken k) s
  let s := s.modTraffic fun t => { t with msgs := t.msgs.map fun m =>
    if m.peer == peer then { m with orphAt := some (m.orphAt.getD (s.gtc + s.param (s.gidOf m.lci) parOrph)) } else m }
  (s.traffic.cards.filter fun c => c.outcome == 0 && c.started && s.memberLost c).foldl
    (fun (s : State) c => s.cardFault c.id Cause.peerLost c.va) s

/-- Isolates a peer, once: 0 link down, 1 heartbeat lost. -/
def State.isolatePeer (s : State) (peer reason : Nat) (post : Bool) : State :=
  if s.isolated peer then s
  else
    let s := s.modMod fun m => { m with
      peers := smSet Peer.init m.peers peer { smGet Peer.init m.peers peer with isolated := true, lost := true } }
    (if post then s.postPeer 0x0040 peer reason else s).answerLost peer

/-- Sends an unaccepted packet of a failed port over the path that its label has now; a relayed packet has none
(16 R414, R420, R424). -/
def State.reroute (s : State) (port : Nat) (p : Packet) : State :=
  let e := s.route port p.route.toNat
  if rFwd e then s
  else
    match s.egress (rGuest e) p.route.toNat p.src.toNat p.dst.toNat false with
    | some q => s.emit q p
    | none => s

/-- Relays of the labels whose every port is down. -/
def State.detoursOf (s : State) (port : Nat) : List Nat :=
  (s.allRoutes.filterMap fun r =>
    let ports := s.routePorts r.1 r.2.2
    if ports.contains port && ports.all (fun p => !(s.die p).port.up) then
      match ports with
      | [] => none
      | p :: _ => if rRv (s.route p r.2.2) then some (rRelay (s.route p r.2.2)) else none
    else none).eraseDups

/-- A link goes down: its labels take the rest of the group, or the detour, or their peer is isolated (16 R414, R420, R424,
R434). -/
def State.linkDown (s : State) (port : Nat) : State :=
  let old := (s.die port).port
  let first := match old.unacked with | [] => old.lseq | p :: _ => p.lseq.toNat
  let s := (s.modPort port fun p => { p with up := false, unacked := [], resends := 0 }).postPf 0x0044 port first
  let relays := (s.detoursOf port).filter fun r => !(s.relayUp r).isEmpty
  let s := relays.foldl (fun (s : State) r => s.postPf 0x0045 port r) s
  let group := (s.allRoutes.flatMap fun r =>
    let ports := s.routePorts r.1 r.2.2
    if ports.contains port && ports.all (fun p => !(s.die p).port.up) then ports else []).eraseDups
  let s := if relays.isEmpty then s else group.foldl (fun (s : State) p => s.modPort p fun x => { x with detour := true }) s
  let lost := ((s.allRoutes.filter fun r =>
    s.usesPort r.1 r.2.2 port && (s.egress r.1 r.2.2 0 0 false).isNone).map fun r => r.2.1).eraseDups
  let s := lost.foldl (fun (s : State) i => s.isolatePeer i 0 true) s
  old.unacked.foldl (fun (s : State) p => s.reroute port p) s

/-- RESEND_TIMEOUT: unaccepted packets go again in order; after 16 resends that failed the link is down. -/
def execResendTimeout (port : BitVec 4) (s : State) : Out :=
  let p := (s.die port.toNat).port
  .next (if !p.up || p.unacked.isEmpty then s
    else if p.resends < 16 then
      { s.modPort port.toNat fun x => { x with resends := x.resends + 1 } with outbox := p.unacked.reverse ++ s.outbox }
    else s.linkDown port.toNat)

/-- LINK_TRAINING: the link runs at version 1 when the peer's range holds it, and otherwise stays down. Traffic that has
taken a detour stays there (16 R415, R424). -/
def execLinkTraining (port : BitVec 4) (lo hi : Nat) (s : State) : Out :=
  .next (if (s.die port.toNat).port.up then s
    else if lo ≤ 1 ∧ 1 ≤ hi then s.modPort port.toNat fun p => { p with up := true, version := 1, unacked := [], resends := 0 }
    else s.postPf 0x0046 port.toNat hi)

/-- LINK_REKEY: the sending end of a virtual link changes its key after 2^31 packets (15 R412). -/
def execLinkRekey (src dst : BitVec 10) (gid : BitVec 16) (s : State) : Out :=
  let k := linkKey gid.toNat src.toNat dst.toNat
  let v := smGet 0 s.mod.keys k
  .next (if v / 2 < 2 ^ 31 then s else s.modMod fun m => { m with keys := smSet 0 m.keys k ((v + 1) % 2) })

/-! ### Peers (16 R434, R435) -/

/-- HEARTBEAT_LOSS: the peer's heartbeat has been missing for 100 us. -/
def execHeartbeatLoss (peer : Nat) (s : State) : Out := .next (s.isolatePeer peer 1 true)

/-- Peers that a port reaches directly. -/
def State.portPeers (s : State) (port : Nat) : List Nat :=
  ((s.allRoutes.filter fun r => (s.routePorts r.1 r.2.2).contains port).map fun r => r.2.1).eraseDups

/-- TIME_SYNC_EXCHANGE: the offset of this module's GTC from the root's is estimated anew, and a GTC that is behind gains at
most 200 ppm of the 10 us of an exchange; it is never stepped back (16 R435). -/
def execTimeSyncExchange (port : BitVec 5) (offset : Int) (s : State) : Out :=
  let s := (s.portPeers port.toNat).foldl (fun (s : State) i => s.modMod fun m =>
    { m with peers := smSet Peer.init m.peers i { smGet Peer.init m.peers i with offset := offset } }) s
  .next { s with gtc := s.gtc + min 2 (-offset).toNat }

/-- Every peer that the tables name. -/
def State.knownPeers (s : State) : List Nat :=
  ((s.mod.guests.flatMap fun g => g.2.table.filterMap fun e =>
    match s.chipHome g.1 e.1 with
    | .peer i _ => some i
    | .here _ => none
    | .unassigned => none) ++ s.mod.peers.map fun p => p.1).eraseDups

/-- TIME_LOST: an estimate above 30 ns for 100 us isolates the module from every peer (16 R435). -/
def execTimeLost (offset : Int) (s : State) : Out :=
  .next (if offset.natAbs ≤ 30 then s
    else s.knownPeers.foldl (fun (s : State) i => s.isolatePeer i 0 false) (s.postPf 0x0047 (addr64 offset) 0))

/-- STORE_DROPPED: the count of a chip's dropped stores is posted, once in a millisecond (16 R434, R437). -/
def execStoreDropped (lci : BitVec 8) (s : State) : Out :=
  .next (match s.mod.dropped.find? fun p => p.1 == lci.toNat with
  | none => s
  | some p =>
    (s.modMod fun m => { m with dropped := m.dropped.filter fun q => q.1 != lci.toNat }).postEvent lci.toNat 0x0042 p.2.1 p.2.2)

end Sys2Proof.Machine
end

