-- ==== Sys2Proof/Machine/Held.lean ====
section
/-! DEFINITION. What waits for a page: ring records held by a chip, and the outcome of page requests (02 R71, R493). -/

namespace Sys2Proof.Machine

/-- Removes the held items of a chip that `p` names. -/
def State.dropHeld (s : State) (lci : Nat) (p : RingItem → Bool) : State :=
  s.modChip lci fun c => { c with held := c.held.filter fun h => !p h.item }

/-- The held items of a chip. -/
def State.heldOf (s : State) (lci : Nat) : List RingItem := match s.chip? lci with | some c => c.held.map HeldItem.item | none => []

/-- One event record again, which follows what completes at `after`: it is written, or waits behind one that is held. -/
def State.againEvent (s : State) (lci : Nat) (r : List Byte) (after : Nat) : State :=
  match s.chip? lci with
  | none => s
  | some c =>
    if c.held.any fun h => h.item.isEvent then s.modChip lci fun c => { c with held := c.held ++ [{ item := .event r after, page := 0 }] }
    else s.putEvent lci c.ev r after

/-- Held event records are written in order; `drop`: the first one's page failed. -/
def State.retryEvents (s : State) (lci : Nat) (drop : Bool) : State :=
  let l := (s.heldOf lci).filterMap fun i => match i with | .event r a => some (r, a) | _ => none
  let s := s.dropHeld lci RingItem.isEvent
  let s := if drop && !l.isEmpty then s.modChip lci fun c => { c with ev := { c.ev with lost := min (c.ev.lost + 1) 0xFFFFFFFF } }
    else s
  (if drop then l.drop 1 else l).foldl (fun (s : State) r => s.againEvent lci r.1 r.2) s

/-- Records of 32 bytes. -/
def recs32 (l : List Byte) : List (List Byte) := (List.range (l.length / 32)).map fun k => (l.drop (32 * k)).take 32

/-- Held trace records of a die's unit are written in order; `drop`: the first one's page failed. -/
def State.retrySepia (s : State) (lci die : Nat) (drop : Bool) : State :=
  let l := (s.heldOf lci).filterMap fun i => match i with | .sepia d r => if d = die then some r else none | _ => none
  let s := s.dropHeld lci fun i => match i with | .sepia d _ => d == die | _ => false
  let s :=
    if drop && !l.isEmpty then s.modMod fun m =>
      let u := smGet Sepia.init m.sepia die
      { m with sepia := smSet Sepia.init m.sepia die { u with ring := { u.ring with lost := min (u.ring.lost + 1) 0xFFFFFFFF } } }
    else s
  (if drop then l.drop 1 else l).foldl (fun (s : State) r => s.sepiaPut die (smGet Sepia.init s.mod.sepia die) (recs32 r)) s

/-- A service call whose record could not be written: its lane takes ACCESS_VIOLATION at the TRAP.svc. -/
def State.svcFailed (s : State) (lci : Nat) (k : Call) : State :=
  let s := s.modChip lci fun c => { c with calls := c.calls.filter fun x => x.id != k.id }
  s.trapLanes k.team k.group (maskOf [k.lane]) Cause.access (bits k.record.toNat 64 16) k.pc

/-- A held service record is written, and then calls that wait for space. -/
def State.retrySvc (s : State) (lci cid : Nat) (ok : Bool) : State :=
  let s := s.dropHeld lci fun i => i == .svc cid
  match s.chip? lci with
  | none => s
  | some c =>
    match c.calls.find? fun k => k.id == cid with
    | none => s.postSvcWaits lci
    | some k =>
      if !ok then (s.svcFailed lci k).postSvcWaits lci
      else
        let a := ringAddr c.svc.qbase c.svc.qsize 64 c.svc.next
        match s.reach lci a true with
        | .at_ mpa cls => (s.writeSvc lci mpa cls (natLe 64 k.record.toNat)).postSvcWaits lci
        | .nonres level => s.holdItem lci (.svc cid) a level
        | .fail => (s.svcFailed lci k).postSvcWaits lci

/-- The reply ring of a chip halts (14 R376). -/
def State.haltReplies (s : State) (lci : Nat) : State :=
  match s.chip? lci with
  | none => s
  | some c => (s.modChip lci fun c => { c with svc := { c.svc with halted := true } }).postEvent lci 0x0013 c.svc.rtail c.svc.rhead

/-- A held record is written, and its CMD_DONE posted to follow it (18 R459, 04 R155). -/
def State.retryRecord (s : State) (lci pod : Nat) (b : List Byte) (done : Option (Nat × Nat)) (ok : Bool) : State :=
  let s := s.dropHeld lci fun i => i == .record pod b done
  let post := fun (s : State) (time : Nat) => match done with | some d => s.postAfter lci 0x0006 d.1 d.2 time | none => s
  if !ok then post s 0
  else
    match s.reach lci pod true with
    | .at_ mpa cls => let w := s.pokeAt lci mpa b cls; post w.1 w.2
    | .nonres level => s.holdItem lci (.record pod b done) pod level
    | .fail => post s 0

/-- The guest record of a held request: written now, or its request fails (02 R493). -/
def State.retryPrq (s : State) (lci reqid : Nat) (ok : Bool) : State :=
  let s := s.dropHeld lci fun i => i == .prq reqid
  let r :=
    if ok then (s, [])
    else
      match s.traffic.pages.find? fun q => q.queue == 0 && q.vf == lci && q.reqid == reqid with
      | some q => (s.dropPage lci 0 reqid, q.waiters)
      | none => (s, [])
  (r.1.failWaiters r.2).pagesNext

/-- The items that a chip holds on a page, once its request has been answered; queues are left to the caller. -/
def State.itemsDone (s : State) (lci page : Nat) (ok : Bool) : State :=
  let mine : List RingItem := match s.chip? lci with
    | some c => (c.held.filter fun (h : HeldItem) => h.page == page).map HeldItem.item
    | none => []
  let s := if mine.any RingItem.isEvent then s.retryEvents lci !ok else s
  let dies := (mine.filterMap fun i => match i with | .sepia d _ => some d | _ => none).eraseDups
  let s := dies.foldl (fun (s : State) d => s.retrySepia lci d !ok) s
  mine.foldl (fun (s : State) i =>
    match i with
    | .event _ _ => s
    | .sepia _ _ => s
    | .prq r => s.retryPrq lci r ok
    | .svc k => s.retrySvc lci k ok
    | .reply => let s := s.dropHeld lci fun x => x == .reply; if ok then s else s.haltReplies lci
    | .dump t => s.dropHeld lci fun x => x == .dump t
    | .queue _ => s
    | .record a b d => s.retryRecord lci a b d ok) s

/-! ### Page requests answered (02 R71) -/

/-- Every requester of a request of this module goes on or fails; ring items are left to the caller. -/
def State.pageOut (s : State) (q : PageReq) (ok : Bool) : State :=
  let code := if ok then pgResolved else pgFailed
  let s := s.dropPage q.vf q.queue q.reqid
  let s := s.lanesDone q.waiters code q.faddr
  let s := if ok then s.freeEngines q.waiters else s.failEngines q.waiters
  let s := q.waiters.foldl (fun (s : State) w =>
    match w with
    | .far pchip msgid => s.replyFar q.vf pchip msgid (q.faddr / 4096 * 4096) code
    | _ => s) s
  s.pagesNext

/-- The ring pages that a request stands for. -/
def PageReq.rings (q : PageReq) : List (Nat × Nat) :=
  q.waiters.filterMap fun w => match w with | .ring lci page => some (lci, page) | _ => none

end Sys2Proof.Machine
end

