-- ==== Sys2Proof/Machine/Stops.lean ====
section
/-! DEFINITION. Debug stops: the dump of a stopped team, its slots, and the lifting of a stop (17 R441 to R446, 02 R493). -/

namespace Sys2Proof.Machine

/-! ### Dumps (17 R444) -/

/-- A record of `n` bytes of bit fields: first bit, width, value. -/
def bitRecord (n : Nat) (l : List (Nat × Nat × Nat)) : List Byte := natLe n ((l.map fun f => field f.2.2 f.1 f.2.1).sum)

/-- The barrier objects that a dump shows: the first 255, in slot order. -/
def Team.dumpBars (t : Team) : List Nat := t.bars.take 255

/-- The team header, Table 17.4. -/
def Team.dumpHeader (t : Team) : List Byte :=
  let d := t.dbg
  bitRecord 64 [
    (0, 8, d.trig), (120, 4, d.src), (124, 4, d.wp), (128, 6, t.desc.groupCount), (134, 8, t.dumpBars.length),
    (142, 1, if d.tgroup.isSome then 1 else 0), (143, 5, d.tgroup.getD 0), (148, 12, t.id.handle), (160, 32, d.hits),
    (192, 32, t.x), (224, 32, t.y), (256, 32, t.z), (288, 32, t.id.index), (320, 64, d.taddr), (384, 64, d.trigT),
    (448, 64, d.stopT)]

/-- Lanes of a group in a state, as a number. -/
def Group.stateBits (g : Group) (st : LaneSt) : Nat := (maskWhere fun l => (g.lane l).st == st).toNat

/-- The least PC of a group's READY lanes; 0 when none is READY. -/
def Group.readyPc (g : Group) : Nat :=
  match (lanesOf (maskWhere fun l => (g.lane l).st == .ready)).map fun l => (g.lane l).pc.toNat with
  | [] => 0
  | a :: r => r.foldl min a

/-- A group record, Table 17.5. -/
def Team.dumpGroup (t : Team) (n : Nat) : List Byte :=
  let g := t.group n
  bitRecord 64 [
    (303, 5, n), (308, 1, if g.run.isSome then 1 else 0), (309, 1, if g.trap.handler then 1 else 0), (310, 6, g.skid),
    (316, 36, ((List.range 6).map fun j => smGet 0 g.ord.sb j % 64 * 64 ^ j).sum),
    (352, 32, if g.trap.handler then g.trap.tlanes.toNat else 0), (384, 32, g.stateBits .waiting),
    (416, 32, g.stateBits .ready), (448, 64, g.readyPc)]

/-- The part of a dump that shows the stop: header and groups. -/
def Team.dumpHead (t : Team) : List Byte := t.dumpHeader ++ (t.groupNums.map t.dumpGroup).flatten

/-- A barrier record. -/
def Team.dumpBar (t : Team) (ofs : Nat) : List Byte := natLe 4 ofs ++ natLe 12 0 ++ smRead 0 t.spad ofs 16

/-- Signatures of a convergence register, counted. -/
def Conv.count (c : Conv) : Nat := ((List.range 1024).filter fun i => c.signed.getLsbD i).length

/-- A convergence record. -/
def Conv.dump (c : Conv) : List Byte :=
  bitRecord 16 [(0, 16, c.phase.toNat), (16, 11, c.count), (32, 32, c.gmask.toNat), (64, 32, c.lmask.toNat)]

/-- The part of a dump that shows the instant at which it is written: barriers and convergence registers. -/
def Team.dumpTail (t : Team) : List Byte :=
  (t.dumpBars.map t.dumpBar).flatten ++
    ((List.range 8).map fun k => (smGet (Conv.init t.desc.groupCount) t.conv k).dump).flatten

/-- The lowest free slot of a chip's dump area. -/
def ChipDbg.freeSlot (d : ChipDbg) : Option Nat := (List.range 128).find? fun k => !(d.slots.any fun p => p.1 == k)

/-- Whether a dump can be written at an address. -/
inductive DumpAt where
  | ready
  | nonres (pod level : Nat)
  | fail
  deriving DecidableEq, Repr

/-- Looks at the 4 KiB pages of a slot of a guest's claim. -/
def State.dumpPages (s : State) (lci : Nat) : Nat → Nat → DumpAt
  | 0, _ => .ready
  | k + 1, a =>
    match s.reach lci a true with
    | .at_ _ _ => s.dumpPages lci k (a + 4096)
    | .nonres level => .nonres a level
    | .fail => .fail

/-- Writes bytes at a pod address of a chip, page by page. -/
def State.dumpWrite (lci : Nat) : Nat → State → Nat → List Byte → State
  | 0, s, _, _ => s
  | k + 1, s, a, l =>
    let s := match s.reach lci a true with
      | .at_ mpa cls => s.poke lci mpa (l.take 4096) cls
      | .nonres _ => s
      | .fail => s
    if l.length ≤ 4096 then s else State.dumpWrite lci k s (a + 4096) (l.drop 4096)

/-- The team's dump stands in a slot. -/
def State.dumped (s : State) (id : TeamId) (slot : Nat) : State :=
  (s.modChip id.lci fun c => { c with dbg := { c.dbg with
    slots := c.dbg.slots ++ [(slot, id)], pending := c.dbg.pending.filter fun p => p.1 != id } }).modTeam id fun t =>
      { t with dbg := { t.dbg with slot := some slot } }

/-- Writes the pending dumps of a chip in order into slots that are free; `k` bounds them. A page of a guest's area that is
not resident is asked for, and one that cannot be reached leaves the dump pending. -/
def State.writeDumps (lci : Nat) : Nat → State → State
  | 0, s => s
  | k + 1, s =>
    match s.chip? lci with
    | none => s
    | some c =>
      match c.dbg.pending, c.dbg.freeSlot, c.dbg.holder with
      | p :: _, some slot, some f =>
        let a := c.dbg.dumpBase + 16384 * slot
        let bytes := match s.team? p.1 with | some t => p.2 ++ t.dumpTail | none => []
        if bytes.isEmpty then
          State.writeDumps lci k (s.modChip lci fun c => { c with dbg := { c.dbg with pending := c.dbg.pending.drop 1 } })
        else if c.held.any fun h => match h.item with | .dump _ => true | _ => false then s
        else
          match f with
          | .pf => State.writeDumps lci k ((s.memWrite a bytes).dumped p.1 slot)
          | .vf _ =>
            match s.dumpPages lci (ceilDiv bytes.length 4096) a with
            | .ready => State.writeDumps lci k ((State.dumpWrite lci 5 s a bytes).dumped p.1 slot)
            | .nonres pod level => s.holdItem lci (.dump p.1) pod level
            | .fail => s
      | _, _, _ => s

/-- Writes what can be written of a chip's pending dumps. -/
def State.flushDumps (s : State) (lci : Nat) : State := State.writeDumps lci 129 s

/-- STOP_DUMP: the last group of a team has stopped, and its dump is written or left pending; for a team that has stopped,
pending dumps are tried again. -/
def execStopDump (team : TeamId) (s : State) : Out :=
  .next (match s.team? team with
  | none => s
  | some t =>
    if t.dbg.state ≠ 1 then s.flushDumps team.lci
    else
      let t := { t with dbg := { t.dbg with state := 2, stopT := s.gtc, slot := none, mark := false } }
      let head := t.dumpHead
      let t := t.mapGroups fun g => { g with stopped := true, stepping := false, run := none }
      let s := (s.setTeam t).modChip team.lci fun c => { c with dbg := { c.dbg with pending := c.dbg.pending ++ [(team, head)] } }
      let s := match t.core? with | some core => s.trace core t 0 3 t.dbg.trig t.dbg.taddr | none => s
      s.flushDumps team.lci)

/-! ### Lifting a stop (17 R441, R445) -/

/-- The slot and the pending dump of a team are given up. -/
def State.freeDump (s : State) (id : TeamId) : State :=
  (s.modChip id.lci fun c => { c with dbg := { c.dbg with
    slots := c.dbg.slots.filter fun p => p.2 != id, pending := c.dbg.pending.filter fun p => p.1 != id } }).modTeam id fun t =>
      { t with dbg := { t.dbg with slot := none } }

/-- A PC that the debugger has written is a control transfer of its lane: a lane whose target is bad traps there. -/
def State.checkNewPc (s : State) (id : TeamId) (core : Nat) (p : Nat × Nat) : State :=
  match s.team? id with
  | none => s
  | some t =>
    let pc := ((t.group p.1).lane p.2).pc
    match s.checkTarget core id.lci pc.toNat with
    | .ok s => s
    | .bad _ c s => s.takeTrap id p.1 core { cause := c, lanes := maskOf [p.2], addr := pc.toNat } pc false

/-- A team goes on. -/
def State.liftStop (s : State) (id : TeamId) : State :=
  match s.team? id with
  | none => s
  | some t =>
    let core := t.spadCore?.getD 0
    let s := s.freeDump id
    let now := s.gtc
    let s := s.modTeam id fun t =>
      { t.mapGroups (fun g => { g with stopped := false, stepping := false, skid := 0, eligibleAt := now }) with
        dbg := TeamDbg.init, idleSince := now }
    (t.dbg.newPcs.foldl (fun (s : State) p => s.checkNewPc id core p) s).flushDumps id.lci

/-- Lanes held at a TRAP.bkpt move past it. -/
def State.pastBkpts (s : State) (id : TeamId) : State :=
  match s.team? id with
  | none => s
  | some t =>
    let core := t.spadCore?.getD 0
    t.dbg.bkpts.foldl (fun (s : State) n =>
      match s.team? id with
      | none => s
      | some t =>
        let g := t.group n
        let ready := maskWhere fun l => (g.lane l).st == .ready
        let m := if g.trap.handler then ready &&& g.trap.tlanes else ready
        let least := match (lanesOf m).map fun l => (g.lane l).pc.toNat with | [] => 0 | a :: r => r.foldl min a
        let next := BitVec.ofNat 64 (s.seqOf core id.lci least)
        s.modGroup id n fun g => g.modLanes (maskWhere fun l => m.getLsbD l && (g.lane l).pc.toNat == least) fun _ x =>
          { x with pc := next }) s

/-- The debug control of a chip ends: watchpoints are disarmed and stopped teams go on (17 R441). -/
def State.detach (s : State) (lci : Nat) : State :=
  let cores : SMap Core := s.cores.map fun (c : Nat × Core) =>
    (c.1, { c.2 with watch := c.2.watch.filter fun w => w.2.lci != lci })
  let s := { s with cores := cores }
  let mine := (s.teams.filter fun t => t.id.lci == lci && t.dbg != TeamDbg.init).map Team.id
  let s := mine.foldl (fun (s : State) id => s.liftStop id) s
  s.modChip lci fun c => { c with dbg := { c.dbg with holder := none, slots := [], pending := [], marks := [], named := none } }

end Sys2Proof.Machine
end

