-- ==== Sys2Proof/Machine/Queues.lean ====
section
/-! DEFINITION. Command and launch queues: descriptors, packets, malformed packets, completion, and what every command
shares (18 R456 to R461, 02 R493). -/

namespace Sys2Proof.Machine

/-! ### Descriptors (18 R456) -/

/-- A queue of a function. -/
def State.queue? (s : State) (fn : Fn) (q : QSel) : Option QDesc :=
  match fn, q with
  | .pf, .cmd => some s.hub.cmdq
  | .pf, .launch l => some (smGet QDesc.init s.hub.lqd l.toNat)
  | .vf lci, .cmd => (s.chip? lci.toNat).map Chip.cmdq
  | .vf lci, .launch l => (s.chip? lci.toNat).map fun c => smGet QDesc.init c.lqd l.toNat

/-- Replaces a queue's descriptor. -/
def State.setQueue (s : State) (fn : Fn) (q : QSel) (d : QDesc) : State :=
  match fn, q with
  | .pf, .cmd => s.modHub fun h => { h with cmdq := d }
  | .pf, .launch l => s.modHub fun h => { h with lqd := smSet QDesc.init h.lqd l.toNat d }
  | .vf lci, .cmd => s.modChip lci.toNat fun c => { c with cmdq := d }
  | .vf lci, .launch l => s.modChip lci.toNat fun c => { c with lqd := smSet QDesc.init c.lqd l.toNat d }

/-- The PF answers (18 R463, R472). -/
def State.fwReady (s : State) : Bool := s.hub.power == .p0 || s.hub.power == .p1 || s.hub.power == .p2

/-- A command of the function's queue has not been completed yet: its queue waits (18 R460). -/
def State.queueBusy (s : State) (fn : Fn) : Bool :=
  (s.hub.shoots.any fun x => (x.cmd.map CmdHdr.fn) == some fn) ||
    s.hub.background.any fun b => match b with
      | .pause h _ => h.fn == fn
      | .ckpt _ _ _ _ _ => false
      | .restore _ _ _ => false
      | .migrate _ _ _ _ => false

/-! ### Packets (18 R457, R458) -/

/-- LEN of a command, Table 18.5. -/
def cmdLen (op : Nat) : Nat :=
  match op with
  | 0x00 | 0x11 => 1
  | 0x01 => 5
  | 0x02 | 0x05 | 0x06 | 0x0A | 0x0C => 3
  | 0x09 | 0x13 => 4
  | _ => 2

/-- The command is in the table and its queue's kind accepts it. -/
def opAccepted (q : QSel) (op : Nat) : Bool :=
  match q with
  | .cmd => decide (op ≤ 0x13) && op != 1
  | .launch _ => decide (op ≤ 1)

/-- Byte `k` of a packet. -/
def byteAt (b : List Byte) (k : Nat) : Nat := (b.getD k 0).toNat
/-- `n` bytes of a packet from `k`, little-endian. -/
def packetNat (b : List Byte) (k n : Nat) : Nat := leNat ((b.drop k).take n)

/-- Reads `n` slots from slot `i`, in ring order. -/
def State.readSlots (s : State) (fn : Fn) (d : QDesc) : Nat → Nat → IssuerRead
  | 0, _ => .bytes []
  | n + 1, i =>
    match s.issuerRead fn (ringAddr d.base d.size 64 i) 64 with
    | .fail => .fail
    | .nonres a level => .nonres a level
    | .bytes l =>
      match s.readSlots fn d n (i + 1) with
      | .bytes r => .bytes (l ++ r)
      | .nonres a level => .nonres a level
      | .fail => .fail

/-- What stands at HEAD of a queue. -/
inductive Front where
  /-- Nothing to do: the queue is off, halted or empty, or TAIL does not cover the packet. -/
  | idle
  | bad (reason : Nat)
  | nonres (addr level : Nat)
  | packet (bytes : List Byte)
  deriving DecidableEq, Repr

/-- Looks at HEAD of a queue (18 R457, R458). -/
def State.front (s : State) (fn : Fn) (q : QSel) : Front :=
  match s.queue? fn q with
  | none => .idle
  | some d =>
    let have_ := ringUsed d.tail d.head
    if d.state ≠ 1 || have_ = 0 || !s.fwReady then .idle
    else
      match s.readSlots fn d 1 d.head with
      | .fail => .bad 6
      | .nonres a level => .nonres a level
      | .bytes b =>
        let n := ceilDiv (byteAt b 1) 4
        if !opAccepted q (byteAt b 0) then .bad 1
        else if byteAt b 1 ≠ cmdLen (byteAt b 0) then .bad 2
        else if bits (packetNat b 0 8) 34 30 ≠ 0 || bits (packetNat b 0 8) 32 1 ≠ 0 then .bad 3
        else if 2 ^ d.size < n then .bad 4
        else if have_ < n then .idle
        else
          match s.readSlots fn d n d.head with
          | .fail => .bad 6
          | .nonres a level => .nonres a level
          | .bytes l => .packet (l.take (16 * byteAt b 1))

/-- Posts CMD_DONE, if a command asks for it, once what completes at `time` has (18 R459, 04 R155). -/
def State.cmdDone (s : State) (fn : Fn) (done : Option (Nat × Nat)) (time : Nat) : State :=
  match done with
  | none => s
  | some d => (match fn with | .pf => s.postPf 0x0006 d.1 d.2 | .vf lci => s.postAfter lci.toNat 0x0006 d.1 d.2 time)

/-- Writes a record at an issuer address, or holds it on a page; one that cannot be written is left out. -/
def State.putRecord (s : State) (fn : Fn) (a : Nat) (b : List Byte) (done : Option (Nat × Nat)) : State :=
  if a = 0 || a % 32 ≠ 0 then s.cmdDone fn done 0
  else
    match s.issuerAt fn a true with
    | .at_ mpa cls =>
      (match fn with
       | .pf => (s.memWrite mpa b).cmdDone fn done 0
       | .vf lci => let w := s.pokeAt lci.toNat mpa b cls; w.1.cmdDone fn done w.2)
    | .fail => s.cmdDone fn done 0
    | .nonres level =>
      (match fn with | .pf => s.cmdDone fn done 0 | .vf lci => s.holdItem lci.toNat (.record a b done) a level)

/-- A malformed packet halts its queue (18 R458). -/
def State.haltQueue (s : State) (fn : Fn) (q : QSel) (reason why : Nat) : State :=
  match s.queue? fn q with
  | none => s
  | some d =>
    (s.setQueue fn q { d with state := 2 }).putRecord fn d.erra
      (natLe 4 (field reason 0 8 + field why 8 8) ++ natLe 4 d.head ++ natLe 24 0) none

/-- Holds a queue on a page of the chip's slot (02 R493). -/
def State.holdQueue (s : State) (fn : Fn) (q : QSel) (a level : Nat) : State :=
  match fn with
  | .pf => s
  | .vf lci => if (s.heldOf lci.toNat).contains (.queue q) then s else s.holdItem lci.toNat (.queue q) a level

/-- Firmware looks at HEAD: a malformed packet halts the queue, and a page that is not resident is asked for. -/
def State.pollQueue (s : State) (fn : Fn) (q : QSel) : State :=
  match s.front fn q with
  | .idle => s
  | .bad r => s.haltQueue fn q r 0
  | .nonres a level => s.holdQueue fn q a level
  | .packet _ => s

/-! ### Commands (18 R459 to R461) -/

/-- Status values of R459. -/
def stOk : Nat := 0
/-- BUSY. -/
def stBusy : Nat := 1
/-- LOCKED. -/
def stLocked : Nat := 2
/-- INVALID. -/
def stInvalid : Nat := 3
/-- TIMEOUT. -/
def stTimeout : Nat := 4
/-- NORES. -/
def stNores : Nat := 5
/-- VERSION. -/
def stVersion : Nat := 6
/-- DENIED. -/
def stDenied : Nat := 7

/-- STATUS and TAG of a completion record. -/
def cmdWord (h : CmdHdr) (status : Nat) : Nat := field status 0 8 + field h.tag.toNat 16 16

/-- The detail words of a command's CMD_DONE, if it asks for one. -/
def cmdInfo (h : CmdHdr) (status : Nat) : Option (Nat × Nat) :=
  if h.evt then some (h.cpla.toNat, cmdWord h status + field h.slot.toNat 32 32) else none

/-- The completion of a command (18 R459). -/
def State.finishCmd (s : State) (h : CmdHdr) (status result : Nat) : State :=
  s.putRecord h.fn h.cpla.toNat (natLe 4 (cmdWord h status) ++ natLe 4 h.slot.toNat ++ natLe 8 s.gtc ++ natLe 16 result)
    (cmdInfo h status)

/-- The header of a packet in a slot. -/
def cmdHdr (fn : Fn) (slot : Nat) (b : List Byte) : CmdHdr :=
  { fn := fn, slot := BitVec.ofNat 32 slot, tag := BitVec.ofNat 16 (packetNat b 2 2), evt := bits (byteAt b 4) 1 1 == 1,
    cpla := BitVec.ofNat 64 (packetNat b 8 8) }

/-- The command that a packet asks for (Table 18.5). -/
def cmdOf (h : CmdHdr) (b : List Byte) : Option Instr :=
  let n8 := fun (k : Nat) => BitVec.ofNat 8 (byteAt b k)
  let n16 := fun (k : Nat) => BitVec.ofNat 16 (packetNat b k 2)
  let n32 := fun (k : Nat) => BitVec.ofNat 32 (packetNat b k 4)
  let n64 := fun (k : Nat) => BitVec.ofNat 64 (packetNat b k 8)
  let b0 := fun (k : Nat) => bits (byteAt b k) 0 1 == 1
  match byteAt b 0 with
  | 0x00 => some (.nopCmd h)
  | 0x02 => some (.vcCreate h (n8 16) (n8 17) (n16 18) (n16 20) (b0 22) (n64 24) (n64 32))
  | 0x03 => some (.vcDestroy h (n8 16))
  | 0x04 => some (.vcQos h (n8 16) (n64 24))
  | 0x05 => some (.map h (n8 16) (n8 17) (BitVec.ofNat 128 (packetNat b 32 16)))
  | 0x06 => some (.shoot h (n8 16) (n8 17) (b0 18) (n8 19) (n64 24) (n64 32))
  | 0x07 => some (.pageReply h (n8 16) (n8 17) (n8 18) (n16 20) (n16 22))
  | 0x08 => some (.eventArm h (n16 16))
  | 0x09 => some (.ckpt h (n16 16) (b0 18) (n64 24) (n64 32) (n64 40))
  | 0x0A => some (.restore h (n16 16) (n64 24))
  | 0x0B => some (.counterAcq h (n8 16) (n8 17) (n8 18) (n8 19) (n16 20))
  | 0x0C => some (.routeLoad h (n16 16) (n8 18) (n8 19) (n64 24) (n32 32) (n32 36))
  | 0x0D => some (.guestPause h (n16 16))
  | 0x0E => some (.guestResume h (n16 16))
  | 0x0F => some (.vcMigrate h (n8 16) (n16 18) (n64 24))
  | 0x10 => some (.placeLoad h (n8 16) (n64 24))
  | 0x11 => some (.getver h)
  | 0x12 => some (.setver h (n8 16) (n8 17))
  | 0x13 => some (.attest h (BitVec.ofNat 256 (packetNat b 16 32)) (n64 48))
  | _ => none

/-- The operand bytes of a command: first byte and length (Table 18.5). -/
def cmdOperands (op : Nat) : List (Nat × Nat) :=
  match op with
  | 0x01 => [(16, 64)]
  | 0x02 => [(16, 7), (24, 16)]
  | 0x03 => [(16, 1)]
  | 0x04 => [(16, 1), (24, 8)]
  | 0x05 => [(16, 2), (32, 16)]
  | 0x06 => [(16, 4), (24, 16)]
  | 0x07 => [(16, 3), (20, 4)]
  | 0x08 => [(16, 2)]
  | 0x09 => [(16, 3), (24, 24)]
  | 0x0A => [(16, 2), (24, 8)]
  | 0x0B => [(16, 6)]
  | 0x0C => [(16, 4), (24, 16)]
  | 0x0D | 0x0E => [(16, 2)]
  | 0x0F => [(16, 1), (18, 2), (24, 8)]
  | 0x10 => [(16, 1), (24, 8)]
  | 0x12 => [(16, 2)]
  | 0x13 => [(16, 40)]
  | _ => []

/-- Bits of an operand byte that no field names: INCOMING, ALL, CLASS, NARROW. -/
def cmdSpare (op k : Nat) : Nat :=
  if (op = 0x02 && k = 22) || (op = 0x06 && k = 18) || (op = 0x09 && k = 18) then 0xFE
  else if op = 0x06 && k = 19 then 0xF8
  else 0

/-- Every reserved byte and bit of a packet is zero (18 R461). -/
def cmdClean (b : List Byte) : Bool :=
  let op := byteAt b 0
  (List.range b.length).all fun k =>
    decide (k < 16) ||
      (if (cmdOperands op).any fun p => decide (p.1 ≤ k) && decide (k < p.1 + p.2) then (byteAt b k).land (cmdSpare op k) == 0
       else byteAt b k == 0)

/-- What a command does. -/
inductive CmdRes where
  /-- It completes with a status and a result. -/
  | done (s : State) (status result : Nat)
  /-- It completes later, or in the background. -/
  | later (s : State)
  /-- A page of an operand is not resident: it stays at HEAD. -/
  | nonres (addr level : Nat)
  deriving DecidableEq, Repr

/-- A command that is refused changes nothing. -/
def State.refuse (s : State) (status : Nat) : CmdRes := .done s status 0

/-- HEAD moves past a packet. -/
def State.pastPacket (s : State) (fn : Fn) (q : QSel) (b : List Byte) : State :=
  match s.queue? fn q with
  | none => s
  | some d => s.setQueue fn q { d with head := (d.head + ceilDiv (byteAt b 1) 4) % 2 ^ 32 }

/-- A function has given a command other than GETVER (18 R462). -/
def State.markSeen (s : State) (fn : Fn) (op : Nat) : State :=
  if op = 0x11 || s.hub.seenCmd.contains (Fn.num fn) then s
  else s.modHub fun h => { h with seenCmd := Fn.num fn :: h.seenCmd }

/-- A completion record that can be written: its address is aligned and its page is resident. -/
def State.cplaAt (s : State) (h : CmdHdr) : RingReach :=
  let a := h.cpla.toNat
  if a = 0 then .at_ 0 .rc else if a % 32 ≠ 0 then .fail else s.issuerAt h.fn a true

/-- The packet at HEAD of a queue is a command: `none` when firmware does nothing now. In P2 only GETVER is answered
(18 R472). -/
def State.atHead (s : State) (h : CmdHdr) (q : QSel) (i : Instr) : Option (List Byte) :=
  match s.front h.fn q, s.queue? h.fn q with
  | .packet b, some d =>
    if s.hub.power == .p2 && byteAt b 0 ≠ 0x11 then none
    else if q == .cmd && s.queueBusy h.fn then none
    else if cmdOf (cmdHdr h.fn d.head b) b = some i then some b
    else none
  | _, _ => none

/-- Runs a command that stands at HEAD of its queue. -/
def State.onQueue (s : State) (h : CmdHdr) (q : QSel) (i : Instr) (k : State → CmdRes) : State :=
  match s.atHead h q i with
  | none => s
  | some b =>
    let next := (s.pastPacket h.fn q b).markSeen h.fn (byteAt b 0)
    match s.cplaAt h with
    | .nonres level => s.holdQueue h.fn q h.cpla.toNat level
    | .fail => (next.finishCmd h stInvalid 0).pollQueue h.fn q
    | .at_ _ _ =>
      if !cmdClean b then (next.finishCmd h stInvalid 0).pollQueue h.fn q
      else
        match k next with
        | .done s status result => (s.finishCmd h status result).pollQueue h.fn q
        | .later s => s.pollQueue h.fn q
        | .nonres a level => s.holdQueue h.fn q a level

/-- Runs a command of the command queue. -/
def State.onCmd (s : State) (h : CmdHdr) (i : Instr) (k : State → CmdRes) : Out := .next (s.onQueue h .cmd i k)

/-- A command that only the PF may give (18 R461). -/
def pfOnly (h : CmdHdr) (s : State) (k : State → CmdRes) : CmdRes := if h.fn = .pf then k s else s.refuse stDenied

/-- A command that a VF gives for its own chip only. -/
def ownChip (h : CmdHdr) (lci : Nat) (s : State) (k : State → CmdRes) : CmdRes :=
  match h.fn with
  | .pf => k s
  | .vf l => if l.toNat = lci then k s else s.refuse stDenied

/-- Reads operand bytes for a command. -/
def State.readOperand (s : State) (h : CmdHdr) (a n : Nat) (k : List Byte → CmdRes) : CmdRes :=
  match s.issuerRead h.fn a n with
  | .bytes l => k l
  | .nonres b level => .nonres b level
  | .fail => s.refuse stInvalid

/-- A chip is named by a command of the background (18 R460). -/
def State.chipBusy (s : State) (lci : Nat) : Bool :=
  s.hub.background.any fun b => match b with
    | .ckpt _ g _ _ _ => s.gidOf lci == g && (s.chip? lci).isSome
    | .restore _ g _ => s.gidOf lci == g && (s.chip? lci).isSome
    | .migrate _ l _ _ => l == lci
    | .pause _ _ => false

/-- A guest is named by a command of the background. -/
def State.guestBusy (s : State) (gid : Nat) : Bool :=
  s.hub.background.any fun b => match b with
    | .ckpt _ g _ _ _ => g == gid
    | .restore _ g _ => g == gid
    | .migrate _ l _ _ => s.gidOf l == gid
    | .pause _ _ => false

/-- A command that names a chip: it exists, nothing in the background names it, and an incoming chip takes only MAP, SHOOT
and VC_DESTROY (15 R497). -/
def State.onChip (s : State) (lci : Nat) (incomingToo : Bool) (k : Chip → CmdRes) : CmdRes :=
  match s.chip? lci with
  | none => s.refuse stInvalid
  | some c => if s.chipBusy lci || (c.ident.incoming && !incomingToo) then s.refuse stBusy else k c

/-- A command of which a page failed completes INVALID: a completion record on that page is not written, and CMD_DONE is
posted all the same (02 R493). -/
def State.failCmd (s : State) (h : CmdHdr) (page : Nat) : State :=
  if h.cpla.toNat / 4096 * 4096 = page then s.cmdDone h.fn (cmdInfo h stInvalid) 0 else s.finishCmd h stInvalid 0

/-- A page of an operand or record of a queue failed: the ring's packet halts the queue, an operand fails its command
(02 R493). -/
def State.queueFailed (s : State) (fn : Fn) (q : QSel) (page : Nat) : State :=
  match s.front fn q, s.queue? fn q with
  | .packet b, some d =>
    let h := cmdHdr fn d.head b
    match q with
    | .cmd => (((s.pastPacket fn q b).markSeen fn (byteAt b 0)).failCmd h page).pollQueue fn q
    | .launch _ => (((s.pastPacket fn q b)).failCmd h page).pollQueue fn q
  | _, _ => s.haltQueue fn q 6 0

/-- The queues that a chip holds on a page go on, or fail. -/
def State.queuesDone (s : State) (lci page : Nat) (ok : Bool) : State :=
  let mine : List QSel := match s.chip? lci with
    | some c => c.held.filterMap fun (h : HeldItem) => match h.item with | .queue q => if h.page = page then some q else none | _ => none
    | none => []
  mine.foldl (fun (s : State) q =>
    let s := s.dropHeld lci fun i => i == .queue q
    if ok then s.pollQueue (.vf (BitVec.ofNat 8 lci)) q else s.queueFailed (.vf (BitVec.ofNat 8 lci)) q page) s

/-- A page request of this module has been answered (02 R71, R493). -/
def State.pageAnswered (s : State) (q : PageReq) (ok : Bool) : State :=
  q.rings.foldl (fun (s : State) p => (s.itemsDone p.1 p.2 ok).queuesDone p.1 p.2 ok) (s.pageOut q ok)

/-! ### NOP and LAUNCH (18 R458, 13 R360) -/

/-- The queue of a function whose HEAD holds a NOP with a header: the command queue, or a launch queue. -/
def State.nopQueue (s : State) (h : CmdHdr) : QSel :=
  let l := match h.fn with
    | .pf => s.hub.lqd.map Prod.fst
    | .vf lci => (match s.chip? lci.toNat with | some c => c.lqd.map Prod.fst | none => [])
  match (l.map fun (k : Nat) => QSel.launch (BitVec.ofNat 8 k)).find? fun q => (s.atHead h q (.nopCmd h)).isSome with
  | some q => if (s.atHead h .cmd (.nopCmd h)).isSome then .cmd else q
  | none => .cmd

/-- NOP_CMD. -/
def execNopCmd (h : CmdHdr) (s : State) : Out := .next (s.onQueue h (s.nopQueue h) (.nopCmd h) fun s => .done s stOk 0)

/-- The chip whose hardware queue a launch queue of a function is bound to (18 R496). -/
def State.launchChip (s : State) (fn : Fn) (lq : Nat) : Option Nat :=
  match fn with
  | .pf => (s.chips.find? fun p => p.2.disp.pfQueues.any fun q => q.1 == lq).map fun p => p.1
  | .vf lci => match s.chip? lci.toNat with
    | some c => if c.disp.queues.any fun q => q.1 == lq then some lci.toNat else none
    | none => none

/-- LAUNCH_PACKET: the record is checked and the launch accepted; a refusal for want of space waits, and any other halts
the queue (13 R360). -/
def execLaunchPacket (h : CmdHdr) (lq : BitVec 8) (rec : BitVec 512) (s : State) : Out :=
  let q : QSel := .launch lq
  .next (match s.front h.fn q, s.queue? h.fn q, s.launchChip h.fn lq.toNat with
  | .packet b, some d, some lci =>
    if s.hub.power == .p2 || byteAt b 0 ≠ 1 || cmdHdr h.fn d.head b ≠ h || packetNat b 16 64 ≠ rec.toNat then s
    else
      let pf := match h.fn with | .pf => true | .vf _ => false
      match s.cplaAt h with
      | .nonres level => s.holdQueue h.fn q h.cpla.toNat level
      | .fail => ((s.pastPacket h.fn q b).finishCmd h stInvalid 0).pollQueue h.fn q
      | .at_ _ _ =>
        match s.accept lci lq.toNat pf rec.toNat pf (2 ^ 43 + 257 * lq.toNat + Fn.num h.fn) with
        | .waits s => s
        | .refused why s => if why = 1 then s else s.haltQueue h.fn q 5 why
        | .ok handle s => ((s.pastPacket h.fn q b).finishCmd h stOk handle).pollQueue h.fn q
  | _, _, _ => s)

/-- QUEUE_TAIL_WRITE: software has filled slots (18 R457). -/
def execQueueTailWrite (fn : Fn) (q : QSel) (tail : Word) (s : State) : Out :=
  .next (match s.queue? fn q with
  | none => s
  | some d => (s.setQueue fn q { d with tail := tail.toNat }).pollQueue fn q)

/-- QUEUE_DESCRIPTOR_RESET: a write of any other field resets the queue: HEAD takes TAIL, and STATE follows SIZE
(18 R456). -/
def execQueueDescriptorReset (fn : Fn) (q : QSel) (base : DWord) (size : BitVec 8) (erra : DWord) (s : State) : Out :=
  .next (match s.queue? fn q with
  | none => s
  | some d =>
    let on := decide (6 ≤ size.toNat) && decide (size.toNat ≤ 16)
    let s := s.setQueue fn q { d with
      base := base.toNat, size := size.toNat, erra := erra.toNat, head := d.tail, state := if on then 1 else 0 }
    match fn with
    | .pf => s
    | .vf lci => s.dropHeld lci.toNat fun i => i == .queue q)

end Sys2Proof.Machine
end

