-- ==== Sys2Proof/Machine/Sched.lean ====
section
/-! DEFINITION. Virtual chips on the module: units in service, guarantees, residency and slices, leaving clusters,
suspension and resumption, co-scheduling hints, and retirement (15 R391 to R395, R399, R400, R411, 14 R385, R386, 18 R470). -/

namespace Sys2Proof.Machine

/-- Applies `f` to a chip's residency. -/
def State.modRes (s : State) (lci : Nat) (f : Residency → Residency) : State := s.modChip lci fun c => { c with res := f c.res }

/-! ### Units in service (15 R394) -/

/-- Clusters in service, rising. -/
def State.clustersUp (s : State) : List Nat := (List.range 512).filter fun k => !s.hub.retiredClusters.contains k
/-- Banks in service, rising: a retired die's are not. -/
def State.banksUp (s : State) : List Nat := (List.range 512).filter fun k => !s.hub.retiredDies.contains (k / 32)
/-- Channels in service, rising. -/
def State.channelsUp (s : State) : List Nat := (List.range 1024).filter fun k => !s.hub.retiredChannels.contains k

/-- Clusters in service that no chip holds. -/
def State.freeClusters (s : State) : List Nat :=
  s.clustersUp.filter fun k => !(s.chips.any fun c => c.2.res.clusters.contains k)
/-- Banks in service that no chip owns. -/
def State.freeBanks (s : State) : List Nat := s.banksUp.filter fun k => !(s.chips.any fun c => c.2.res.banks.contains k)
/-- Channels in service that no chip reserves. -/
def State.freeChannels (s : State) : List Nat :=
  s.channelsUp.filter fun k => !(s.chips.any fun c => c.2.res.channels.contains k)

/-- Units of a kind in service: 0 clusters, 1 banks, 2 channels. -/
def State.unitsUp (s : State) (kind : Nat) : Nat :=
  if kind = 0 then s.clustersUp.length else if kind = 1 then s.banksUp.length else s.channelsUp.length

/-- A guaranteed minimum. -/
def Qos.least (q : Qos) (kind : Nat) : Nat := if kind = 0 then q.minc else if kind = 1 then q.minb else q.mind
/-- Its floor. -/
def Qos.floor (q : Qos) (kind : Nat) : Nat := if kind = 0 then q.flc else if kind = 1 then q.flb else q.fld
/-- A minimum replaced. -/
def Qos.setLeast (q : Qos) (kind n : Nat) : Qos :=
  if kind = 0 then { q with minc := n } else if kind = 1 then { q with minb := n } else { q with mind := n }

/-- A chip's minimum of a kind. -/
def State.least (s : State) (lci kind : Nat) : Nat := (s.chip? lci).elim 0 fun c => c.qos.least kind

/-- Sum of the minima of the chips that are not suspended. -/
def State.sumLeast (s : State) (kind : Nat) : Nat :=
  ((s.chips.filter fun c => c.2.res.suspended.isNone).map fun c => c.2.qos.least kind).sum

/-! ### Leaving clusters (14 R385, R386) -/

/-- The cluster whose core holds a team's scratchpad. -/
def Team.cluster? (t : Team) : Option Nat := t.spadCore?.map clusterOf

/-- Teams of a chip on clusters that it is leaving. -/
def State.teamsOn (s : State) (lci : Nat) (out : List Nat) : List Team :=
  s.teams.filter fun t => t.id.lci == lci && (match t.cluster? with | some k => out.contains k | none => false)

/-- What has ended on the clusters goes with them: its scratchpad comes back with its gang. -/
def State.liftEnded (s : State) (lci : Nat) (out : List Nat) : State :=
  (s.teamsOn lci out).foldl (fun (s : State) t =>
    if t.ended then (s.modTeam t.id fun u => { u with place := .preempted, tileMap := [] }).queueResume t.gangKey else s) s

/-- The clusters are left: their L1s are written back and invalidated, and a suspended chip leaves residency (14 R386, 03
R84). -/
def State.vacate (s : State) (lci : Nat) : State :=
  match s.chip? lci with
  | none => s
  | some c =>
    let out := c.res.out
    let s := s.liftEnded lci out
    let s := (out.flatMap fun k => (List.range 4).map fun i => 4 * k + i).foldl (fun (s : State) core => s.flushL1 core) s
    s.modRes lci fun r => { r with
      clusters := r.clusters.filter fun k => !out.contains k
      pool := r.pool.filter fun k => !out.contains k
      out := [], drainAt := none, resident := r.resident && r.suspended.isNone }

/-- No team that has not ended is on the clusters that a chip is leaving. -/
def State.outEmpty (s : State) (lci : Nat) (out : List Nat) : Bool :=
  (s.teamsOn lci out).all fun t => t.ended

/-- A chip begins to leave clusters: by soft pre-emption for its drain bound, or at once. -/
def State.startLeaving (s : State) (lci : Nat) (l : List Nat) (hard : Bool) : State :=
  match s.chip? lci with
  | none => s
  | some c =>
    let at_ := s.gtc + (if hard then 0 else c.qos.drain)
    let s := s.modRes lci fun r => { r with
      out := r.out ++ l.filter fun k => !r.out.contains k, drainAt := some (min at_ (r.drainAt.getD at_)) }
    if s.outEmpty lci (c.res.out ++ l) then s.vacate lci else s

/-- DRAIN_BOUND_EXPIRY: the chip has left its clusters, or its drain bound has passed and its teams on them are pre-empted;
teams that parked in place are saved whole (14 R385, R386). -/
def execDrainBoundExpiry (lci : BitVec 8) (s : State) : Out :=
  .next (match s.chip? lci.toNat with
  | none => s
  | some c =>
    match c.res.drainAt with
    | none => s
    | some t =>
      let s :=
        if t ≤ s.gtc then
          (s.teamsOn lci.toNat c.res.out).foldl (fun (s : State) u =>
            if u.ended then s
            else
              match u.place with
              | .parkedInPlace _ _ => s.modTeam u.id fun v => { v with place := .parked }
              | _ => if u.leave = 2 then s else s.setLeave u.gangKey 2) s
        else s
      if s.outEmpty lci.toNat c.res.out then s.vacate lci.toNat else s)

/-! ### Suspension (15 R394, R411) -/

/-- Suspends a chip: 0 by a command, 1 guarantees, 2 TDISP error. -/
def State.suspend (s : State) (lci reason : Nat) (hard : Bool) : State :=
  match s.chip? lci with
  | none => s
  | some c =>
    if c.res.suspended.isSome then s
    else
      let s := s.modRes lci fun r => { r with
        suspended := some reason, sliceEnd := none, endedAt := if r.sliceEnd.isSome then some s.gtc else r.endedAt }
      let s := if reason = 0 then s else s.postBoth lci 0x0032 reason 0
      s.startLeaving lci c.res.clusters hard

/-- Residents of the module. -/
def State.residentCount (s : State) : Nat := (s.chips.filter fun c => c.2.res.resident).length

/-- The resident chip that gives up its place: MINC 0 and a slice that ended longest ago (15 R393). -/
def State.displaced (s : State) : Option Nat :=
  ((s.chips.filter fun c => c.2.res.resident && c.2.qos.minc == 0 && c.2.res.sliceEnd.isNone && c.2.res.drainAt.isNone &&
      c.2.res.endedAt.isSome).foldl (fun (a : Option (Nat × Nat)) c =>
    let t := c.2.res.endedAt.getD 0
    match a with
    | none => some (c.1, t)
    | some b => if t < b.2 then some (c.1, t) else a) none).map Prod.fst

/-- A chip can be resident: it is, or there is a place among the 64, free or given up by another (00 R4, 15 R393). -/
def State.placeLeft (s : State) (c : Chip) : Bool :=
  c.res.resident || decide (s.residentCount < 64) || s.displaced.isSome

/-- Makes the place of `placeLeft` free for a chip. -/
def State.yieldPlace (s : State) (c : Chip) : State :=
  if c.res.resident || decide (s.residentCount < 64) then s
  else match s.displaced with
    | some v => s.modRes v fun r => { r with resident := false, endedAt := none }
    | none => s

/-- Every line of a chip leaves the banks, dirty sectors written back, so that none is found under another bank list
(03 R85, R88). What an owner on another module has is recalled, and comes back as a store to memory's next copy of the line. -/
def State.evictChip (s : State) (lci : Nat) : State :=
  ((s.dies.flatMap fun d => d.2.lines).filter fun b => b.lci == lci).foldl (fun (s : State) x =>
    match s.bankLine? lci x.line with
    | none => s
    | some b => (match b.farOwner? with | some p => s.recallFar b p | none => s).evictHere b) s

/-- A chip's bank list gets a length: the lowest free banks added, or its own with the highest given up (03 R85, R88). -/
def State.refitBanks (s : State) (lci n : Nat) : State :=
  match s.chip? lci with
  | none => s
  | some c =>
    if c.res.banks.length = n then s
    else
      let s := s.evictChip lci
      let own := c.res.banks.mergeSort
      s.modRes lci fun r => { r with banks := (own.take n ++ s.freeBanks.take (n - own.length)).mergeSort }

/-- A guaranteed chip takes free clusters up to its minimum and is resident once it holds them, with a bank and a place among
the 64; while clusters or the place are lent to slices, those slices end (15 R393, 03 R85). -/
def State.settleChip (s : State) (lci : Nat) : State :=
  match s.chip? lci with
  | none => s
  | some c =>
    if c.qos.minc = 0 || c.res.suspended.isSome || c.ident.incoming || c.res.drainAt.isSome then s
    else
      let own := (c.res.clusters.filter fun k => !c.res.pool.contains k).length
      let need := c.qos.minc - own
      let free := s.freeClusters
      if c.res.banks.isEmpty then s
      else if decide (need ≤ free.length) && s.placeLeft c then
        (s.yieldPlace c).modRes lci fun r => { r with clusters := (r.clusters ++ free.take need).mergeSort, resident := true }
      else
        s.chips.foldl (fun (s : State) d =>
          if d.2.res.pool.isEmpty || d.2.res.drainAt.isSome then s
          else (s.modRes d.1 fun r => { r with sliceEnd := none, endedAt := some s.gtc }).startLeaving d.1 d.2.res.pool false) s

/-- A suspended chip comes back: places of its cards and messages are resolved again (01 R36), and a guaranteed one becomes resident. -/
def State.unsuspend (s : State) (lci : Nat) (post : Bool) : State :=
  let s := s.modRes lci fun r => { r with suspended := none }
  let s := State.resolveSends (s.modTraffic fun t => { t with cards := t.cards.map fun c =>
    if c.lci == lci && c.outcome == 0 then { c with started := false } else c }) lci
  let s := if post then s.postBoth lci 0x0033 0 0 else s
  s.settleChip lci

/-! ### Guarantees (15 R394, R395) -/

/-- The chip that a rule takes: the lowest GRANK, on a tie the highest local chip index. -/
def lowestRank (l : List (Nat × Chip)) : Option (Nat × Chip) :=
  l.foldl (fun (a : Option (Nat × Chip)) c =>
    match a with
    | none => some c
    | some b =>
      if c.2.qos.grank < b.2.qos.grank || (c.2.qos.grank == b.2.qos.grank && decide (b.1 < c.1)) then some c else a) none

/-- Moves a locked TDI to ERROR; its chip is suspended (15 R411). -/
def State.tdiError (s : State) (lci : Nat) : State :=
  match s.chip? lci with
  | none => s
  | some c =>
    if c.ident.tdi = 1 || c.ident.tdi = 2 then
      (s.modChip lci fun c => { c with ident := { c.ident with tdi := 3 } }).suspend lci 2 true
    else s

/-- Lowers a minimum and posts it; a locked chip whose bank count no longer fits moves to ERROR. -/
def State.lower (s : State) (lci kind n : Nat) : State :=
  let s := (s.modChip lci fun c => { c with qos := c.qos.setLeast kind n }).postBoth lci 0x0031 kind n
  match s.chip? lci with
  | some c => if kind = 1 && n < c.res.banks.length then s.tdiError lci else s
  | none => s

/-- Lowers minima of a kind until the sum fits or none is above its floor; `k` bounds the rounds. -/
def State.lowerAll (kind : Nat) : Nat → State → State
  | 0, s => s
  | k + 1, s =>
    let sum := s.sumLeast kind
    if sum ≤ s.unitsUp kind then s
    else
      match lowestRank (s.chips.filter fun c => c.2.res.suspended.isNone && decide (c.2.qos.floor kind < c.2.qos.least kind)) with
      | none => s
      | some c =>
        State.lowerAll kind k
          (s.lower c.1 kind (max (c.2.qos.floor kind) (c.2.qos.least kind - (sum - s.unitsUp kind))))

/-- Suspends chips until the sum of a kind fits. -/
def State.suspendAll (kind : Nat) : Nat → State → State
  | 0, s => s
  | k + 1, s =>
    if s.sumLeast kind ≤ s.unitsUp kind then s
    else
      match lowestRank (s.chips.filter fun c => c.2.res.suspended.isNone) with
      | none => s
      | some c => State.suspendAll kind k (s.suspend c.1 1 true)

/-- Restores the sums of guarantees after a retirement (15 R394). -/
def State.restoreSums (s : State) : State :=
  [0, 1, 2].foldl (fun (s : State) kind =>
    State.suspendAll kind (s.chips.length + 1) (State.lowerAll kind (s.chips.length + 1) s)) s

/-- Chips suspended for want of guarantees come back, highest GRANK first, while their floors fit (15 R395). -/
def State.resumeGuaranteed (s : State) : State :=
  let l := (s.chips.filter fun c => c.2.res.suspended == some 1).mergeSort fun a b =>
    decide (b.2.qos.grank < a.2.qos.grank) || (a.2.qos.grank == b.2.qos.grank && decide (a.1 ≤ b.1))
  (l.foldl (fun (a : State × Bool) c =>
    let fits := [0, 1, 2].all fun kind => decide (a.1.sumLeast kind + c.2.qos.floor kind ≤ a.1.unitsUp kind)
    if a.2 || !fits then (a.1, true)
    else
      let s := [0, 1, 2].foldl (fun (s : State) kind =>
        let n := max (c.2.qos.floor kind) (min (c.2.qos.least kind) (s.unitsUp kind - s.sumLeast kind))
        if n = c.2.qos.least kind then s else s.lower c.1 kind n) a.1
      let lack := match s.chip? c.1 with
        | some d => decide (d.res.banks.length < d.qos.minb)
        | none => false
      let s := if lack then s.refitBanks c.1 (s.least c.1 1) else s
      (s.unsuspend c.1 true, false)) (s, false)).1

/-! ### Slices (15 R393, R400) -/

/-- A parked unit of a chip whose wake condition holds. -/
def State.anyWake (s : State) (lci : Nat) : Bool :=
  s.teams.any fun t => t.id.lci == lci && !t.ended && t.wakeMet s.gtc &&
    (match t.place with | .parked => true | .parkedInPlace _ _ => true | _ => false)

/-- A chip has a unit to dispatch, a parked unit to wake, or a pre-empted unit. -/
def State.runnable (s : State) (lci : Nat) (c : Chip) : Bool :=
  c.disp.pickQueue.isSome || !c.disp.resume.isEmpty || s.anyWake lci

/-- A chip that may begin a slice. -/
def State.mayslice (s : State) (lci : Nat) (c : Chip) : Bool :=
  decide (c.qos.minc < c.qos.maxc) && c.res.suspended.isNone && !c.ident.incoming && c.res.drainAt.isNone &&
    c.res.sliceEnd.isNone && c.res.pool.isEmpty && !c.res.banks.isEmpty && s.runnable lci c

/-- The order of a slice boundary: the chip whose turn it is while it has turns left, then the chips after it by index, and
round to it again. -/
def State.sliceOrder (s : State) : List Nat :=
  let cur := s.mod.sliceRR % 256
  let used := s.mod.sliceRR / 256
  let l := ((s.chips.filter fun c => s.mayslice c.1 c.2).map Prod.fst).mergeSort
  let share := match s.chip? cur with | some c => c.qos.share | none => 0
  let after := (l.filter fun k => decide (cur < k)) ++ l.filter fun k => decide (k ≤ cur)
  if used < share && l.contains cur then cur :: after.filter fun k => k != cur else after

/-- The chip that a pending hint selects. -/
def State.hinted (s : State) : Option (Nat × Nat) :=
  s.mod.hints.findSome? fun h =>
    if s.gtc < h.2 then none
    else
      ((((s.chips.filter fun c => c.2.qos.cgroup == h.1 && s.mayslice c.1 c.2).map Prod.fst).mergeSort).find? fun k =>
        match s.chip? k with | some c => decide (s.gtc ≤ h.2 + c.qos.slice) | none => false).map fun k => (k, h.1)

/-- Begins a slice of a chip on pool clusters. -/
def State.beginSlice (s : State) (lci : Nat) (c : Chip) : State :=
  let give := s.freeClusters.take (c.qos.maxc - c.res.clusters.length)
  let s := s.modRes lci fun r => { r with
    resident := true, clusters := (r.clusters ++ give).mergeSort, pool := give
    sliceEnd := some (s.gtc + c.qos.slice), endedAt := none }
  let cur := s.mod.sliceRR % 256
  let used := if cur = lci then s.mod.sliceRR / 256 + 1 else 1
  s.modMod fun m => { m with
    sliceRR := lci + 256 * used
    hintsOut := if c.qos.cgroup = 0 then m.hintsOut else m.hintsOut ++ [(c.qos.cgroup, s.gtc + 20000)] }

/-- Gives free pool clusters to the next chip (15 R393): one that is not resident needs a place among 64. -/
def State.nextSlice (s : State) : State :=
  if s.freeClusters.isEmpty then s
  else
    let h := s.hinted
    let order := (match h with | some p => [p.1] | none => []) ++ s.sliceOrder
    let s := match h with
      | some p => s.modMod fun m => { m with hints := m.hints.filter fun q => q.1 != p.2 }
      | none => s
    match order.find? fun k => match s.chip? k with | some c => s.placeLeft c | none => false with
    | none => s
    | some k =>
      match s.chip? k with
      | none => s
      | some c =>
        (s.yieldPlace c).beginSlice k c

/-- A slice that is over: its time has passed, or the chip has nothing to run. -/
def State.sliceOver (s : State) (lci : Nat) (c : Chip) : Bool :=
  match c.res.sliceEnd with
  | none => false
  | some t => decide (t ≤ s.gtc) || (c.disp.pickQueue.isNone && c.disp.resume.isEmpty &&
      !(s.teams.any fun u => u.id.lci == lci && u.core?.isSome && !u.ended))

/-- Clusters of a chip beyond a lowered minimum leave it, highest numbers first (15 R392). -/
def State.trimChip (s : State) (lci : Nat) : State :=
  match s.chip? lci with
  | none => s
  | some c =>
    let own := (c.res.clusters.filter fun k => !c.res.pool.contains k).mergeSort
    if own.length ≤ c.qos.minc || c.res.drainAt.isSome then s else s.startLeaving lci (own.drop c.qos.minc) false

/-- A chip's slice ends, a change of its minima takes effect, and its guaranteed clusters are made up. -/
def State.chipBoundary (s : State) (lci : Nat) : State :=
  match s.chip? lci with
  | none => s
  | some c =>
    let s :=
      if s.sliceOver lci c then
        (s.modRes lci fun r => { r with sliceEnd := none, endedAt := some s.gtc }).startLeaving lci c.res.pool false
      else s
    let s := match (s.chip? lci).bind fun d => if d.res.sliceEnd.isNone then d.res.nextQos else none with
      | some q => s.modChip lci fun d => { d with qos := { d.qos with minc := q.minc, flc := q.flc, maxc := q.maxc },
                                                  res := { d.res with nextQos := none } }
      | none => s
    (s.trimChip lci).settleChip lci

/-- SLICE_BOUNDARY. -/
def execSliceBoundary (s : State) : Out :=
  .next ((s.chips.map Prod.fst).foldl (fun (s : State) k => s.chipBoundary k) s).nextSlice

/-- COSCHED_HINT: a hint from another module, unless it comes too late (15 R400). -/
def execCoschedHint (cgroup : Word) (start : Nat) (s : State) : Out :=
  let mine := s.chips.filter fun c => c.2.qos.cgroup == cgroup.toNat && cgroup != 0
  .next (if mine.any fun c => decide (s.gtc ≤ start + c.2.qos.slice) then
      s.modMod fun m => { m with hints := m.hints ++ [(cgroup.toNat, start)] }
    else s)

/-! ### Retirement (18 R470, 03 R114) -/

/-- A cluster is retired: its holder leaves it by hard pre-emption, and the sums are restored. -/
def State.retireCluster (s : State) (k : Nat) : State :=
  if s.hub.retiredClusters.contains k || 512 ≤ k then s
  else
    let s := (s.modHub fun h => { h with retiredClusters := k :: h.retiredClusters }).postPf 0x0026 k 0
    let s := s.chips.foldl (fun (s : State) c =>
      if c.2.res.clusters.contains k then (s.startLeaving c.1 [k] true).tdiError c.1 else s) s
    s.restoreSums

/-- CLUSTER_RETIREMENT. -/
def execClusterRetirement (cluster : Nat) (s : State) : Out := .next (s.retireCluster cluster)

/-- A channel is retired: its frames become holes. -/
def State.retireChannel (s : State) (k : Nat) : State :=
  if s.hub.retiredChannels.contains k then s
  else
    let s := (s.modHub fun h => { h with retiredChannels := k :: h.retiredChannels }).postPf 0x0025 k 0
    let s := s.chips.foldl (fun (s : State) c =>
      if c.2.res.channels.contains k then
        (s.modRes c.1 fun r => { r with channels := r.channels.filter fun n => n != k }).tdiError c.1
      else s) s
    s.restoreSums

/-- CHANNEL_RETIREMENT. -/
def execChannelRetirement (die : BitVec 4) (ch : BitVec 6) (s : State) : Out :=
  .next (s.retireChannel (die.toNat * 64 + ch.toNat))

/-- A chip whose bank list a lost die has shortened takes free banks up to its minimum; left with none it is suspended for want
of guarantees (03 R85, 15 R394). -/
def State.rebank (s : State) (lci : Nat) : State :=
  match s.chip? lci with
  | none => s
  | some c =>
    let s := if c.res.banks.length < c.qos.minb then s.refitBanks lci c.qos.minb else s
    match s.chip? lci with
    | none => s
    | some d => if d.res.banks.isEmpty then s.suspend lci 1 true else s

/-- A die is retired: its clusters, banks and channels (18 R470). Firmware changes the bank list of a chip that held banks of
the die in this one step: every line the chip holds in any bank leaves under the old list first (03 R88). -/
def State.retireDie (s : State) (die : Nat) : State :=
  if s.hub.retiredDies.contains die then s
  else
    let banks := (List.range 32).map fun i => 32 * die + i
    let hit := (s.chips.filter fun c => c.2.res.banks.any fun b => banks.contains b).map Prod.fst
    let s := hit.foldl (fun (s : State) k => s.evictChip k) s
    let s := s.modHub fun h => { h with retiredDies := die :: h.retiredDies }
    let s := hit.foldl (fun (s : State) k =>
      (s.modRes k fun r => { r with banks := r.banks.filter fun b => !banks.contains b }).tdiError k) s
    let s := (List.range 32).foldl (fun (s : State) i => s.retireCluster (32 * die + i)) s
    let s := (List.range 64).foldl (fun (s : State) i => s.retireChannel (64 * die + i)) s
    hit.foldl (fun (s : State) k => s.rebank k) s.restoreSums

end Sys2Proof.Machine
end

