-- ==== Sys2Proof/Machine/Chips.lean ====
section
/-! DEFINITION. Commands on virtual chips and functions: VC_CREATE, VC_DESTROY, VC_QOS, MAP, SHOOT, PAGE_REPLY, EVENT_ARM,
COUNTER_ACQ, PLACE_LOAD, GETVER, SETVER, ATTEST, and the end of a shootdown (18 R461 to R464, R494, R496, 15 R391, R392,
R410, 02 R41, R71, R72, R74, R75, R78, 01 R34, R35, 17 R439, R440). -/

namespace Sys2Proof.Machine

/-! ### Quality of service (15 R392, 18 R461, R496) -/

/-- The parameters that a block sets over others; bit k of the mask applies word k. -/
def Qos.ofBlock (q : Qos) (b : List Byte) (mask : Nat) : Qos :=
  let pick := fun (k old scale : Nat) => if mask.testBit k then packetNat b (4 * k) 4 * scale else old
  { minc := pick 0 q.minc 1, minb := pick 1 q.minb 1, mind := pick 2 q.mind 1, flc := pick 3 q.flc 1, flb := pick 4 q.flb 1,
    fld := pick 5 q.fld 1, maxc := pick 6 q.maxc 1, grank := pick 7 q.grank 1, share := pick 8 q.share 1,
    slice := pick 9 q.slice 1000, drain := pick 10 q.drain 1000, park := pick 11 q.park 1, save := pick 12 q.save 1,
    cgroup := pick 13 q.cgroup 1 }

/-- Every parameter is in its range, and a chip with guaranteed clusters has a bank (Table 15.2, 03 R85). -/
def Qos.ok (q : Qos) : Bool :=
  decide (q.minc ≤ 512) && decide (q.minb ≤ 512) && decide (q.mind ≤ 1024) && decide (q.flc ≤ q.minc) &&
    decide (q.flb ≤ q.minb) && decide (q.fld ≤ q.mind) && decide (q.minc ≤ q.maxc) && decide (q.maxc ≤ 512) &&
    decide (q.grank ≤ 255) && decide (1 ≤ q.share) && decide (q.share ≤ 255) && decide (100000 ≤ q.slice) &&
    decide (q.slice ≤ 100000000) && decide (q.drain ≤ 10000000) && decide (1000 ≤ q.park) && decide (q.park ≤ 10000000) &&
    decide (q.save ≤ 65535) && (q.minc == 0 || q.minb != 0)

/-- A queue assignment: logical queue, weight, hardware queue, whether it is the PF's. -/
structure Bind where
  lq : Nat
  weight : Nat
  hq : Nat
  pf : Bool
  deriving DecidableEq, Repr

/-- The queue that word 14 assigns, if any. -/
def bindOf (b : List Byte) (mask : Nat) : Option Bind :=
  let w := packetNat b 56 4
  if !mask.testBit 14 || w = 0xFFFFFFFF then none
  else some { lq := bits w 0 8, weight := bits w 8 8, hq := bits w 16 11, pf := bits w 27 1 == 1 }

/-- An assignment that names no reserved bit, no zero weight, no hardware queue in use elsewhere, and no PF queue of another
chip (18 R496, 13 R365). -/
def State.bindOk (s : State) (lci : Nat) (b : List Byte) (x : Bind) : Bool :=
  bits (packetNat b 56 4) 28 4 == 0 && x.weight != 0 &&
    s.chips.all fun c =>
      (c.2.disp.queues.all fun q => q.2.hq != x.hq || (c.1 == lci && !x.pf && q.1 == x.lq)) &&
      (c.2.disp.pfQueues.all fun q =>
        (q.2.hq != x.hq || (c.1 == lci && x.pf && q.1 == x.lq)) && !(c.1 != lci && x.pf && q.1 == x.lq))

/-- A queue list with an assignment. -/
def bindTo (l : SMap LQueue) (x : Bind) : SMap LQueue :=
  if l.any fun q => q.1 == x.lq then
    l.map fun q => if q.1 = x.lq then (q.1, { q.2 with hq := x.hq, weight := x.weight }) else q
  else l ++ [(x.lq, { hq := x.hq, weight := x.weight, vt := 0, blocked := false, grids := [] })]

/-- A chip with an assignment. -/
def Chip.bind (c : Chip) (x : Option Bind) : Chip :=
  match x with
  | none => c
  | some x =>
    { c with disp := { c.disp with
        queues := if x.pf then c.disp.queues else bindTo c.disp.queues x
        pfQueues := if x.pf then bindTo c.disp.pfQueues x else c.disp.pfQueues } }

/-- The parameters that a chip will have at its next boundary. -/
def Chip.nextMin (c : Chip) : Qos :=
  match c.res.nextQos with
  | some q => { c.qos with minc := q.minc, flc := q.flc, maxc := q.maxc }
  | none => c.qos

/-- The sums of minima, and the count of chips with guaranteed clusters, fit with a chip's new parameters (15 R393, R394). -/
def State.sumsFit (s : State) (lci : Nat) (q : Qos) : Bool :=
  let others := (s.chips.filter fun c => c.1 != lci && c.2.res.suspended.isNone).map fun c => c.2.nextMin
  ([0, 1, 2].all fun kind => decide ((others.map fun o => o.least kind).sum + q.least kind ≤ s.unitsUp kind)) &&
    (q.minc == 0 || decide ((others.filter fun o => o.minc != 0).length < 64))

/-- The chip's TDI is in CONFIG_LOCKED or RUN (15 R410). -/
def Chip.locked (c : Chip) : Bool := c.ident.tdi == 1 || c.ident.tdi == 2

/-! ### VC_CREATE (15 R391, R497, 16 R421, 01 R25) -/

/-- A stage-2 context that firmware takes: no reserved bit, root in local DRAM (02 R41). -/
def s2CtxOk (x : Nat) : Bool := bits x 52 76 == 0 && bits x 1 11 == 0 && bits x 50 2 == 0

/-- A stage-1 context that firmware takes: pointers in use lie in the chip's own slot. -/
def s1CtxOk (id : ChipId) (x : Nat) : Bool :=
  bits x 112 16 == 0 && bits x 65 11 == 0 && bits x 48 16 == 0 && bits x 2 19 == 0 &&
    (bits x 0 2 != 1 || podChip id.chw (bits x 21 27 * 2 ^ 21) == id.pchip) &&
    (bits x 64 1 == 0 || podChip id.chw (bits x 76 36 * 4096) == id.pchip)

/-- The chip-table entry of a chip of this module. -/
def State.ownEntry (s : State) (lci : Nat) : DWord :=
  BitVec.ofNat 64 (2 ^ 44 + field s.hub.position 31 4 + field lci 23 8)

/-- The identity of a new chip breaks no rule: CHW is the pod's, and its pod chip number is new to the pod. -/
def State.identOk (s : State) (id : ChipId) : Bool :=
  decide (4 ≤ id.chw) && decide (id.chw ≤ 10) && decide (id.pchip < 2 ^ id.chw) &&
    s.chips.all fun c => c.2.ident.gid != id.gid || (c.2.ident.chw == id.chw && c.2.ident.pchip != id.pchip)

/-- Adds a chip with its holdings. -/
def State.addChip (s : State) (lci : Nat) (id : ChipId) (s2 : DWord) (q : Qos) (x : Option Bind) : State :=
  let c := Chip.blank id
  let c := { c with s2 := s2, qos := q, res := { c.res with
    banks := s.freeBanks.take q.minb, channels := s.freeChannels.take q.mind } }
  let s := { s with chips := s.chips ++ [(lci, c.bind x)] }
  if id.incoming then s
  else
    (s.setGuest id.gid { s.guest id.gid with table := smSet 0 (s.guest id.gid).table id.pchip (s.ownEntry lci) }).settleChip lci

/-- VC_CREATE. -/
def execVcCreate (h : CmdHdr) (lci chw : BitVec 8) (pchip gid : BitVec 16) (incoming : Bool) (s2 qos : DWord) (s : State) :
    Out :=
  s.onCmd h (.vcCreate h lci chw pchip gid incoming s2 qos) fun s => pfOnly h s fun s =>
    let n := lci.toNat
    let id : ChipId := { gid := gid.toNat, pchip := pchip.toNat, chw := chw.toNat, incoming := incoming, tdi := 0 }
    if (s.chip? n).isSome || s.guestBusy gid.toNat then s.refuse stBusy
    else if !s.identOk id || !s2CtxOk s2.toNat then s.refuse stInvalid
    else
      s.readOperand h qos.toNat 64 fun b =>
        let q := Qos.init.ofBlock b 0xFFFF
        let x := bindOf b 0xFFFF
        let bad := match x with | some x => !s.bindOk n b x | none => false
        if !q.ok || bad then s.refuse stInvalid
        else if !s.sumsFit n q || s.freeBanks.length < q.minb || s.freeChannels.length < q.mind then s.refuse stNores
        else .done (s.addChip n id s2 q x) stOk (s.incOf n)

/-! ### Removal (02 R72, 14 R378, 15 R404) -/

/-- The function's incarnation rises; its outstanding page requests end, and what waited for them goes on. -/
def State.bumpInc (s : State) (lci : Nat) : State :=
  let mine := s.traffic.pages.filter fun q => q.vf == lci
  let s := mine.foldl (fun (s : State) q =>
    let s := s.dropPage q.vf q.queue q.reqid
    let s := (s.lanesDone q.waiters pgCancelled q.faddr).freeEngines q.waiters
    q.waiters.foldl (fun (s : State) w =>
      match w with
      | .far pchip msgid => s.replyFar lci pchip msgid (q.faddr / 4096 * 4096) pgCancelled
      | .lane _ _ _ => s
      | .job _ _ => s
      | .ring _ _ => s
      | .walk _ _ => s
      | .msg _ => s) s) s
  (s.modHub fun h => { h with inc := smSet 0 h.inc lci ((smGet 0 h.inc lci + 1) % 65536) }).pagesNext

/-- A chip's stores leave the write-combining buffers, its L1s and its banks. -/
def State.flushChip (s : State) (lci : Nat) : State :=
  let s := (s.cores.flatMap fun c => (c.2.wcb.filter fun w => w.lci == lci).map fun w => (c.1, w)).foldl
    (fun (s : State) p => s.drainEntry p.1 p.2) s
  let s := ((s.cores.filter fun c => c.2.chip == some lci).map Prod.fst).foldl (fun (s : State) c => s.flushL1 c) s
  s.evictChip lci

/-- What the records in flight are without a chip. -/
def Traffic.without (t : Traffic) (lci : Nat) : Traffic :=
  let mine := fun (id : TeamId) => id.lci == lci
  let gone := (t.msgs.filter fun m => m.lci == lci).map MsgReq.id
  { accesses := t.accesses.filter fun a => !mine a.team
    txns := t.txns.filter fun x => match x.team with | some id => !mine id | none => true
    drained := t.drained.filter fun w => w.2.lci != lci
    fetches := t.fetches.filter fun f => t.txns.any fun x => x.id == f.txn && (match x.team with | some id => !mine id | none => true)
    follows := t.follows.filter fun f => f.lci != lci
    launches := t.launches.filter fun q => !mine q.team
    jobs := t.jobs.filter fun j => j.lci != lci
    cards := t.cards.filter fun c => c.lci != lci
    smoves := t.smoves.filter fun m => !mine m.src && !mine m.dst
    barUpds := t.barUpds.filter fun u => !mine u.team && !mine u.sender
    pages := t.pages.filter fun q => q.vf != lci
    msgs := t.msgs.filter fun m => m.lci != lci
    tokens := t.tokens.filter fun k => !gone.contains k.req
    sends := t.sends.filter fun x => x.lci != lci
    busy := t.busy.filter fun b => b.1 != lci }

/-- A matrix engine without a chip's requests. -/
def Cluster.without (c : Cluster) (lci : Nat) : Cluster :=
  let keep := fun (r : MxReq) => r.team.lci != lci
  { c with
    table := c.table.filter keep, postbuf := c.postbuf.filter keep
    granted := match c.granted with | some r => if keep r then some r else none | none => none
    drains := c.drains.filter fun d => d.team.lci != lci }

/-- A core without a chip. -/
def Core.without (c : Core) (lci : Nat) : Core :=
  { c with
    dtlb := c.dtlb.filter fun t => t.lci != lci, itlb := c.itlb.filter fun t => t.lci != lci
    stlb := c.stlb.filter fun t => t.lci != lci
    icache := if c.chip = some lci then [] else c.icache
    watch := c.watch.filter fun w => w.2.lci != lci
    chip := if c.chip = some lci then none else c.chip }

/-- A translation of a chip: made by it, or with its slot as home. -/
def Tlb.ofChip (t : Tlb) (lci : Nat) : Bool := t.lci == lci || (match t.home with | .here h _ => h == lci | .remote _ => false)

/-- A chip leaves the module: its teams, what it has in flight, its entries in tables, its claims. Accesses of other chips
towards its slot fail. -/
def State.dropChip (s : State) (lci : Nat) : State :=
  match s.chip? lci with
  | none => s
  | some c =>
    let s := s.flushChip lci
    let s := (s.traffic.txns.filter fun t =>
      (match t.home with | .here h _ => h == lci | .remote _ => false) && (match t.team with | some id => id.lci != lci | none => true)).foldl
      (fun (s : State) t => s.loseTxn t (t.lci s) Cause.fabric) s
    let table := smErase (s.guest c.ident.gid).table c.ident.pchip
    let s := if c.ident.incoming then s else s.setGuest c.ident.gid { s.guest c.ident.gid with table := table }
    let clusters : SMap Cluster := s.clusters.map fun (k : Nat × Cluster) => (k.1, k.2.without lci)
    let cores : SMap Core := s.cores.map fun (k : Nat × Core) => (k.1, k.2.without lci)
    let dies : SMap Die := s.dies.map fun (d : Nat × Die) => (d.1, { d.2 with
      engTlb := d.2.engTlb.filter fun (t : Tlb) => !t.ofChip lci
      fabTlb := d.2.fabTlb.filter fun (t : Tlb) => !t.ofChip lci
      walk := d.2.walk.filter fun (w : WalkEnt) => w.lci != lci })
    let s := { s with
      teams := s.teams.filter fun (t : Team) => t.id.lci != lci
      chips := s.chips.filter fun p => p.1 != lci
      clusters := clusters
      cores := cores
      dies := dies }
    let vf : Fn := .vf (BitVec.ofNat 8 lci)
    let s := (s.modTraffic fun t => t.without lci).modMod fun m => { m with
      banks := m.banks.filter fun b => b.2.holder != some vf
      sepia := m.sepia.filter fun u => u.2.holder != some vf
      dropped := m.dropped.filter fun d => d.1 != lci }
    if s.chips.any fun p => p.2.ident.gid == c.ident.gid then s
    else s.modMod fun m => { m with
      guests := m.guests.filter fun g => g.1 != c.ident.gid, notices := m.notices.filter fun n => n.gid != c.ident.gid }

/-- A chip is destroyed: its incarnation rises, and it leaves. -/
def State.removeChip (s : State) (lci : Nat) : State := (s.bumpInc lci).dropChip lci

/-- VC_DESTROY. -/
def execVcDestroy (h : CmdHdr) (lci : BitVec 8) (s : State) : Out :=
  s.onCmd h (.vcDestroy h lci) fun s => pfOnly h s fun s => s.onChip lci.toNat true fun c =>
    if c.locked then s.refuse stLocked
    else .done (s.removeChip lci.toNat).resumeGuaranteed stOk 0

/-! ### VC_QOS (15 R392) -/

/-- Channels reserved to a chip's frames follow its minimum. -/
def State.refitChannels (s : State) (lci n : Nat) : State :=
  match s.chip? lci with
  | none => s
  | some c =>
    let own := c.res.channels.mergeSort
    s.modRes lci fun r => { r with channels := (own.take n ++ s.freeChannels.take (n - own.length)).mergeSort }

/-- A chip is suspended and has left its clusters: its banks may move (03 R85, R88, 14 R386). -/
def Chip.away (c : Chip) : Bool := c.res.suspended.isSome && c.res.drainAt.isNone

/-- Applies new parameters: MINC, FLC and MAXC of a chip that is not suspended wait for its next slice boundary. -/
def State.applyQos (s : State) (lci : Nat) (c : Chip) (q : Qos) (x : Option Bind) : State :=
  let idle := c.res.suspended.isSome
  let same := q.minc == c.qos.minc && q.flc == c.qos.flc && q.maxc == c.qos.maxc
  let now := if idle then q else { q with minc := c.qos.minc, flc := c.qos.flc, maxc := c.qos.maxc }
  let s := s.modChip lci fun c => ({ c with
    qos := now, res := { c.res with nextQos := if idle || same then none else some q } }).bind x
  (s.refitChannels lci q.mind).resumeGuaranteed

/-- VC_QOS: a command that would leave a chip that owns banks with none is refused (03 R85). -/
def execVcQos (h : CmdHdr) (lci : BitVec 8) (qos : DWord) (s : State) : Out :=
  s.onCmd h (.vcQos h lci qos) fun s => pfOnly h s fun s => s.onChip lci.toNat false fun c =>
    s.readOperand h qos.toNat 64 fun b =>
      let n := lci.toNat
      let mask := packetNat b 60 4
      let q := c.nextMin.ofBlock b mask
      let x := bindOf b mask
      let moves := q.minb != c.qos.minb || q.flb != c.qos.flb
      let bad := match x with | some x => !s.bindOk n b x | none => false
      if !q.ok || bad || (q.minb == 0 && !c.res.banks.isEmpty) then s.refuse stInvalid
      else if c.locked && (x.isSome || moves) then s.refuse stLocked
      else if moves && !c.away then s.refuse stBusy
      else if (c.res.suspended.isNone && !s.sumsFit n q) || s.freeBanks.length < q.minb - c.res.banks.length ||
          s.freeChannels.length < q.mind - c.res.channels.length then s.refuse stNores
      else .done ((s.applyQos n c q x).refitBanks n (if moves then q.minb else c.res.banks.length)) stOk 0

/-! ### MAP and SHOOT (02 R41, R74, R75, R78) -/

/-- Firmware accepts a shootdown: it takes the next sequence number, and shootdowns run one at a time. It starts at once, or
when those before it have ended. -/
def State.startShoot (s : State) (lci stage : Nat) (all : Bool) (cls : Option Cls) (first count : Nat) (h : CmdHdr)
    (ctx : Option (BitVec 128)) : State :=
  s.modHub fun x => { x with
    shootSeq := x.shootSeq + 1
    shoots := x.shoots ++ [{
      seq := x.shootSeq, lci := lci, stage := stage, all := all, cls := cls, first := first, count := count,
      removed := [], acked := [], cmd := some h, ctx := ctx, start := s.gtc, moved := false }] }

/-- A chip is resident and has a team that has not ended (01 R35). -/
def State.running (s : State) (lci : Nat) (c : Chip) : Bool :=
  c.res.resident && s.teams.any fun t => t.id.lci == lci && !t.ended

/-- A new stage-1 context keeps the stripe table base that the old one names while a chip of the pod on this module runs; a
change is refused with BUSY, since the state that the command needs is absent (01 R39, Table 18.4, log 83). -/
def State.stripeBaseKept (s : State) (c : Chip) (ctx : Nat) : Bool :=
  bits c.s1.toNat 64 1 == 0 || (bits ctx 64 1 == 1 && bits ctx 76 36 == bits c.s1.toNat 76 36) ||
    !(s.chips.any fun d => d.2.ident.gid == c.ident.gid && s.running d.1 d.2)

/-- MAP. -/
def execMap (h : CmdHdr) (stage lci : BitVec 8) (ctx : BitVec 128) (s : State) : Out :=
  s.onCmd h (.map h stage lci ctx) fun s => ownChip h lci.toNat s fun s =>
    let vf := match h.fn with | .pf => false | .vf _ => true
    if vf && stage != 1 then s.refuse stDenied
    else
      s.onChip lci.toNat true fun c =>
        let ok := if stage = 1 then s1CtxOk c.ident ctx.toNat else stage == 2 && s2CtxOk ctx.toNat
        if !ok then s.refuse stInvalid
        else if stage = 2 && c.locked && ctx.setWidth 64 != c.s2 then s.refuse stLocked
        else if stage = 1 && !s.stripeBaseKept c ctx.toNat then s.refuse stBusy
        else .later (s.startShoot lci.toNat stage.toNat true none 0 0 h (some ctx))

/-- SHOOT. -/
def execShoot (h : CmdHdr) (lci stage : BitVec 8) (all : Bool) (cls : BitVec 8) (first count : DWord) (s : State) : Out :=
  s.onCmd h (.shoot h lci stage all cls first count) fun s => ownChip h lci.toNat s fun s =>
    let vf := match h.fn with | .pf => false | .vf _ => true
    if vf && stage != 1 then s.refuse stDenied
    else
      s.onChip lci.toNat true fun _ =>
        if stage != 1 && stage != 2 then s.refuse stInvalid
        else
          .later (s.startShoot lci.toNat stage.toNat all (if cls.getLsbD 2 then some (Cls.ofCode (cls.toNat % 4)) else none)
            first.toNat count.toNat h none)

/-- The oldest shootdown starts now. -/
def Hub.startNext (x : Hub) (now : Nat) : Hub :=
  match x.shoots with
  | [] => x
  | y :: l => { x with shoots := { y with start := now } :: l }

/-- A shootdown has ended: its context takes effect, its command completes, its queue goes on, and the next one starts. -/
def State.endShoot (s : State) (sh : Shoot) (status : Nat) : State :=
  let s := if status = stOk then s.transition sh else s
  let s := s.modHub fun x => Hub.startNext { x with shoots := x.shoots.filter fun y => y.seq != sh.seq } s.gtc
  let s := match sh.ctx with
    | some v =>
      if status ≠ stOk then s
      else s.modChip sh.lci fun c => if sh.stage = 1 then { c with s1 := v } else { c with s2 := v.setWidth 64 }
    | none => s
  match sh.cmd with
  | some h => (s.finishCmd h status (if sh.ctx.isSome then 0 else sh.seq)).pollQueue h.fn .cmd
  | none => s

/-- Every die in service has acknowledged. -/
def State.shootAcked (s : State) (sh : Shoot) : Bool :=
  (List.range 16).all fun d => sh.acked.contains d || s.hub.retiredDies.contains d

/-- A shootdown that every die has acknowledged: its class transition begins at the homes, and it ends when every other
module has done its part (02 R75, 04 R142). -/
def State.shootGoesOn (s : State) (sh : Shoot) : State :=
  if !s.shootAcked sh then s
  else
    let s := if sh.moved then s else s.askTransition sh
    if s.shootHeard sh.seq then s.endShoot sh stOk else s

/-- SHOOT_DIE_ACK: a die takes its part of the shootdown that runs; the last acknowledgement leads to its step 3 (02 R75). -/
def execShootDieAck (seq : Nat) (die : BitVec 4) (s : State) : Out :=
  .next (match s.hub.shoots with
  | [] => s
  | sh :: _ =>
    if sh.seq ≠ seq then s
    else
      let s := s.shootStep sh die.toNat
      match s.hub.shoots.find? fun x => x.seq == seq with
      | some x => s.shootGoesOn x
      | none => s)

/-- SHOOT_TIMEOUT: a die has not acknowledged within 1 ms: the command ends with TIMEOUT and the die is retired (02 R78). -/
def execShootTimeout (seq : Nat) (die : BitVec 4) (s : State) : Out :=
  .next (match s.hub.shoots with
  | [] => s
  | sh :: _ =>
    if sh.seq ≠ seq || s.gtc < sh.start + 1000000 || sh.acked.contains die.toNat || s.hub.retiredDies.contains die.toNat then s
    else ((s.endShoot sh stTimeout).postPf 0x0024 seq die.toNat).retireDie die.toNat)

/-! ### PAGE_REPLY and EVENT_ARM (02 R71, R72, 15 R398) -/

/-- A function counter after one more event, saturating: PRQ_STALE, PRQ_UNKNOWN, SVC_STALE, SVC_UNKNOWN (18 R455). -/
def State.countStale (s : State) (lci k : Nat) : State :=
  s.modChip lci fun c => { c with stale := smSet 0 c.stale k (min (smGet 0 c.stale k + 1) 0xFFFFFFFF) }

/-- A reply to a page request (02 R72). -/
def State.pageReply (s : State) (vf queue reqid inc : Nat) (ok : Bool) : State :=
  if inc ≠ s.incOf vf then s.countStale vf 0
  else
    match s.traffic.pages.find? fun q => q.vf == vf && q.queue == queue && q.reqid == reqid && q.posted with
    | some q => s.pageAnswered q ok
    | none => s.countStale vf 1

/-- PAGE_REPLY. -/
def execPageReply (h : CmdHdr) (vf queue status : BitVec 8) (reqid inc : BitVec 16) (s : State) : Out :=
  s.onCmd h (.pageReply h vf queue status reqid inc) fun s => ownChip h vf.toNat s fun s =>
    if h.fn != .pf && queue != 0 then s.refuse stDenied
    else
      s.onChip vf.toNat false fun _ =>
        if 1 < queue.toNat || 1 < status.toNat then s.refuse stInvalid
        else .done (s.pageReply vf.toNat queue.toNat reqid.toNat inc.toNat (status == 0)) stOk 0

/-- A write of ARM = 1: an interrupt at once when TAIL differs from HEAD (15 R398). -/
def State.armRing (s : State) (fn : Fn) : State :=
  let put := fun (s : State) (r : EvRing) =>
    match fn with
    | .pf => s.modHub fun h => { h with ev := r }
    | .vf l => s.modChip l.toNat fun c => { c with ev := r }
  let ring := match fn with | .pf => some s.hub.ev | .vf l => (s.chip? l.toNat).map Chip.ev
  match ring with
  | none => s
  | some r =>
    if r.tail ≠ r.head then put { s with irqs := s.irqs ++ [{ fn := fn, vec := r.vec }] } { r with arm := false }
    else put s { r with arm := true }

/-- EVENT_ARM. -/
def execEventArm (h : CmdHdr) (lci : BitVec 16) (s : State) : Out :=
  s.onCmd h (.eventArm h lci) fun s =>
    if lci = 0xFFFF then pfOnly h s fun s => .done (s.armRing .pf) stOk 0
    else ownChip h lci.toNat s fun s => s.onChip lci.toNat false fun _ =>
      .done (s.armRing (.vf (BitVec.ofNat 8 lci.toNat))) stOk 0

/-- ARM_WRITE: ARM = 1 in the descriptor of a function's event ring. -/
def execArmWrite (fn : Fn) (s : State) : Out := .next (s.armRing fn)

/-! ### COUNTER_ACQ (17 R439, R440) -/

/-- A new holder of a resource: a guest may not take one that another holds, the hypervisor may; only its holder releases
it. `none`: BUSY. -/
def acquire (fn : Fn) (op : Nat) (holder : Option Fn) : Option (Option Fn) :=
  if op = 0 then
    match holder with
    | none => some (some fn)
    | some g => if fn = .pf || g = fn then some (some fn) else none
  else if holder = some fn then some none
  else none

/-- A guest's chip owns a cluster of a die. -/
def State.onDie (s : State) (fn : Fn) (die : Nat) : Bool :=
  match fn with
  | .pf => true
  | .vf l => match s.chip? l.toNat with
    | some c => c.res.clusters.any fun k => k / 32 == die
    | none => false

/-- COUNTER_ACQ. -/
def execCounterAcq (h : CmdHdr) (kind op die bank : BitVec 8) (lci : BitVec 16) (s : State) : Out :=
  s.onCmd h (.counterAcq h kind op die bank lci) fun s =>
    let own := match h.fn with | .pf => true | .vf l => lci.toNat == l.toNat
    let all := lci == 0xFFFF
    let d := die.toNat
    if !own then s.refuse stDenied
    else if 2 < kind.toNat || 1 < op.toNat || 16 ≤ d || 8 ≤ bank.toNat || (all && kind == 2) ||
        (!all && (s.chip? lci.toNat).isNone) || (kind != 2 && !s.onDie h.fn d) then s.refuse stInvalid
    else if !all && s.chipBusy lci.toNat then s.refuse stBusy
    else if kind = 0 then
      let k := 8 * d + bank.toNat
      match acquire h.fn op.toNat (smGet CtrBank.init s.mod.banks k).holder with
      | none => s.refuse stBusy
      | some who =>
        let b : CtrBank := { CtrBank.init with holder := who, chip := if who.isSome && !all then some lci.toNat else none }
        .done (s.modMod fun m => { m with banks := smSet CtrBank.init m.banks k b }) stOk 0
    else if kind = 1 then
      match acquire h.fn op.toNat (smGet Sepia.init s.mod.sepia d).holder with
      | none => s.refuse stBusy
      | some who =>
        let u : Sepia := { Sepia.init with holder := who, chip := if who.isSome && !all then some lci.toNat else none }
        .done (s.modMod fun m => { m with sepia := smSet Sepia.init m.sepia d u }) stOk 0
    else
      match acquire h.fn op.toNat (match s.chip? lci.toNat with | some c => c.dbg.holder | none => none) with
      | none => s.refuse stBusy
      | some none => .done (s.detach lci.toNat) stOk 0
      | some who => .done (s.modChip lci.toNat fun c => { c with dbg := { c.dbg with holder := who } }) stOk 0

/-! ### PLACE_LOAD (01 R34, R35) -/

/-- An entry that a place table may hold. -/
def State.placeOk (s : State) (e : Nat) : Bool :=
  let t := bits e 0 11
  bits e 11 18 == 0 && bits e 29 2 != 3 &&
    (bits e 31 1 == 0 ||
      (match bits e 29 2 with
       | 0 => decide (t < 2048) && !s.hub.retiredClusters.contains (t / 4)
       | 1 => decide (t < 16) && !s.hub.retiredDies.contains t
       | _ => decide (t < 1024)))

/-- A migrated chip whose place table has been loaded resumes, and VC_MIGRATED is posted (Table 15.6). -/
def State.migrated (s : State) (lci : Nat) : State :=
  match s.chip? lci with
  | some c =>
    if c.res.suspended = some 3 then ((s.unsuspend lci false).restoreSums).postEvent lci 0x0034 c.res.movedFrom lci else s
  | none => s

/-- PLACE_LOAD: the whole table, or nothing. A resident chip is BUSY, whatever its teams do: a suspended one is resident until
it has left its clusters, so that the table in force changes only between runs (01 R35). -/
def execPlaceLoad (h : CmdHdr) (lci : BitVec 8) (table : DWord) (s : State) : Out :=
  s.onCmd h (.placeLoad h lci table) fun s => pfOnly h s fun s => s.onChip lci.toNat false fun c =>
    if c.locked then s.refuse stLocked
    else if c.res.resident then s.refuse stBusy
    else
      s.readOperand h table.toNat 12352 fun b =>
        let l := (List.range 3088).map fun k => (k, packetNat b (4 * k) 4)
        if !(l.all fun p => s.placeOk p.2) then s.refuse stInvalid
        else
          .done ((s.modChip lci.toNat fun c => { c with
            places := (l.filter fun p => p.2 != 0).map fun p => (p.1, BitVec.ofNat 32 p.2) }).migrated lci.toNat) stOk 0

/-! ### GETVER, SETVER, ATTEST (18 R462, R464) -/

/-- GETVER: version 1 is the lowest and the highest of each interface. -/
def execGetver (h : CmdHdr) (s : State) : Out := s.onCmd h (.getver h) fun s => .done s stOk 0x010101010101

/-- SETVER: only before the function's first command other than GETVER. -/
def execSetver (h : CmdHdr) (iface ver : BitVec 8) (s : State) : Out :=
  let seen := s.hub.seenCmd.contains (Fn.num h.fn)
  s.onCmd h (.setver h iface ver) fun s =>
    if 2 < iface.toNat then s.refuse stInvalid
    else if seen then s.refuse stBusy
    else if ver != 1 then s.refuse stVersion
    else .done (s.modHub fun x => { x with versions := smSet 0 x.versions (4 * Fn.num h.fn + iface.toNat) 1 }) stOk 0

/-- The attestation record: the nonce, and bytes that the model leaves free with the signature (log 15). -/
def State.evidence (s : State) (nonce : BitVec 256) : List Byte :=
  natLe 32 nonce.toNat ++ natLe (Config.freeNat s.free % 4096) (Config.freeNat (s.free + 1))

/-- ATTEST. -/
def execAttest (h : CmdHdr) (nonce : BitVec 256) (out : DWord) (s : State) : Out :=
  s.onCmd h (.attest h nonce out) fun s =>
    let l := s.evidence nonce
    match s.issuerBlock h.fn (l.length / 4096 + 2) out.toNat l.length with
    | some (.nonres a level) => .nonres a level
    | some _ => s.refuse stInvalid
    | none => .done ({ s with free := s.free + 2 }.issuerWrite h.fn out.toNat l) stOk l.length

end Sys2Proof.Machine
end

