-- ==== Sys2Proof/Machine/Compare.lean ====
section
/-! DEFINITION. Compares, selects and predicate instructions (08 R239 to R241). -/

namespace Sys2Proof.Machine

/-- ISETP: the outcome of CMP in TY to a predicate. -/
def execIsetp (f : FmtR) (s : State) : Out :=
  issue s f.sched fun i => i.alu f.sched 4 (opsR2 f) fun r => flag (intCmp (cmpOf f) (iread f.ty r.a) (iread f.ty r.b))

/-- ISETP with an immediate: the condition is ge. -/
def execIsetpI (f : FmtI) (s : State) : Out :=
  issue s f.sched fun i => i.alu f.sched 4 (opsI1 f) fun r =>
    flag (intCmp 5 (iread f.ty r.a) (iread f.ty (immOf f.ty f.imm)))

/-- ISEL: p ? a : b, p the predicate that SC names; ZERO as SC reads false. -/
def execIsel (f : FmtR) (s : State) : Out :=
  issue s f.sched fun i => i.alu f.sched 4 (opsR3 f) fun r => if r.c = 1 then r.a else r.b

/-- ISEL with an immediate: p is p0. -/
def execIselI (f : FmtI) (s : State) : Out :=
  issue s f.sched fun i => i.alu f.sched 4 (opsI1 f) fun r =>
    if i.g.seePred i.s.free r.lane 0 then r.a else immOf f.ty f.imm

/-- FSETP: the outcome of CMP in f32, with FTZ and the modifiers of a and b. -/
def execFsetp (f : FmtR) (s : State) : Out :=
  issue s f.sched fun i => i.alu f.sched 4 (opsR2 f) fun r =>
    flag (floatCmp (cmpOf f) (fsrc .f32 (f.mod &&& 0x21B) 0 r.a) (fsrc .f32 (f.mod &&& 0x21B) 1 r.b))

/-- FSETP with an immediate: the condition is ge. -/
def execFsetpI (f : FmtI) (s : State) : Out :=
  issue s f.sched fun i => i.alu f.sched 4 (opsI1 f) fun r => flag (floatCmp 5 (fdecode .f32 r.a) (fdecode .f32 f.imm.toNat))

/-- Both halves of a packed compare: half 0 to the named predicate, half 1 to the next (08 R240). -/
def Ix.setp2 (x : Ix) (sc : Sched) (o : Opds) (t : Ty) (mod : BitVec 11) (cmp : Nat) (b : Args → Nat) : State :=
  let out := fun (r : Args) (h : Nat) =>
    flag (floatCmp cmp (fsrc t mod 0 (half r.a h)) (fsrc t mod 1 (half (b r) h)))
  match x.operandTrap (x.sources o) (x.t.desc.regsOf o.dst) with
  | some tr => x.trap tr
  | none =>
    x.finish sc (some 4) ((lanesOf x.active).flatMap fun l =>
      x.dst l o.dst (out (x.args o l) 0) ++ x.dst l (predNext o.dst) (out (x.args o l) 1))

/-- HSETP2 in f16 or bf16. -/
def execHsetp2 (f : FmtR) (s : State) : Out :=
  issue s f.sched fun i => i.setp2 f.sched (opsR2 f) f.ty (f.mod &&& 0x21B) (cmpOf f) fun r => r.b

/-- HSETP2 with an immediate in both halves: the condition is ge. -/
def execHsetp2I (f : FmtI) (s : State) : Out :=
  issue s f.sched fun i => i.setp2 f.sched (opsI1 f) f.ty 0 5 fun _ => immPair f.imm

/-- PLOP: the truth table of MOD[7:0] on three predicates. -/
def execPlop (f : FmtR) (s : State) : Out :=
  issue s f.sched fun i => i.alu f.sched 4 (opsR3 f) fun r => flag (lutBit (modField f.mod 0 8) r.a r.b r.c)

/-- P2V: p0 to p6, and bit 7 set. -/
def execP2v (f : FmtR) (s : State) : Out :=
  issue s f.sched fun i => i.alu f.sched 4 (opsR0 f) fun r => i.predBits r.lane

/-- V2P: each predicate of MOD[6:0] from the bit of SA. -/
def execV2p (f : FmtR) (s : State) : Out :=
  issue s f.sched fun i =>
    match i.operandTrap (i.sources (opsR1 f)) [] with
    | some tr => i.trap tr
    | none =>
      i.finish f.sched (some 4) ((lanesOf i.active).flatMap fun l => predWrites l (modField f.mod 0 7) (i.args (opsR1 f) l).a)

end Sys2Proof.Machine
end

