-- ==== Sys2Proof/Machine/Convert.lean ====
section
/-! DEFINITION. Conversions, Table 8.7 (08 R246, R247, 07 R217). -/

namespace Sys2Proof.Machine

/-- The source type of MOD[3:0]. -/
def cvtFrom (f : FmtR) : Ty := (Accept.srcTy f.mod).getD .i32

/-- CVT: between float types by rounding, between integer types by R215. -/
def execCvt (f : FmtR) (s : State) : Out :=
  issue s f.sched fun i => i.aluSr f.sched 6 (opsR1 f) fun r =>
    if Accept.isFloat f.ty then roundEl f.ty f (fread (cvtFrom f) (modBit f.mod 9) r.a) r.seed
    else (iwrite f.ty f.sat (iread (cvtFrom f) r.a), r.seed)

/-- A float value as an integer of a type: rounded by RM, clamped whatever SAT holds, NaN as 0 (07 R217). -/
def floatToInt (t : Ty) (rm : Rm) (v : Fv) : Nat :=
  match v with
  | .nan => 0
  | .inf n => iwrite t true (if n then imin t else imax t)
  | .fin n m e => iwrite t true ((froundInt rm (.fin n m e)).getD 0)

/-- F2I. -/
def execF2i (f : FmtR) (s : State) : Out :=
  issue s f.sched fun i => i.alu f.sched 6 (opsR1 f) fun r =>
    floatToInt f.ty f.rm (fread (cvtFrom f) (modBit f.mod 9) r.a)

/-- I2F. -/
def execI2f (f : FmtR) (s : State) : Out :=
  issue s f.sched fun i => i.aluSr f.sched 6 (opsR1 f) fun r => roundEl f.ty f (Fv.ofInt (iread (cvtFrom f) r.a)) r.seed

/-- One element of PACK: an f32 by rounding, an i32 by R215. -/
def packEl (f : FmtR) (x : Nat) (seed : Word) : Nat × Word :=
  if Accept.isFloat f.ty then roundEl f.ty f (fread .f32 (modBit f.mod 9) x) seed
  else (iwrite f.ty f.sat (iread .i32 x), seed)

/-- The two elements of PACK in a register: halves for a 16-bit type, bytes 2h and 2h + 1 over the other bytes of c for an
8-bit type. -/
def packJoin (f : FmtR) (a b c : Nat) : Nat :=
  if ibits f.ty = 16 || f.ty = .f16 || f.ty = .bf16 then pair16 a b
  else
    let p := a % 256 + b % 256 * 256
    if modBit f.mod 0 then half c 0 + p * 65536 else p + half c 1 * 65536

/-- PACK: a is converted first. SC of a 16-bit PACK holds zero and is no operand. -/
def execPack (f : FmtR) (s : State) : Out :=
  issue s f.sched fun i =>
    i.aluSr f.sched 6 (if Accept.tyBytes f.ty = 2 then opsR2 f else opsR3 f) fun r =>
      let x := packEl f r.a r.seed
      let y := packEl f r.b x.2
      (packJoin f x.1 y.1 r.c, y.2)

/-- UNPK: element e as f32, or as an extended i32. -/
def execUnpk (f : FmtR) (s : State) : Out :=
  issue s f.sched fun i => i.alu f.sched 6 (opsR1 f) fun r =>
    let w := 8 * Accept.tyBytes f.ty
    let x := bits r.a (w * modField f.mod 0 2) w
    if Accept.isFloat f.ty then roundTo .f32 (fdecode f.ty x) (.rm .rne) false else iwrite .i32 false (iread f.ty x)

end Sys2Proof.Machine
end

