-- ==== Sys2Proof/Machine/Images.lean ====
section
/-! DEFINITION. Saved images of virtual chips: what a checkpoint or a migration keeps, and how it is loaded (14 R383, R387,
R389, 15 R404 to R408, R497, 16 R438, 18 R465, R466, R468). -/

namespace Sys2Proof.Machine

/-! ### Memory (18 R465, R466) -/

/-- The mapped, resident 4 KiB pages of a chip's slot: offset and module physical address. -/
def State.slotPages (s : State) (c : Chip) : List (Nat × Nat) :=
  let top := 2 ^ (48 - c.ident.chw)
  if bits c.s2.toNat 0 1 = 0 then []
  else
    (s.s2Leaves 0 top 3 (bits c.s2.toNat 12 40 * 4096) 0).flatMap fun l =>
      if !eRes l.entry then []
      else (l.pages 0 top).filterMap fun a =>
        let out := leafOutput l.entry l.level a
        if mpaLegal out then some (a, out / 4096 * 4096) else none

/-- The listed bytes of a page, by chip-slot offset. -/
def State.pageCells (s : State) (p : Nat × Nat) : List (Nat × Byte) :=
  (s.mem.filter fun (m : Nat × Byte) => decide (p.2 ≤ m.1) && decide (m.1 < p.2 + 4096)).map fun m => (p.1 + (m.1 - p.2), m.2)

/-- The poisoned granules of a page, by chip-slot offset / 64. -/
def State.pagePoison (s : State) (p : Nat × Nat) : List Nat :=
  (s.poison.filter fun g => g.2 && decide (p.2 / 64 ≤ g.1) && decide (g.1 < p.2 / 64 + 64)).map fun g =>
    p.1 / 64 + (g.1 - p.2 / 64)

/-- A narrowable block as it is restored, its saved size, and its saturated elements (18 R466). -/
def narrowBlock (l : List Byte) : List Byte × Nat × Nat :=
  let xs := (List.range 32).map fun i => leNat ((l.drop (4 * i)).take 4)
  let q := encodeBlock true none none none (xs.map fun x => fdecode .f32 x)
  if q.invalid then (l, 129, 0)
  else
    let d := finishBlock true q [] 0 none (fun i => i) xs
    ((d.codes.map fun c => natLe 4 (roundTo .f32 (blockDecode true q.scale c) (.rm .rne) false)).flatten, 33,
      (q.overs.filter id).length)

/-- The chip-slot offsets of the whole 128-byte blocks of narrowable ranges, which are chip VAs. -/
def State.narrowBlocks (s : State) (lci : Nat) (ranges : List (Nat × Nat)) : List Nat :=
  (ranges.flatMap fun r =>
    ((List.range (r.2 / 128 + 1)).map fun k => ceilDiv r.1 128 * 128 + 128 * k).filterMap fun va =>
      if r.1 + r.2 < va + 128 then none
      else
        match s.xlateWalk lci false va .read with
        | .here t _ =>
          (match t.home with
           | .here h _ => if h = lci then some (t.cofs + (va - t.input)) else none
           | .remote _ => none)
        | _ => none).eraseDups

/-- Bytes of a list of cells from an address. -/
def cellBytes (l : List (Nat × Byte)) (a n : Nat) : List Byte := smRead memDefault l a n

/-- Frames with their narrowable blocks encoded and decoded; the size of the saved blocks and the saturated elements. -/
def narrowFrames (frames : List (Nat × Byte)) (blocks : List Nat) : List (Nat × Byte) × Nat × Nat :=
  blocks.foldl (fun (a : List (Nat × Byte) × Nat × Nat) b =>
    let r := narrowBlock (cellBytes a.1 b 128)
    (smWrite memDefault a.1 b r.1, a.2.1 + r.2.1, a.2.2 + r.2.2)) (frames, 0, 0)

/-- The offsets from `blocks` that lie in saved pages. -/
def blocksIn (pages blocks : List Nat) : List Nat := blocks.filter fun b => pages.contains (b / 4096 * 4096)

/-! ### What is in flight (14 R387, 16 R438) -/

/-- A chip's jobs, cards, messages and tokens as they are saved: token and orphan times remain relative to `base`. -/
def Traffic.savedOf (t : Traffic) (lci base : Nat) : Traffic :=
  let msgs := t.msgs.filter fun m => m.lci == lci
  { Traffic.init with
    jobs := (t.jobs.filter fun j => j.lci == lci).map fun j => { j with held := false, begun := [] }
    cards := (t.cards.filter fun c => c.lci == lci).map fun c => { c with held := false, begun := [] }
    msgs := msgs.map fun m => { m with orphAt := m.orphAt.map fun n => n - base }
    tokens := (t.tokens.filter fun k => msgs.any fun m => m.id == k.req).map fun k => { k with expiry := k.expiry - base }
    follows := t.follows.filter fun f => f.lci == lci
    sends := (t.sends.filter fun x => x.lci == lci).map fun x =>
      { x with tokens := x.tokens.map fun k => (k.1, k.2.1, k.2.2.1, k.2.2.2 - base) } }

/-- A team's name under a local chip index. -/
def reTeam (lci : Nat) (id : TeamId) : TeamId := { id with lci := lci }

/-- A placement under a local chip index, its owner's number risen by `ids`. -/
def Placement.moved (lci ids : Nat) : Placement → Placement
  | .unplaced => .unplaced
  | .buffer va cap bar team => .buffer va cap bar (reTeam lci team)
  | .log slot slots => .log slot slots
  | .region owner key pre => .region (owner + ids) key pre
  | .named => .named

/-- What a load changes of times and names: the new local chip index, what identifiers rise by, the base of remaining times,
and by how much saved instants move back (14 R389). -/
structure Move where
  lci : Nat
  ids : Nat
  base : Nat
  back : Nat
  deriving DecidableEq, Repr

/-- A job as it is loaded. -/
def Job.moved (m : Move) (j : Job) : Job :=
  { j with id := j.id + m.ids, lci := m.lci, team := reTeam m.lci j.team, msg := j.msg.map fun x => x + m.ids,
           prom := j.prom - m.back, effect := j.effect - m.back }

/-- A card as it is loaded: its places are resolved again (01 R36). -/
def Card.moved (m : Move) (c : Card) : Card :=
  { c with id := c.id + m.ids, lci := m.lci, team := reTeam m.lci c.team, record := c.record.map fun x => x + m.ids,
           effect := c.effect - m.back, counting := c.counting.map fun p => (p.1, p.2 - m.back),
           started := c.started && c.outcome != 0 }

/-- The saved traffic as it is loaded; the peer of each sender is looked up again. -/
def State.movedTraffic (s : State) (m : Move) (gid : Nat) (t : Traffic) : Traffic :=
  let peer := fun (src : Nat) =>
    match s.chipHome gid src with
    | .peer i _ => i
    | .here _ => s.hub.position
    | .unassigned => s.hub.position
  { Traffic.init with
    jobs := t.jobs.map fun j => j.moved m
    cards := t.cards.map fun c => c.moved m
    msgs := t.msgs.map fun x =>
      { x with id := x.id + m.ids, lci := m.lci, place := x.place.moved m.lci m.ids, peer := peer x.src,
               orphAt := x.orphAt.map fun n => n + m.base, effect := x.effect - m.back }
    follows := t.follows.map fun f => { f with owner := f.owner + m.ids, lci := m.lci }
    tokens := t.tokens.map fun k => { k with req := k.req + m.ids, expiry := k.expiry + m.base }
    sends := t.sends.map fun x =>
      { x with id := x.id + m.ids, job := x.job + m.ids, lci := m.lci, team := reTeam m.lci x.team
               tokens := x.tokens.map fun k => (k.1, k.2.1, k.2.2.1, k.2.2.2 + m.base) } }

/-- A lane as it is loaded: its wake time moved back, a page wait without an outcome cancelled, which completes it as if
RESOLVED (02 R73). -/
def Lane.moved (m : Move) (l : Lane) : Lane :=
  match l.wait with
  | some (.sleep pc t bar) => { l with wait := some (.sleep pc (t - m.back) bar) }
  | some (.page pc ea dst none) => { l with wait := some (.page pc ea dst (some pgCancelled)) }
  | _ => l

/-- A team as it is loaded, which issues nothing until the GTC has passed `after` (14 R389). -/
def Team.moved (m : Move) (after : Nat) (t : Team) : Team :=
  { t.mapGroups (fun g => { g with lanes := g.lanes.map fun q => (q.1, q.2.moved m) }) with
    id := reTeam m.lci t.id, resumeAfter := after }

/-- Two lists of traffic together. -/
def Traffic.plus (a b : Traffic) : Traffic :=
  { a with
    jobs := a.jobs ++ b.jobs, cards := a.cards ++ b.cards, msgs := a.msgs ++ b.msgs, tokens := a.tokens ++ b.tokens
    sends := a.sends ++ b.sends, follows := a.follows ++ b.follows }

/-- One more than every identifier of saved traffic. -/
def Traffic.top (t : Traffic) : Nat :=
  ((t.jobs.map Job.id) ++ (t.follows.map Follow.owner) ++ (t.cards.map Card.id) ++ (t.msgs.map MsgReq.id) ++ t.sends.map Send.id).foldl (fun n k => max n (k + 1)) 0

/-! ### Saving -/

/-- The base of a guest's remaining times: the instant of its pause. -/
def State.pauseBase (s : State) (gid : Nat) : Nat := if (s.guest gid).paused then (s.guest gid).pausedAt else s.gtc

/-- What a save asks for: its destination, the narrowable ranges, and the migration routes. -/
structure Saving where
  dest : Nat
  ranges : List (Nat × Nat)
  routes : List (Nat × DWord)
  deriving DecidableEq, Repr

/-- The image of a chip that has left its cores, and its saturated elements. The sections other than memory have no stated
layout, so their size is a free value (18 R467). -/
def State.imageOf (s : State) (lci : Nat) (c : Chip) (v : Saving) : Image × Nat :=
  let pages := s.slotPages c
  let names := pages.map Prod.fst
  let frames : List (Nat × Byte) := pages.foldl (fun (m : List (Nat × Byte)) p => smSetAll memDefault m (s.pageCells p)) []
  let blocks := blocksIn names (s.narrowBlocks lci v.ranges)
  let r := narrowFrames frames blocks
  ({ gid := c.ident.gid, dest := v.dest, source := s.hub.position, lci := lci, chip := c
     teams := s.teams.filter fun t => t.id.lci == lci
     traffic := s.traffic.savedOf lci (s.pauseBase c.ident.gid)
     counters := s.mod.banks.filter fun b => b.2.holder == some (.vf (BitVec.ofNat 8 lci))
     pages := names, frames := r.1, poison := pages.flatMap fun p => s.pagePoison p
     routes := v.routes, savedAt := s.gtc
     size := 4096 * names.length - 128 * blocks.length + r.2.1 + Config.freeNat s.free }, r.2.2)

/-- Saves a chip: its lines are written back first (18 R465). The second result is the image with its saturated elements. -/
def State.saveChip (s : State) (lci : Nat) (v : Saving) : State × Option (Image × Nat) :=
  let s := s.flushChip lci
  match s.chip? lci with
  | none => (s, none)
  | some c => ({ s with free := s.free + 1 }, some (s.imageOf lci c v))

/-! ### Loading -/

/-- A page of an image goes into its frame, with its poison marks. -/
def State.loadPage (s : State) (im : Image) (p : Nat × Nat) : State :=
  let mine := im.frames.filter fun (b : Nat × Byte) => decide (p.1 ≤ b.1) && decide (b.1 < p.1 + 4096)
  let marks := im.poison.filter fun g => decide (p.1 / 64 ≤ g) && decide (g < p.1 / 64 + 64)
  let rest := s.mem.filter fun (m : Nat × Byte) => !(decide (p.2 ≤ m.1) && decide (m.1 < p.2 + 4096))
  let clean := s.poison.filter fun g => !(decide (p.2 / 64 ≤ g.1) && decide (g.1 < p.2 / 64 + 64))
  { s with
    mem := mine.foldl (fun (m : List (Nat × Byte)) b => smSet memDefault m (p.2 + (b.1 - p.1)) b.2) rest
    poison := marks.foldl (fun (m : SMap Bool) g => smSet false m (p.2 / 64 + (g - p.1 / 64)) true) clean }

/-- The launch queues of a loaded chip: its grids on the hardware queues that the chip has here; a queue with no binding
here keeps its own. -/
def loadQueues (here saved : SMap LQueue) : SMap LQueue :=
  let both := here.map fun (q : Nat × LQueue) =>
    match saved.find? fun x => x.1 == q.1 with
    | some x => (q.1, { x.2 with hq := q.2.hq, weight := q.2.weight })
    | none => q
  both ++ saved.filter fun x => !(here.any fun q => q.1 == x.1) && !x.2.grids.isEmpty

/-- A page-wait record or a record on its way that a loaded chip still holds. -/
def RingItem.kept : RingItem → Bool
  | .event _ _ => true
  | .sepia _ _ => true
  | .record _ _ _ => true
  | .prq _ => false
  | .svc _ => false
  | .reply => false
  | .dump _ => false
  | .queue _ => false

/-- Completion times of records that a ring has not announced: a save follows them all, so they are due (04 R155). -/
def allDue (l : List Nat) : List Nat := l.map fun _ => 0

/-- A chip of this module with the state of an image (Tables 14.6 and 15.7). Its identity, stage-2 context, holdings, place
table, host queues and debug control are its own. -/
def Chip.loaded (here old : Chip) (lci : Nat) : Chip :=
  { old with
    ident := { here.ident with incoming := false }
    s2 := here.s2, places := here.places, res := here.res, cmdq := here.cmdq, lqd := here.lqd, stale := here.stale
    dbg := here.dbg
    ev := { old.ev with done := allDue old.ev.done }
    prq := { old.prq with done := allDue old.prq.done }
    svc := { old.svc with done := allDue old.svc.done }
    disp := { old.disp with
      queues := loadQueues here.disp.queues old.disp.queues, pfQueues := loadQueues here.disp.pfQueues old.disp.pfQueues
      resume := old.disp.resume.map fun t => reTeam lci t }
    calls := old.calls.map fun k => { k with team := reTeam lci k.team }
    posts := old.posts.map fun p => (p.1, p.2.map fun b => { b with team := reTeam lci b.team })
    held := old.held.filter fun (h : HeldItem) => h.item.kept }

/-- A service record with another incarnation, Table 9.2. -/
def recordInc (r : BitVec 512) (inc : Nat) : BitVec 512 :=
  BitVec.ofNat 512 (r.toNat - field (bits r.toNat 80 16) 80 16 + field inc 80 16)

/-- The page that stands for want of space in the request ring. -/
def svcSpace : Nat := 2 ^ 48

/-- Writes the record of one outstanding call again, or holds it on a page or for space. -/
def State.repostCall (s : State) (lci : Nat) (k : Call) : State :=
  match s.chip? lci with
  | none => s
  | some c =>
    let r := recordInc k.record (s.incOf lci)
    let s := s.modChip lci fun c => { c with calls := c.calls.map fun x => if x.id = k.id then { x with record := r } else x }
    if c.svc.reqFull || (c.held.any fun h => h.item.isSvc) then
      s.modChip lci fun c => { c with held := c.held ++ [{ item := .svc k.id, page := svcSpace }] }
    else
      let a := ringAddr c.svc.qbase c.svc.qsize 64 c.svc.next
      match s.reach lci a true with
      | .at_ mpa cls => s.writeSvc lci mpa cls (natLe 64 r.toNat)
      | .nonres level => s.holdItem lci (.svc k.id) a level
      | .fail => s.svcFailed lci { k with record := r }

/-- Outstanding calls are posted again, in CALLID order (15 R405). -/
def State.repost (s : State) (lci : Nat) : State :=
  match s.chip? lci with
  | none => s
  | some c => (c.calls.mergeSort fun a b => decide (a.id ≤ b.id)).foldl (fun (s : State) k => s.repostCall lci k) s

/-- Records that wait for space in the request ring, once QHEAD has moved. -/
def State.repostWaiting (s : State) (lci : Nat) : State :=
  let l := match s.chip? lci with
    | some c => c.held.filterMap fun (h : HeldItem) => match h.item with | .svc k => if h.page = svcSpace then some k else none | _ => none
    | none => []
  (l.foldl (fun (a : State × Bool) k =>
    let full := match a.1.chip? lci with | some c => c.svc.reqFull | none => true
    if a.2 || full then (a.1, true) else (a.1.retrySvc lci k true, false)) (s, false)).1

/-- Counter banks of an image resume on banks that are free here (15 R407). -/
def State.loadCounters (s : State) (lci : Nat) (l : SMap CtrBank) : State :=
  l.foldl (fun (s : State) b =>
    if (smGet CtrBank.init s.mod.banks b.1).holder.isSome then s
    else
      let x : CtrBank := { b.2 with holder := some (.vf (BitVec.ofNat 8 lci)), chip := b.2.chip.map fun _ => lci }
      s.modMod fun m => { m with banks := smSet CtrBank.init m.banks b.1 x }) s

/-- The banks of a loaded chip follow its minimum as far as banks are free (15 R408). -/
def State.loadBanks (s : State) (lci : Nat) : State :=
  match s.chip? lci with
  | none => s
  | some c =>
    let n := min c.qos.minb (c.res.banks.length + s.freeBanks.length)
    let s := s.refitBanks lci n
    if n < c.qos.minb then s.lower lci 1 n else s

/-- Loads an image into a chip of this module. `fresh`: after a migration, teams wait for the saved GTC; after a checkpoint
whose GTC lies more than 40 ns ahead, saved instants move back instead (14 R389). -/
def State.loadImage (s : State) (lci : Nat) (im : Image) (fresh : Bool) : State :=
  match s.chip? lci with
  | none => s
  | some here =>
    let back := if fresh || im.savedAt ≤ s.gtc + 40 then 0 else im.savedAt - s.gtc
    let after := if back = 0 then im.savedAt else 0
    let m : Move := { lci := lci, ids := s.ids, base := s.pauseBase here.ident.gid, back := back }
    let pages := (s.slotPages here).filter fun p => im.pages.contains p.1
    let s := (s.flushChip lci).modTraffic fun t => t.without lci
    let others := s.teams.filter fun (t : Team) => t.id.lci != lci
    let s := { s with teams := others ++ im.teams.map fun (t : Team) => t.moved m after }
    let s := { s with ids := s.ids + im.traffic.top }
    let s := s.modTraffic fun t => t.plus (s.movedTraffic m here.ident.gid im.traffic)
    let s := pages.foldl (fun (s : State) p => s.loadPage im p) s
    let s := (s.modChip lci fun c => c.loaded im.chip lci).loadCounters lci im.counters
    let s := (im.chip.held.map HeldItem.page).eraseDups.foldl (fun (s : State) p => s.itemsDone lci p true) s
    (s.loadBanks lci).repost lci

end Sys2Proof.Machine
end

