-- ==== Sys2Proof/Machine/Guests.lean ====
section
/-! DEFINITION. Guests: their tables (ROUTE_LOAD), pauses, checkpoints, restores and migrations (15 R401 to R408, R497, 16 R421
to R423, R426, R434, 18 R460, R465 to R468, R494). -/

namespace Sys2Proof.Machine

/-! ### ROUTE_LOAD (15 R402, 18 R494) -/

/-- Bytes of one entry, and entries of the table, by kind (Table 18.5a). -/
def routeShape (kind : Nat) : Nat × Nat :=
  match kind with
  | 0 => (8, 1024)
  | 1 => (8, 4096)
  | 2 => (24, 256)
  | _ => (8, 8)

/-- An entry of a chip table without a reserved bit (Table 16.3). -/
def chipEntryOk (e : Nat) : Bool :=
  bits e 45 19 == 0 && bits e 12 11 == 0 && (bits e 43 1 == 1 || bits e 35 8 == 0)

/-- The values of Table 16.6, with R426. -/
def paramsOk (l : List Nat) : Bool :=
  let p := fun (k : Nat) => l.getD k 0
  decide (p 0 ≤ 16384) && p 0 % 1024 == 0 && decide (5000 ≤ p 1) && decide (p 1 ≤ 1000000) && decide (100000 ≤ p 2) &&
    decide (p 2 ≤ 100000000) && decide (4 * p 1 ≤ p 2) &&
    ([3, 4, 5, 6].all fun k => decide (1 ≤ p k) && decide (p k ≤ 1024)) && decide (1000 ≤ p 7) && decide (p 7 ≤ 1000000)

/-- The entries of a load are acceptable. -/
def entriesOk (kind : Nat) (l : List Nat) : Bool :=
  match kind with
  | 0 => l.all chipEntryOk
  | 1 => l.all fun e => bits e 0 28 == 0
  | 2 => l.all fun e => bits e 165 27 == 0 && decide (bits e 0 5 ≤ 16)
  | _ => paramsOk l

/-- Byte 19 of a load names what its kind asks for. -/
def State.routeSelOk (s : State) (gid kind sel : Nat) : Bool :=
  match kind with
  | 0 => sel == 0
  | 1 => decide (sel ≤ 16)
  | 2 => match s.chip? sel with | some c => c.ident.gid == gid | none => false
  | _ => sel == 0

/-- Entries stored from an index. -/
def loadTable {n : Nat} (t : SMap (BitVec n)) (first : Nat) (l : List Nat) : SMap (BitVec n) :=
  smSetAll 0 t (l.zipIdx.map fun p => (first + p.2, BitVec.ofNat n p.1))

/-- The table after a load. -/
def State.loadRoutes (s : State) (gid kind sel first : Nat) (l : List Nat) : State :=
  match kind with
  | 0 => s.setGuest gid { s.guest gid with table := loadTable (s.guest gid).table first l }
  | 1 =>
    if sel < 16 then s.modPort sel fun p => { p with routes := loadTable p.routes first l, detour := p.detour && !p.up }
    else s.modHub fun h => { h with hubRoutes := loadTable h.hubRoutes first l }
  | 2 => s.modChip sel fun c => { c with mcast := loadTable c.mcast first l }
  | _ => s.setGuest gid { s.guest gid with params := l }

/-- A label of a guest leads over a port that has been loaded to a peer, whose path is up. -/
def State.pathBack (s : State) (port peer : Nat) : Bool :=
  s.mod.guests.any fun g => g.2.table.any fun e =>
    match s.chipHome g.1 e.1 with
    | .peer i label =>
      i == peer &&
        (if port < 16 then (s.routePorts g.1 label).contains port && (s.egress g.1 label 0 0 false).isSome
         else decide (16 ≤ i) && rV (s.route 16 label) && rGuest (s.route 16 label) == g.1)
    | .here _ => false
    | .unassigned => false

/-- Isolation of a peer ends: requests from it go on (16 R434). -/
def State.liftPeer (s : State) (peer : Nat) : State :=
  let s := s.modMod fun m => { m with
    peers := smSet Peer.init m.peers peer { smGet Peer.init m.peers peer with isolated := false, lost := false } }
  let s := s.modTraffic fun t => { t with msgs := t.msgs.map fun m =>
    if m.peer == peer && !(t.tokens.any fun k => k.req == m.id) then { m with orphAt := none } else m }
  s.postPeer 0x0041 peer 0

/-- Peers that a load of a port's routes brings back. -/
def State.liftPeers (s : State) (port : Nat) : State :=
  ((s.mod.peers.filter fun p => p.2.isolated && s.pathBack port p.1).map Prod.fst).foldl (fun (s : State) i => s.liftPeer i) s

/-- ROUTE_LOAD. -/
def execRouteLoad (h : CmdHdr) (gid : BitVec 16) (kind sel : BitVec 8) (src : DWord) (first count : Word) (s : State) : Out :=
  s.onCmd h (.routeLoad h gid kind sel src first count) fun s => pfOnly h s fun s =>
    let g := gid.toNat
    let k := kind.toNat
    let f := first.toNat
    let n := count.toNat
    let shape := routeShape k
    let ran := s.chips.any fun c => c.2.ident.gid == g && c.2.res.everRan
    if s.guestBusy g || (ran && !(s.guest g).paused) then s.refuse stBusy
    else if 3 < k || !s.routeSelOk g k sel.toNat || shape.2 < f + n || (k = 3 && (f ≠ 0 || n ≠ 8)) then s.refuse stInvalid
    else if k = 2 && (match s.chip? sel.toNat with | some c => c.ident.incoming | none => false) then s.refuse stBusy
    else
      s.readOperand h src.toNat (n * shape.1) fun b =>
        let l := (List.range n).map fun i => packetNat b (shape.1 * i) shape.1
        if !entriesOk k l then s.refuse stInvalid
        else
          let s := s.loadRoutes g k sel.toNat f l
          .done (if k = 1 then s.liftPeers sel.toNat else s) stOk 0

/-! ### GUEST_PAUSE and GUEST_RESUME (15 R401, R402) -/

/-- A packet of a pod that this module has sent has not been accepted. -/
def State.podUnacked (s : State) (gid : Nat) : Bool :=
  s.dies.any fun d => d.2.port.unacked.any fun p => !(s.routePorts gid p.route.toNat).isEmpty

/-- A pod sends nothing more from now on. -/
def State.pauseGuest (s : State) (gid : Nat) : State :=
  if (s.guest gid).paused then s
  else s.setGuest gid { s.guest gid with paused := true, pausedAt := s.gtc, pauseDone := false }

/-- GUEST_PAUSE. -/
def execGuestPause (h : CmdHdr) (gid : BitVec 16) (s : State) : Out :=
  s.onCmd h (.guestPause h gid) fun s => pfOnly h s fun s =>
    if s.guestBusy gid.toNat then s.refuse stBusy
    else .later ((s.pauseGuest gid.toNat).modHub fun x => { x with background := x.background ++ [.pause h gid.toNat] })

/-- A command of the background ends. -/
def State.endBackground (s : State) (b : Background) : State :=
  s.modHub fun x => { x with background := x.background.filter fun y => y != b }

/-- GUEST_PAUSE_COMPLETE: every packet of the pod that the module has sent has been accepted. -/
def execGuestPauseComplete (gid : BitVec 16) (s : State) : Out :=
  let g := gid.toNat
  .next (if s.podUnacked g then s
    else
      match s.hub.background.find? fun b => match b with | .pause _ k => k == g | _ => false with
      | some (.pause h k) =>
        let s := (s.endBackground (.pause h k)).setGuest g { s.guest g with pauseDone := true }
        (s.finishCmd h stOk 0).pollQueue h.fn .cmd
      | _ => s)

/-- The timers of a guest go on with their remaining times. -/
def State.shiftTimers (s : State) (gid d : Nat) : State :=
  let mine := fun (lci : Nat) => s.gidOf lci == gid && (s.chip? lci).isSome
  s.modTraffic fun t => { t with
    tokens := t.tokens.map fun k =>
      if (match t.msgs.find? fun m => m.id == k.req with | some m => mine m.lci | none => false) then { k with expiry := k.expiry + d } else k
    msgs := t.msgs.map fun m => if mine m.lci then { m with orphAt := m.orphAt.map fun n => n + d } else m
    sends := t.sends.map fun x =>
      if mine x.lci then { x with tokens := x.tokens.map fun k => (k.1, k.2.1, k.2.2.1, k.2.2.2 + d) } else x }

/-- A held request whose destination chip has come to this module: its line is homed here. -/
def State.txnHere (s : State) (t : Txn) (lci : Nat) : State :=
  let k : AccKind := match t.kind with | .load => .read | .store => .write | .atomic _ _ => .atomic
  let r := s.homeXlate 0 lci t.pod (if t.s2cls then none else some t.cls) k
  match r.1 with
  | .at_ mpa cls =>
    let base := mpa / 128 * 128
    let u : Txn := { t with
      home := .here lci base, cls := cls
      lanes := t.lanes.map fun (x : TxnLane) => { x with addr := base + x.addr % 128 } }
    r.2.modTraffic fun x => { x with txns := x.txns.map fun y => if y.id = t.id then u else y }
  | .nonres _ => r.2.answerTxn t (voidLanes t.lanes) 0
  | .fail => r.2.loseTxn t (t.lci s) Cause.fabric

/-- A held write-combined line whose destination chip has come to this module is stored here. -/
def State.wcbHere (s : State) (w : Wcb) (lci : Nat) : State :=
  let r := s.homeXlate 0 lci w.pod (some w.cls) .write
  match r.1 with
  | .at_ mpa cls =>
    let base := mpa / 128 * 128
    let lanes : List TxnLane := w.bytes.map fun b => { lane := b.1, addr := base + b.1, bytes := 1, data := [b.2], ea := w.pod + b.1 }
    let q := r.2.bankStore
      { lci := lci, line := mpa / 128, cls := cls, sync := false, scope := w.scope
        who := { agent := w.agent, team := none, writer := some w.pchip, checked := false }, lanes := lanes }
    q.st.answerWcb w (ansCause q.answers == 0) (ansCause q.answers) q.time
  | .nonres _ => r.2.answerWcb w false 0 0
  | .fail => (r.2.noteDrop w.lci w.pod).answerWcb w false Cause.fabric 0

/-- A held request that has no path now, or whose chip is on this module: `here` is that chip. -/
def State.heldStuck (s : State) (p : Packet) (here : Option Nat) (cause : Nat) : State :=
  match s.answeredWcb p with
  | some w =>
    let s := s.dropDrained p.msgid.toNat
    (match here with
     | some lci => s.wcbHere w lci
     | none => (s.noteDrop w.lci w.pod).answerWcb w false 0 0)
  | none =>
    match s.traffic.txns.find? fun t => t.msgid == p.msgid.toNat && t.agent.pchip == p.src.toNat with
    | some t => (match here with | some lci => s.txnHere t lci | none => s.loseTxn t (t.lci s) cause)
    | none =>
      match s.traffic.pages.find? fun q => q.queue == 2 && q.reqid == p.msgid.toNat && s.pchipOf q.vf == p.src.toNat with
      | some q => s.farDone q (if here.isSome then pgResolved else if cause = Cause.peerLost then pgLost else pgFabric)
      | none => s

/-- Sends a held packet by the tables in force now (15 R402). -/
def State.sendHeld (s : State) (gid : Nat) (p : Packet) : State :=
  match s.sendDraft gid {
    ty := p.type.toNat, src := p.src.toNat, dst := p.dst.toNat, addr := p.addr.toNat, msgid := p.msgid.toNat,
    prio := p.prio.toNat, cls := p.cls.toNat, scope := p.scope.toNat, beats := p.beats } with
  | .sent s => s
  | .here lci => if isRequest p.type.toNat || p.type.toNat = ptPreq then s.heldStuck p (some lci) 0 else s
  | .lost => if isRequest p.type.toNat || p.type.toNat = ptPreq then s.heldStuck p none Cause.peerLost else s
  | .unassigned => if isRequest p.type.toNat || p.type.toNat = ptPreq then s.heldStuck p none Cause.fabric else s

/-- A pod sends again: timers go on, held packets leave by the new tables, and senders go on. -/
def State.unpauseGuest (s : State) (gid : Nat) : State :=
  let g := s.guest gid
  if !g.paused then s
  else
    let s := s.shiftTimers gid (s.gtc - g.pausedAt)
    let s := s.setGuest gid { g with paused := false, pauseDone := false, waiting := [] }
    let s := g.waiting.foldl (fun (s : State) p => s.sendHeld gid p) s
    ((s.traffic.sends.filter fun x => s.gidOf x.lci == gid).map Send.id).foldl (fun (s : State) k => s.pumpSend k) s

/-- The chips of a guest that a command has suspended resume, when the module has their guarantees (15 R394). -/
def State.resumeChips (s : State) (gid : Nat) : State :=
  ((s.chips.filter fun c => c.2.ident.gid == gid && c.2.res.suspended == some 0).map Prod.fst).foldl
    (fun (s : State) k => (s.unsuspend k false).restoreSums) s

/-- GUEST_RESUME. -/
def execGuestResume (h : CmdHdr) (gid : BitVec 16) (s : State) : Out :=
  s.onCmd h (.guestResume h gid) fun s => pfOnly h s fun s =>
    if s.guestBusy gid.toNat then s.refuse stBusy
    else .done ((s.unpauseGuest gid.toNat).resumeChips gid.toNat) stOk 0

/-! ### CKPT and RESTORE (18 R465 to R468) -/

/-- A list of addresses and lengths, up to the entry of length 0; `k` bounds it. -/
def State.runList (s : State) (fn : Fn) : Nat → Nat → Option (List (Nat × Nat))
  | 0, _ => none
  | k + 1, a =>
    match s.issuerRead fn a 16 with
    | .bytes b =>
      let n := packetNat b 8 8
      if n = 0 then some [] else (s.runList fn k (a + 16)).map fun r => (packetNat b 0 8, n) :: r
    | .nonres _ _ => none
    | .fail => none

/-- Entries that firmware reads of a list. -/
def runListMax : Nat := 65536

/-- The chips of a guest. -/
def State.guestChips (s : State) (gid : Nat) : List Nat := (s.chips.filter fun c => c.2.ident.gid == gid).map Prod.fst

/-- CKPT: the guest's chips leave their cores at once, and the save goes on in the background. -/
def execCkpt (h : CmdHdr) (gid : BitVec 16) (narrow : Bool) (dest ranges rt : DWord) (s : State) : Out :=
  s.onCmd h (.ckpt h gid narrow dest ranges rt) fun s => pfOnly h s fun s =>
    let g := gid.toNat
    if s.guestBusy g || !(s.guest g).paused || !(s.guest g).pauseDone then s.refuse stBusy
    else if (s.runList h.fn runListMax dest.toNat).isNone || (narrow && (s.runList h.fn runListMax ranges.toNat).isNone) then
      s.refuse stInvalid
    else
      let s := (s.guestChips g).foldl (fun (s : State) k => s.suspend k 0 true) s
      .later (s.modHub fun x => { x with background := x.background ++ [.ckpt h g narrow dest.toNat ranges.toNat] })

/-- Images that a save left at a place. -/
def State.imagesAt (s : State) (gid at_ : Nat) : List Image := s.hub.images.filter fun i => i.gid == gid && i.dest == at_

/-- The first address of a list. -/
def firstRun (l : Option (List (Nat × Nat))) : Nat := ((l.getD []).map Prod.fst).headD 0

/-- The chip of this module that an image fills, when it is off its cores: suspended, or not resident, since no command suspends
a chip that has not run (log 59). -/
def State.imageChip (s : State) (im : Image) : Option (Nat × Chip) :=
  s.chips.find? fun c =>
    c.2.ident.gid == im.gid && c.2.ident.pchip == im.chip.ident.pchip && !c.2.ident.incoming &&
      (c.2.res.suspended.isSome || !c.2.res.resident) && c.2.res.drainAt.isNone

/-- RESTORE. -/
def execRestore (h : CmdHdr) (gid : BitVec 16) (src : DWord) (s : State) : Out :=
  s.onCmd h (.restore h gid src) fun s => pfOnly h s fun s =>
    let g := gid.toNat
    let l := s.runList h.fn runListMax src.toNat
    let images := s.imagesAt g (firstRun l)
    if s.guestBusy g then s.refuse stBusy
    else if l.isNone || images.isEmpty then s.refuse stInvalid
    else if !(images.all fun i => (s.imageChip i).isSome) then s.refuse stBusy
    else
      let s := images.foldl (fun (s : State) i =>
        match s.imageChip i with
        | some c => if c.2.res.suspended.isSome then s else s.suspend c.1 0 true
        | none => s) s
      .later (s.modHub fun x => { x with background := x.background ++ [.restore h g (firstRun l)] })

/-- The destination ranges of a save hold the image; the order of its sections and frames in them is not stated, so their
bytes are free values. -/
def State.fillRuns (s : State) (fn : Fn) (l : List (Nat × Nat)) : State :=
  l.foldl (fun (s : State) r =>
    ({ s with free := s.free + 1 } : State).issuerWrite fn r.1 (natLe r.2 (Config.freeNat s.free))) s

/-- Every chip of the guest has left its cores. -/
def State.allLeft (s : State) (gid : Nat) : Bool :=
  s.chips.all fun c => c.2.ident.gid != gid || c.2.res.drainAt.isNone

/-- The saves of a guest's chips, one after another: images, bytes and saturated elements. -/
def State.saveAll (s : State) (l : List Nat) (v : Saving) : State × List Image × Nat × Nat :=
  l.foldl (fun (a : State × List Image × Nat × Nat) k =>
    let r := a.1.saveChip k v
    match r.2 with
    | some i => (r.1, a.2.1 ++ [i.1], a.2.2.1 + i.1.size, a.2.2.2 + i.2)
    | none => (r.1, a.2)) (s, [], 0, 0)

/-- A checkpoint whose chips have left their cores is written, and the chips resume. -/
def State.finishCkpt (s : State) (h : CmdHdr) (gid : Nat) (narrow : Bool) (dest ranges : Nat) : State :=
  let runs := (s.runList h.fn runListMax dest).getD []
  let v : Saving := {
    dest := firstRun (some runs), routes := []
    ranges := if narrow then (s.runList h.fn runListMax ranges).getD [] else [] }
  let r := s.saveAll (s.guestChips gid) v
  let s := (r.1.modHub fun x => { x with
    images := (x.images.filter fun i => !(i.gid == gid && i.dest == v.dest)) ++ r.2.1 }).fillRuns h.fn runs
  ((s.endBackground (.ckpt h gid narrow dest ranges)).resumeChips gid).finishCmd h stOk (r.2.2.1 % 2 ^ 64 + 2 ^ 64 * r.2.2.2)

/-- A restore is carried out: incarnations rise, waits are cancelled, and the images are loaded; the chips stay suspended. -/
def State.finishRestore (s : State) (h : CmdHdr) (gid src : Nat) : State :=
  let images := s.imagesAt gid src
  let s := images.foldl (fun (s : State) i =>
    match s.imageChip i with
    | some c => (s.bumpInc c.1).loadImage c.1 i false
    | none => s) s
  (s.endBackground (.restore h gid src)).finishCmd h stOk ((images.map Image.size).sum % 2 ^ 64)

/-- CHECKPOINT_COMPLETE: a checkpoint or a restore of a guest ends. -/
def execCheckpointComplete (gid : BitVec 16) (s : State) : Out :=
  let g := gid.toNat
  .next (if !s.allLeft g then s
    else
      match s.hub.background.find? fun b => match b with | .ckpt _ k _ _ _ => k == g | .restore _ k _ => k == g | _ => false with
      | some (.ckpt h k narrow dest ranges) => s.finishCkpt h k narrow dest ranges
      | some (.restore h k src) => s.finishRestore h k src
      | _ => s)

/-! ### VC_MIGRATE (15 R404, R497) -/

/-- The name of a module in a migration route block: its cell position, or bit 15 with a scale-out index. -/
def moduleName (e : Nat) : Nat := if bits e 43 1 = 1 then 2 ^ 15 + bits e 31 12 else bits e 31 4

/-- The modules of a pod that hold a chip of the guest, with the target. -/
def State.podModules (s : State) (gid target : Nat) : List Nat :=
  (target :: s.hub.position :: ((s.guest gid).table.filter fun e => bits e.2.toNat 44 1 == 1).map fun e => moduleName e.2.toNat).eraseDups

/-- The records of a migration route block, when none breaks its rules. -/
def routeBlock (b : List Byte) (n : Nat) : Option (List (Nat × DWord)) :=
  let l := (List.range n).map fun k => (packetNat b (16 * k) 8, packetNat b (16 * k + 8) 8)
  if l.all fun r => decide (r.1 < 2 ^ 16) && chipEntryOk r.2 then some (l.map fun r => (r.1, BitVec.ofNat 64 r.2)) else none

/-- VC_MIGRATE: the chip begins to leave its cores. -/
def execVcMigrate (h : CmdHdr) (lci : BitVec 8) (target : BitVec 16) (route : DWord) (s : State) : Out :=
  s.onCmd h (.vcMigrate h lci target route) fun s => pfOnly h s fun s => s.onChip lci.toNat false fun c =>
    let t := target.toNat
    if c.locked then s.refuse stLocked
    else if t = s.hub.position || (t < 2 ^ 15 && 16 ≤ t) || (2 ^ 15 ≤ t && 4096 ≤ t - 2 ^ 15) then s.refuse stInvalid
    else
      s.readOperand h route.toNat 8 fun b0 =>
        let n := leNat b0
        if 2 ^ 16 < n then s.refuse stInvalid
        else
          s.readOperand h (route.toNat + 8) (16 * n) fun b =>
            match routeBlock b n with
            | none => s.refuse stInvalid
            | some l =>
              if !((s.podModules c.ident.gid t).all fun m => l.any fun r => r.1 == m) then s.refuse stInvalid
              else
                let s := s.suspend lci.toNat 0 false
                .later (s.modHub fun x => { x with background := x.background ++ [.migrate h lci.toNat t l] })

/-- An access of another chip is on its way to a chip's memory. -/
def State.arrivals (s : State) (lci : Nat) : Bool :=
  s.traffic.txns.any fun t => match t.home with | .here k _ => k == lci | .remote _ => false

/-- Every key of a chip's links is changed (15 R412). -/
def State.rekeyChip (s : State) (gid pchip : Nat) : State :=
  let renew := fun (k : Nat × Nat) =>
    if k.1 / 2 ^ 20 == gid && (k.1 / 1024 % 1024 == pchip || k.1 % 1024 == pchip) then
      (if (k.2 + 1) % 2 = 0 then none else some (k.1, 1))
    else some k
  s.modMod fun m => { m with keys := m.keys.filterMap renew }

/-- The chip-table entry of a migrated chip on this module. -/
def State.loadEntry (s : State) (gid pchip : Nat) (l : List (Nat × DWord)) : State :=
  match l.find? fun r => r.1 == s.hub.position with
  | some r => s.setGuest gid { s.guest gid with table := smSet 0 (s.guest gid).table pchip r.2 }
  | none => s

/-- Steps 4 to 7 of a migration on the source. A chip-table entry stays with the guest while it has a chip here. -/
def State.sendChip (s : State) (lci : Nat) (c : Chip) (target : Nat) (l : List (Nat × DWord)) : State :=
  let gid := c.ident.gid
  let s := s.bumpInc lci
  let r := s.saveChip lci { dest := target, ranges := [], routes := l }
  let s := match r.2 with
    | some i => r.1.modHub fun x => { x with images := x.images ++ [i.1] }
    | none => r.1
  let s := (s.dropChip lci).rekeyChip gid c.ident.pchip
  let s := if (s.guestChips gid).isEmpty then s else s.loadEntry gid c.ident.pchip l
  (s.unpauseGuest gid).resumeGuaranteed

/-- The number of a peer that a target names. -/
def targetPeer (t : Nat) : Nat := if t < 2 ^ 15 then t else t - 2 ^ 15 + 16

/-- A migration on the source, once its chip has left its cores: the pod is paused, and when every packet has been accepted
and every arrival has landed, the chip goes. A target that cannot be reached fails the command, whose status is a free
value, and the chip resumes. -/
def State.migrateOut (s : State) (h : CmdHdr) (lci target : Nat) (l : List (Nat × DWord)) (c : Chip) : State :=
  let gid := c.ident.gid
  if c.res.drainAt.isSome then s
  else if s.isolated (targetPeer target) then
    let s := ((s.endBackground (.migrate h lci target l)).unpauseGuest gid).unsuspend lci false
    ({ s with free := s.free + 1 } : State).finishCmd h (1 + Config.freeNat s.free % 7) 0
  else if !(s.guest gid).paused then s.pauseGuest gid
  else if s.podUnacked gid || s.arrivals lci then s
  else ((s.endBackground (.migrate h lci target l)).sendChip lci c target l).finishCmd h stOk 0

/-- The image that fills an incoming chip. -/
def State.imageFor (s : State) (c : Chip) : Option Image :=
  s.hub.images.find? fun i => i.gid == c.ident.gid && i.chip.ident.pchip == c.ident.pchip && i.dest == s.hub.position

/-- A target that accepts an image: its stage 2 maps every page, and the floors can be met (15 R497, R408). -/
def State.acceptsImage (s : State) (c : Chip) (im : Image) : Bool :=
  let pages := (s.slotPages c).map Prod.fst
  (im.pages.all fun p => pages.contains p) &&
    ([0, 1, 2].all fun kind => decide (s.sumLeast kind + im.chip.qos.floor kind ≤ s.unitsUp kind + c.qos.least kind)) &&
    decide (im.chip.qos.flb ≤ c.res.banks.length + s.freeBanks.length)

/-- A migration on the target: the incoming chip is filled, its entry loaded, and its guarantees set (Table 15.6, R394). The
chip waits for its place table. -/
def State.migrateIn (s : State) (lci : Nat) (c : Chip) (im : Image) : State :=
  let gid := c.ident.gid
  let s := s.loadImage lci im true
  let s := s.modRes lci fun r => { r with suspended := some 3, movedFrom := im.source }
  let s := s.modHub fun x => { x with images := x.images.filter fun i => i != im }
  ((s.loadEntry gid c.ident.pchip im.routes).rekeyChip gid c.ident.pchip).restoreSums

/-- MIGRATION_COMPLETE: a chip leaves for its target, or fills the incoming chip here. -/
def execMigrationComplete (lci : BitVec 8) (s : State) : Out :=
  let n := lci.toNat
  .next (match s.chip? n with
  | none => s
  | some c =>
    match s.hub.background.find? fun b => match b with | .migrate _ k _ _ => k == n | _ => false with
    | some (.migrate h k target l) => s.migrateOut h k target l c
    | _ =>
      if !c.ident.incoming then s
      else
        match s.imageFor c with
        | none => s
        | some im => if s.acceptsImage c im then s.migrateIn n c im else s)

end Sys2Proof.Machine
end

