-- ==== Sys2Proof/Machine/Debug.lean ====
section
/-! DEFINITION. Debug commands, the register window, watchpoints, counter selects, the function register page, and service
replies (17 R439 to R453, 18 R455, 14 R374 to R377, 09 R261). -/

namespace Sys2Proof.Machine

/-! ### DBGCMD (17 R441, R449) -/

/-- Runs a command of the debug control's holder; another function's writes are ignored (17 R440). -/
def State.onDbg (s : State) (fn : Fn) (lci : Nat) (k : Chip → State) : State :=
  match s.chip? lci with
  | none => s
  | some c => if c.dbg.holder = some fn then k c else s

/-- DBGSTAT after a command: its ERR, and the team that it named. -/
def State.dbgDone (s : State) (team : TeamId) (err : Nat) : State :=
  s.modChip team.lci fun c => { c with dbg := { c.dbg with errCode := err, named := some team } }

/-- A team of an accepted grid that has not been placed yet. -/
def Chip.queued (c : Chip) (team : TeamId) : Bool :=
  (c.disp.queues ++ c.disp.pfQueues).any fun q => q.2.grids.any fun g =>
    g.handle == team.handle && decide (g.next ≤ team.index) && decide (team.index < g.desc.teamCount)

/-- DBGCMD_STOP. -/
def execDbgcmdStop (fn : Fn) (team : TeamId) (s : State) : Out :=
  .next (s.onDbg fn team.lci fun c =>
    match s.team? team with
    | none =>
      if c.queued team then
        (s.dbgDone team 0).modChip team.lci fun c => { c with dbg := { c.dbg with marks := team :: c.dbg.marks.filter fun k => k != team } }
      else s.dbgDone team 1
    | some t =>
      if t.ended then s.dbgDone team 1
      else
        let s := s.dbgDone team 0
        match t.place with
        | .resident _ _ => s.trigger team 1 0 none 0 0
        | _ => if t.dbg.state = 0 then s.modTeam team fun t => { t with dbg := { t.dbg with mark := true } } else s)

/-- Runs a command that names a stopped team. -/
def State.onStopped (s : State) (fn : Fn) (team : TeamId) (k : Team → State) : State :=
  s.onDbg fn team.lci fun _ =>
    match s.team? team with
    | none => s.dbgDone team 1
    | some t => if t.ended then s.dbgDone team 1 else if t.dbg.state = 2 then k t else s.dbgDone team 2

/-- DBGCMD_RESUME. -/
def execDbgcmdResume (fn : Fn) (team : TeamId) (s : State) : Out :=
  .next (s.onStopped fn team fun _ => (s.dbgDone team 0).liftStop team)

/-- DBGCMD_RESUME_NEXT. -/
def execDbgcmdResumeNext (fn : Fn) (team : TeamId) (s : State) : Out :=
  .next (s.onStopped fn team fun _ => ((s.dbgDone team 0).pastBkpts team).liftStop team)

/-- DBGCMD_STEP: one issue of one group, whose old dump slot is free again. -/
def execDbgcmdStep (fn : Fn) (team : TeamId) (group : BitVec 5) (s : State) : Out :=
  .next (s.onStopped fn team fun t =>
    if (t.group group.toNat).readyMask = 0 then s.dbgDone team 3
    else
      let now := s.gtc
      ((s.dbgDone team 0).freeDump team).modTeam team fun t =>
        { t.modGroup group.toNat (fun g => { g with stepping := true, stopped := false, skid := 0, eligibleAt := now }) with
          dbg := { t.dbg with state := 3, slot := none, hits := 0 } })

/-- DBGCMD_DETACH. -/
def execDbgcmdDetach (fn : Fn) (lci : BitVec 8) (s : State) : Out :=
  .next (s.onDbg fn lci.toNat fun _ => s.detach lci.toNat)

/-! ### The register window (17 R445) -/

/-- A group with a lane register that the debugger writes: later instructions read it. -/
def Group.windowReg (g : Group) (l key : Nat) (v : Word) : Group :=
  let g := g.setKey l key v
  let own := maskOf [l]
  { g with ord := { g.ord with flights := g.ord.flights.map fun f =>
      if f.key = key then { f with lanes := f.lanes &&& ~~~ own } else f } }

/-- Stores data in what a window address names; an address that names nothing is ignored. -/
def Team.windowWrite (t : Team) (grp : Nat) (w : WinTarget) (d : DWord) : Team :=
  let go := t.modGroup grp
  match w with
  | .reg l a =>
    let x := a.toNat
    if x < 0x400 then
      if x / 4 < min (t.group grp).alloc 256 then go fun g => g.windowReg l.toNat (x / 4) (d.setWidth 32) else t
    else if 0x10000 ≤ x && x < 0x10000 + 16384 * t.desc.acc then
      { t with acc := smSet 0 t.acc ((x - 0x10000) / 4) (d.setWidth 32), accPoison := smErase t.accPoison ((x - 0x10000) / 4) }
    else t
  | .pred l p => go fun g => g.windowReg l.toNat (predKey p.toNat) (if d.getLsbD 0 then 1 else 0)
  | .pc l =>
    if ((t.group grp).lane l.toNat).pc = d then t
    else
      { go (fun g => g.modLane l.toNat fun x => { x with pc := d }) with
        dbg := { t.dbg with newPcs := (grp, l.toNat) :: t.dbg.newPcs.filter fun p => p != (grp, l.toNat) } }
  | .tcause => go fun g => { g with trap := { g.trap with tcause := d.setWidth 32 } }
  | .tpc => go fun g => { g with trap := { g.trap with tpc := d, tpcWritten := true } }
  | .tlanes => go fun g => { g with trap := { g.trap with tlanes := d.setWidth 32 } }
  | .taddr => go fun g => { g with trap := { g.trap with taddr := d } }

/-- REGISTER_WINDOW_WRITE: only into a stopped team. -/
def execRegisterWindowWrite (fn : Fn) (team : TeamId) (group : BitVec 5) (target : WinTarget) (data : DWord) (s : State) : Out :=
  .next (s.onDbg fn team.lci fun _ =>
    match s.team? team with
    | none => s
    | some t =>
      if t.dbg.state = 2 && decide (group.toNat < t.desc.groupCount) then s.setTeam (t.windowWrite group.toNat target data) else s)

/-! ### Watchpoints and counter selects (17 R447, R453) -/

/-- A watchpoint register; a value with a reserved bit, or with a base or length that is no range, is disarmed. -/
def Watch.ofBits (lci x : Nat) : Watch :=
  let len := bits x 45 19
  let base := bits x 26 19
  let good := bits x 64 20 == 0 && bits x 6 20 == 0 && len % 4 == 0 && decide (len ≤ 327680) && base % 4 == 0
  { lci := lci, handle := bits x 84 12, team := bits x 96 32, len := if good then len else 0, base := base,
    eng := bits x 5 1 == 1, peer := bits x 4 1 == 1, own := bits x 3 1 == 1, at_ := bits x 2 1 == 1, st := bits x 1 1 == 1,
    ld := bits x 0 1 == 1 }

/-- WATCHPOINT_WRITE: the watchpoint of a logical core of the chip. -/
def execWatchpointWrite (fn : Fn) (lci : BitVec 8) (lcore : BitVec 11) (wp : BitVec 2) (val : BitVec 128) (s : State) : Out :=
  .next (s.onDbg fn lci.toNat fun c =>
    match c.place placeCore 0 lcore.toNat with
    | none => s
    | some core => s.modCore core fun k => { k with
        watch := (wp.toNat, Watch.ofBits lci.toNat val.toNat) :: k.watch.filter fun w => w.1 != wp.toNat })

/-- COUNTER_SELECT_WRITE: a write by another than the holder, or of an unlisted select, is ignored. -/
def execCounterSelectWrite (fn : Fn) (bank : BitVec 7) (ctr : BitVec 4) (sel : BitVec 16) (s : State) : Out :=
  let b := smGet CtrBank.init s.mod.banks bank.toNat
  .next (if b.holder ≠ some fn || 0xF < sel.toNat then s
    else s.modMod fun m => { m with banks := smSet CtrBank.init m.banks bank.toNat { b with sel := smSet 0 b.sel ctr.toNat sel.toNat } })

/-! ### The function register page (18 R455) -/

/-- A number with byte `k` replaced. -/
def putByte (x k : Nat) (b : Byte) : Nat := x - field (bits x (8 * k) 8) (8 * k) 8 + field b.toNat (8 * k) 8

/-- The event ring descriptor's writable fields, Table 15.3; ARM apart. -/
def EvRing.putByte (r : EvRing) (k : Nat) (b : Byte) : EvRing :=
  let x := Machine.putByte (r.base + field r.size 64 8 + field r.vec 80 11 + field r.head 96 32) k b
  { r with base := bits x 0 64, size := bits x 64 8, vec := bits x 80 11, head := bits x 96 32,
           arm := if k = 9 && !b.getLsbD 0 then false else r.arm }

/-- A page-request queue descriptor's writable fields, Table 2.9. -/
def Prq.putByte (q : Prq) (k : Nat) (b : Byte) : Prq :=
  let x := Machine.putByte (q.base + field q.size 64 8 + field q.head 128 32) k b
  { q with base := bits x 0 64, size := bits x 64 8, head := bits x 128 32 }

/-- The service ring descriptor's writable fields, Table 14.3; RTAIL apart. A write ends a halt (14 R376). -/
def SvcRing.putByte (r : SvcRing) (k : Nat) (b : Byte) : SvcRing :=
  let x := Machine.putByte
    (r.qbase + field r.qsize 64 8 + field r.qhead 256 32 + field r.rbase 320 64 + field r.rsize 384 8) k b
  { r with qbase := bits x 0 64, qsize := bits x 64 8, qhead := bits x 256 32, rbase := bits x 320 64, rsize := bits x 384 8,
           halted := false }

/-- A receive log descriptor's writable fields, Table 16.8. -/
def RxLog.putByte (l : RxLog) (k : Nat) (b : Byte) : RxLog :=
  let x := Machine.putByte (l.base + field l.size 64 8) k b
  { l with base := bits x 0 64, size := bits x 64 8 }

/-- The filter of a trace unit, whose layout is the model's: launch handle, least and greatest team index, kind mask, KEYBAR
and N, four bytes each; a launch of all ones is every launch (17 R450, R452). -/
def Sepia.putByte (u : Sepia) (k : Nat) (b : Byte) : Sepia :=
  let x := Machine.putByte (field (u.launch.getD 0xFFFFFFFF) 0 32 + field u.teamLo 32 32 + field u.teamHi 64 32 +
    field u.kinds 96 32 + field u.keybar 128 32 + field u.every 160 32) k b
  { u with
    launch := if bits x 0 32 = 0xFFFFFFFF then none else some (bits x 0 32)
    teamLo := bits x 32 32, teamHi := bits x 64 32, kinds := bits x 96 32, keybar := bits x 128 32, every := bits x 160 32 }

/-- The trace units that a function holds. -/
def State.modSepia (s : State) (fn : Fn) (f : Sepia → Sepia) : State :=
  let go := fun (u : Nat × Sepia) => if u.2.holder == some fn then (u.1, f u.2) else u
  s.modMod fun m => { m with sepia := m.sepia.map go }

/-- The debug controls that a function holds. -/
def State.modDbg (s : State) (fn : Fn) (f : ChipDbg → ChipDbg) : State :=
  let go := fun (c : Nat × Chip) => if c.2.dbg.holder == some fn then (c.1, { c.2 with dbg := f c.2.dbg }) else c
  { s with chips := s.chips.map go }

/-- A register that both kinds of page have: trace ring and filter, dump base, window address, watchpoint select. -/
def State.commonByte (s : State) (fn : Fn) (off : Nat) (b : Byte) : State :=
  let attached := s.chips.any fun c => c.2.dbg.holder == some fn
  if 0x220 ≤ off && off < 0x228 then
    s.modDbg fn fun d => { d with dumpBase := putByte d.dumpBase (off - 0x220) b / 2 ^ 21 * 2 ^ 21 }
  else if 0x230 ≤ off && off < 0x238 && attached then
    s.modHub fun h => { h with winAddr := smSet 0 h.winAddr (Fn.num fn) (putByte (smGet 0 h.winAddr (Fn.num fn)) (off - 0x230) b) }
  else if 0x240 ≤ off && off < 0x248 && attached then
    s.modHub fun h => { h with watchSel := smSet 0 h.watchSel (Fn.num fn) (putByte (smGet 0 h.watchSel (Fn.num fn)) (off - 0x240) b) }
  else if 0x300 ≤ off && off < 0x320 then s.modSepia fn fun u => { u with ring := u.ring.putByte (off - 0x300) b }
  else if 0x320 ≤ off && off < 0x340 then s.modSepia fn fun u => u.putByte (off - 0x320) b
  else s

/-- One byte of a function's page; what is not listed, is read-only, or has a row of its own changes nothing here. -/
def State.regByte (s : State) (fn : Fn) (off : Nat) (b : Byte) : State :=
  match fn with
  | .pf =>
    if 0x80 ≤ off && off < 0xA0 then s.modHub fun h => { h with ev := h.ev.putByte (off - 0x80) b }
    else if 0x8000 ≤ off && off < 0xA000 then
      let vf := (off - 0x8000) / 32
      s.modHub fun h => { h with
        hypPrq := smSet Prq.init h.hypPrq vf ((smGet Prq.init h.hypPrq vf).putByte ((off - 0x8000) % 32) b) }
    else s.commonByte fn off b
  | .vf l =>
    let go := s.modChip l.toNat
    if 0x80 ≤ off && off < 0xA0 then go fun c => { c with ev := c.ev.putByte (off - 0x80) b }
    else if 0xC0 ≤ off && off < 0x100 then go fun c => { c with svc := c.svc.putByte (off - 0xC0) b }
    else if 0x100 ≤ off && off < 0x120 then go fun c => { c with prq := c.prq.putByte (off - 0x100) b }
    else if 0x800 ≤ off && off < 0x1000 then
      let q := (off - 0x800) / 32
      s.setLog l.toNat q ((s.rxLog l.toNat q).putByte ((off - 0x800) % 32) b)
    else s.commonByte fn off b

/-- What waits for space or for a register goes on after a write. -/
def State.regDone (s : State) (fn : Fn) (off n : Nat) : State :=
  let hit := fun (lo hi : Nat) => decide (off < hi) && decide (lo < off + n)
  let s :=
    if hit 0x100 0x120 || hit 0x8000 0xA000 then
      s.pagesNext
    else s
  match fn with
  | .pf => if hit 0x220 0x228 then s.chips.foldl (fun (s : State) c => if c.2.dbg.holder == some .pf then s.flushDumps c.1 else s) s else s
  | .vf l =>
    let lci := l.toNat
    let s := if hit 0xC0 0x100 then (s.repostWaiting lci).postSvcWaits lci else s
    let s := if hit 0x800 0x1000 then (List.range 64).foldl (fun (s : State) q =>
        if hit (0x800 + 32 * q) (0x820 + 32 * q) then s.placeWaiting lci q else s) s else s
    if hit 0x220 0x228 then s.flushDumps lci else s

/-- A DBGCMD write that is no command: a reserved field or CMD sets ERR 4 (Table 17.2). -/
def State.badDbgcmd (s : State) (fn : Fn) (off : Nat) (data : List Byte) : State :=
  if off ≠ 0x200 || data.length ≠ 16 then s
  else
    let x := leNat data
    if bits x 8 71 = 0 && 1 ≤ bits x 0 8 && bits x 0 8 ≤ 5 then s
    else s.modDbg fn fun d => { d with errCode := 4 }

/-- REGISTER_WRITE: bytes of a function's page. A write of ARM = 1 arms the ring (15 R398). The page of a function that does
not answer takes nothing (18 R463). -/
def execRegisterWrite (fn : Fn) (off : BitVec 16) (data : List Byte) (s : State) : Out :=
  let o := off.toNat
  let answers := s.fwReady && (match fn with | .pf => true | .vf l => (s.chip? l.toNat).isSome)
  let arms := decide (o ≤ 0x89) && decide (0x89 < o + data.length) && (data.getD (0x89 - o) 0).getLsbD 0
  .next (if !answers then s
    else
      let s := (data.zipIdx).foldl (fun (s : State) p => s.regByte fn (o + p.2) p.1) s
      let s := (s.regDone fn o data.length).badDbgcmd fn o data
      if arms then s.armRing fn else s)

/-! ### Service replies (14 R376, R377, 09 R261) -/

/-- A reply ring that hardware reads now. -/
def Chip.replies (c : Chip) : Bool :=
  c.res.resident && c.svc.repOn && !c.svc.halted && c.svc.rtail != c.svc.rhead &&
    !(c.held.any fun h => h.item == .reply)

/-- RTAIL_WRITE: a value beyond the ring halts it. -/
def execRtailWrite (lci : BitVec 8) (rtail : Word) (s : State) : Out :=
  let n := lci.toNat
  .next (match s.chip? n with
  | none => s
  | some c =>
    let s := s.modChip n fun c => { c with svc := { c.svc with rtail := rtail.toNat, halted := false } }
    if c.svc.repOn && decide (2 ^ c.svc.rsize < ringUsed rtail.toNat c.svc.rhead) then s.haltReplies n else s)

/-- A register of a lane written by a reply, unless it has been discarded since the call (05 R176). -/
def Group.replyWord (g : Group) (l key : Nat) (v : Word) : Group :=
  if g.lost.contains (256 * l + key) then g else g.windowReg l key v

/-- A d register of a lane written by a reply. -/
def Group.replyReg (g : Group) (l base d : Nat) (v : Nat) : Group :=
  (g.replyWord l (base + 2 * d) (BitVec.ofNat 32 v)).replyWord l (base + 2 * d + 1) (BitVec.ofNat 32 (v / 2 ^ 32))

/-- A reply that names an outstanding call resumes its lane, on a core or in its image (14 R377). -/
def State.applyReply (s : State) (lci : Nat) (k : Call) (res0 res1 : Nat) : State :=
  let s := s.modChip lci fun c => { c with calls := c.calls.filter fun x => x.id != k.id }
  match s.team? k.team with
  | none => s
  | some t =>
    let base := t.desc.vwv / 4
    s.modGroup k.team k.group fun g =>
      ((g.replyReg k.lane base k.d res0).replyReg k.lane base (k.d + 1) res1).wake k.lane

/-- A reply record, Table 14.4. -/
def State.replyRecord (s : State) (lci : Nat) (c : Chip) (b : List Byte) : State :=
  let x := leNat b
  if bits x 80 16 ≠ s.incOf lci then s.countStale lci 2
  else
    match c.calls.find? fun k => k.id == bits x 0 64 with
    | none => s.countStale lci 3
    | some k => s.applyReply lci k (bits x 128 64) (bits x 192 64)

/-- SERVICE_REPLY: the next reply record is read and applied; a poisoned one halts the ring as a FAIL does (log 70). -/
def execServiceReply (lci : BitVec 8) (s : State) : Out :=
  let n := lci.toNat
  .next (match s.chip? n with
  | none => s
  | some c =>
    if !c.replies then s
    else
      let a := ringAddr c.svc.rbase c.svc.rsize 32 c.svc.rhead
      match s.reach n a false with
      | .nonres level => s.holdItem n .reply a level
      | .fail => s.haltReplies n
      | .at_ mpa cls =>
        if s.peekBad n mpa 32 then s.haltReplies n
        else
          let b := s.peek n mpa 32 cls
          (s.modChip n fun c => { c with svc := { c.svc with rhead := (c.svc.rhead + 1) % 2 ^ 32 } }).replyRecord n c b)

end Sys2Proof.Machine
end

