-- ==== Sys2Proof/Machine/Float.lean ====
section
/-! DEFINITION. f32 arithmetic, Table 8.5 (08 R242, R243). -/

namespace Sys2Proof.Machine

/-- A format-R f32 instruction that rounds its exact result. -/
def f32R (f : FmtR) (o : Opds) (s : State) (x : Args → Fv) : Out :=
  issue s f.sched fun i => i.aluSr f.sched 6 o fun r => roundEl .f32 f (x r) r.seed

/-- A format-I f32 instruction: RM only, no modifier, no FTZ, no SAT (08 R233). -/
def f32I (f : FmtI) (s : State) (x : Fv → Fv → Fv) : Out :=
  issue s f.sched fun i => i.alu f.sched 6 (opsI1 f) fun r =>
    roundTo .f32 (x (fdecode .f32 r.a) (fdecode .f32 f.imm.toNat)) (.rm f.rm) false

/-- An f32 source of format R with its modifiers: 0 is a, 1 is b, 2 is c. -/
def src32 (f : FmtR) (k x : Nat) : Fv := fsrc .f32 f.mod k x

/-- FADD: a + b. -/
def execFadd (f : FmtR) (s : State) : Out :=
  f32R f (opsR2 f) s fun r => fsum (roundsDown f) [src32 f 0 r.a, src32 f 1 r.b]
/-- FADD with an immediate. -/
def execFaddI (f : FmtI) (s : State) : Out := f32I f s fun a b => fsum (f.rm == .rd) [a, b]
/-- FMUL: a * b. -/
def execFmul (f : FmtR) (s : State) : Out := f32R f (opsR2 f) s fun r => fmulv (src32 f 0 r.a) (src32 f 1 r.b)
/-- FMUL with an immediate. -/
def execFmulI (f : FmtI) (s : State) : Out := f32I f s fmulv
/-- FFMA: a * b + c, rounded once. -/
def execFfma (f : FmtR) (s : State) : Out :=
  f32R f (opsR3 f) s fun r => fsum (roundsDown f) [fmulv (src32 f 0 r.a) (src32 f 1 r.b), src32 f 2 r.c]
/-- FMIN. -/
def execFmin (f : FmtR) (s : State) : Out :=
  f32R f (opsR2 f) s fun r => fminmax false (src32 f 0 r.a) (src32 f 1 r.b)
/-- FMIN with an immediate. -/
def execFminI (f : FmtI) (s : State) : Out := f32I f s (fminmax false)
/-- FMAX. -/
def execFmax (f : FmtR) (s : State) : Out :=
  f32R f (opsR2 f) s fun r => fminmax true (src32 f 0 r.a) (src32 f 1 r.b)
/-- FMAX with an immediate. -/
def execFmaxI (f : FmtI) (s : State) : Out := f32I f s (fminmax true)

/-- A value rounded to an integral value; the sign is kept and infinities and NaN pass (08 R242). -/
def frndVal (rm : Rm) (v : Fv) : Fv :=
  match v with
  | .nan => .nan
  | .inf n => .inf n
  | .fin n m e =>
    match froundInt rm (.fin n m e) with
    | some r => .fin n r.natAbs 0
    | none => .nan

/-- FRND: a rounded to an integral value by RM. -/
def execFrnd (f : FmtR) (s : State) : Out :=
  issue s f.sched fun i => i.alu f.sched 6 (opsR1 f) fun r =>
    fwriteFtz .f32 (modBit f.mod 9) (roundTo .f32 (frndVal f.rm (fread .f32 (modBit f.mod 9) r.a)) (.rm .rne) false)

/-- The class mask of Table 8.5a. -/
def fclassVal (x : Nat) : Nat :=
  let sub := fsub .f32 x
  match fdecode .f32 x with
  | .nan => 2 ^ 8
  | .inf n => if n then 2 ^ 0 else 2 ^ 7
  | .fin n m _ =>
    if m = 0 then (if n then 2 ^ 3 else 2 ^ 4)
    else if sub then (if n then 2 ^ 2 else 2 ^ 5)
    else if n then 2 ^ 1 else 2 ^ 6

/-- FCLASS; FTZ does not apply. -/
def execFclass (f : FmtR) (s : State) : Out :=
  issue s f.sched fun i => i.alu f.sched 6 (opsR1 f) fun r => fclassVal r.a

/-- FSCALE: a * 2^n, n read as i32. Beyond 1,000 in magnitude n changes no rounded result, so it is cut there. -/
def fscaleVal (a : Fv) (n : Nat) : Fv := a.scale (max (-1000) (min 1000 (toSigned 32 n)))

/-- FSCALE. -/
def execFscale (f : FmtR) (s : State) : Out := f32R f (opsR2 f) s fun r => fscaleVal (src32 f 0 r.a) r.b
/-- FSCALE with an immediate. -/
def execFscaleI (f : FmtI) (s : State) : Out :=
  issue s f.sched fun i => i.alu f.sched 6 (opsI1 f) fun r =>
    roundTo .f32 (fscaleVal (fdecode .f32 r.a) f.imm.toNat) (.rm f.rm) false

end Sys2Proof.Machine
end

