-- ==== Sys2Proof/Machine/Half.lean ====
section
/-! DEFINITION. Packed 16-bit arithmetic (08 R244): each half as the f32 instruction of the same kind, in format TY. -/

namespace Sys2Proof.Machine

/-- A packed format-R instruction: the exact result of each half, rounded half 0 first. -/
def packedR (f : FmtR) (o : Opds) (s : State) (x : Fv → Fv → Fv → Fv) : Out :=
  issue s f.sched fun i => i.aluSr f.sched 6 o fun r =>
    both (fun h seed => roundEl f.ty f
      (x (fsrc f.ty f.mod 0 (half r.a h)) (fsrc f.ty f.mod 1 (half r.b h)) (fsrc f.ty f.mod 2 (half r.c h))) seed) r.seed

/-- A packed format-I instruction: the same 16-bit value in both halves (06 R193). -/
def packedI (f : FmtI) (s : State) (x : Fv → Fv → Fv) : Out :=
  issue s f.sched fun i => i.alu f.sched 6 (opsI1 f) fun r =>
    let h := fun k => roundTo f.ty (x (fdecode f.ty (half r.a k)) (fdecode f.ty (f.imm.toNat % 65536))) (.rm f.rm) false
    pair16 (h 0) (h 1)

/-- HADD2. -/
def execHadd2 (f : FmtR) (s : State) : Out := packedR f (opsR2 f) s fun a b _ => fsum (roundsDown f) [a, b]
/-- HADD2 with an immediate. -/
def execHadd2I (f : FmtI) (s : State) : Out := packedI f s fun a b => fsum (f.rm == .rd) [a, b]
/-- HMUL2. -/
def execHmul2 (f : FmtR) (s : State) : Out := packedR f (opsR2 f) s fun a b _ => fmulv a b
/-- HMUL2 with an immediate. -/
def execHmul2I (f : FmtI) (s : State) : Out := packedI f s fmulv
/-- HFMA2. -/
def execHfma2 (f : FmtR) (s : State) : Out := packedR f (opsR3 f) s fun a b c => fsum (roundsDown f) [fmulv a b, c]
/-- HMIN2. -/
def execHmin2 (f : FmtR) (s : State) : Out := packedR f (opsR2 f) s fun a b _ => fminmax false a b
/-- HMIN2 with an immediate. -/
def execHmin2I (f : FmtI) (s : State) : Out := packedI f s (fminmax false)
/-- HMAX2. -/
def execHmax2 (f : FmtR) (s : State) : Out := packedR f (opsR2 f) s fun a b _ => fminmax true a b
/-- HMAX2 with an immediate. -/
def execHmax2I (f : FmtI) (s : State) : Out := packedI f s (fminmax true)

end Sys2Proof.Machine
end

