-- ==== Sys2Proof/Machine/Int.lean ====
section
/-! DEFINITION. Integer and address arithmetic, Table 8.2 (08 R237). -/

namespace Sys2Proof.Machine

/-- A format-R integer instruction: the exact result of its sources in TY, written by R215. -/
def intR (f : FmtR) (o : Opds) (s : State) (x : Int → Int → Int → Int) : Out :=
  issue s f.sched fun i => i.alu f.sched 4 o fun r => iwrite f.ty f.sat (x (iread f.ty r.a) (iread f.ty r.b) (iread f.ty r.c))

/-- A format-I integer instruction: b is the immediate; there is no SAT (08 R233). -/
def intI (f : FmtI) (s : State) (x : Int → Int → Int) : Out :=
  issue s f.sched fun i => i.alu f.sched 4 (opsI1 f) fun r => iwrite f.ty false (x (iread f.ty r.a) (iread f.ty (immOf f.ty f.imm)))

/-- IADD: a + b. -/
def execIadd (f : FmtR) (s : State) : Out := intR f (opsR2 f) s fun a b _ => a + b
/-- IADD with an immediate. -/
def execIaddI (f : FmtI) (s : State) : Out := intI f s fun a b => a + b
/-- IADD3: a + b + c. -/
def execIadd3 (f : FmtR) (s : State) : Out := intR f (opsR3 f) s fun a b c => a + b + c
/-- ISUB: a - b. -/
def execIsub (f : FmtR) (s : State) : Out := intR f (opsR2 f) s fun a b _ => a - b
/-- ISUB with an immediate. -/
def execIsubI (f : FmtI) (s : State) : Out := intI f s fun a b => a - b
/-- IMUL: a * b. -/
def execImul (f : FmtR) (s : State) : Out := intR f (opsR2 f) s fun a b _ => a * b
/-- IMUL with an immediate. -/
def execImulI (f : FmtI) (s : State) : Out := intI f s fun a b => a * b
/-- IMULH: floor(a * b / 2^32). -/
def execImulh (f : FmtR) (s : State) : Out := intR f (opsR2 f) s fun a b _ => (a * b) / 2 ^ 32
/-- IMULH with an immediate. -/
def execImulhI (f : FmtI) (s : State) : Out := intI f s fun a b => (a * b) / 2 ^ 32
/-- IMAD: a * b + c. -/
def execImad (f : FmtR) (s : State) : Out := intR f (opsR3 f) s fun a b c => a * b + c

/-- The 64-bit type of IMADW: i64 for TY i32, n64 for TY n32. -/
def wideOf (t : Ty) : Ty := if t = .i32 then .i64 else .n64

/-- IMADW: a * b + c with a 64-bit c and result. -/
def execImadw (f : FmtR) (s : State) : Out :=
  issue s f.sched fun i => i.alu f.sched 4 (opsR3 f) fun r =>
    iwrite (wideOf f.ty) f.sat (iread f.ty r.a * iread f.ty r.b + iread (wideOf f.ty) r.c)

/-- IMIN. -/
def execImin (f : FmtR) (s : State) : Out := intR f (opsR2 f) s fun a b _ => min a b
/-- IMIN with an immediate. -/
def execIminI (f : FmtI) (s : State) : Out := intI f s fun a b => min a b
/-- IMAX. -/
def execImax (f : FmtR) (s : State) : Out := intR f (opsR2 f) s fun a b _ => max a b
/-- IMAX with an immediate. -/
def execImaxI (f : FmtI) (s : State) : Out := intI f s fun a b => max a b
/-- IABS. -/
def execIabs (f : FmtR) (s : State) : Out := intR f (opsR1 f) s fun a _ _ => |a|
/-- INEG. -/
def execIneg (f : FmtR) (s : State) : Out := intR f (opsR1 f) s fun a _ _ => -a
/-- LEA: a + b * 2^s, s in MOD[4:0]. -/
def execLea (f : FmtR) (s : State) : Out := intR f (opsR2 f) s fun a b _ => a + b * 2 ^ modField f.mod 0 5
/-- LEA with an immediate: s = 0. -/
def execLeaI (f : FmtI) (s : State) : Out := intI f s fun a b => a + b

/-- LEAW: a 64-bit address a, plus b of type TY times 2^s, modulo 2^64. -/
def execLeaw (f : FmtR) (s : State) : Out :=
  issue s f.sched fun i => i.alu f.sched 4 (opsR2 f) fun r =>
    wrapNat 64 ((r.a : Int) + iread f.ty r.b * 2 ^ modField f.mod 0 5)

/-- LEAW with an immediate: s = 0. -/
def execLeawI (f : FmtI) (s : State) : Out :=
  issue s f.sched fun i => i.alu f.sched 4 (opsI1 f) fun r => wrapNat 64 ((r.a : Int) + iread f.ty f.imm.toNat)

end Sys2Proof.Machine
end

