-- ==== Sys2Proof/Machine/Logic.lean ====
section
/-! DEFINITION. Logic, shifts and bit instructions, Table 8.3 (08 R238). -/

namespace Sys2Proof.Machine

/-- A format-R instruction over 32-bit patterns. -/
def bitsR (f : FmtR) (o : Opds) (s : State) (x : Nat → Nat → Nat → Nat) : Out :=
  issue s f.sched fun i => i.alu f.sched 4 o fun r => x r.a r.b r.c

/-- A format-I instruction over 32-bit patterns. -/
def bitsI (f : FmtI) (s : State) (x : Nat → Nat → Nat) : Out :=
  issue s f.sched fun i => i.alu f.sched 4 (opsI1 f) fun r => x r.a f.imm.toNat

/-- SHL: 0 for n of 32 or more; counts are compared, never masked. -/
def shlVal (a n : Nat) : Nat := if 32 ≤ n then 0 else a * 2 ^ n % 2 ^ 32
/-- SHR: 0 for n of 32 or more. -/
def shrVal (a n : Nat) : Nat := if 32 ≤ n then 0 else a / 2 ^ n
/-- SAR: floor(a / 2^min(n, 31)), a signed. -/
def sarVal (a n : Nat) : Nat := wrapNat 32 (toSigned 32 a / 2 ^ min n 31)
/-- SHF over y = b * 2^32 + a by min(c, 32): the high word of the left shift or the low word of the right shift. -/
def shfVal (right : Bool) (a b c : Nat) : Nat :=
  let y := b * 2 ^ 32 + a
  let n := min c 32
  if right then y / 2 ^ n % 2 ^ 32 else y * 2 ^ n / 2 ^ 32 % 2 ^ 32
/-- ROTL: a rotated left by n mod 32. -/
def rotlVal (a n : Nat) : Nat := a * 2 ^ (n % 32) % 2 ^ 32 + a / 2 ^ (32 - n % 32)

/-- BFE: k bits of a from bit p, sign-extended for i32. -/
def bfeVal (signed : Bool) (a b : Nat) : Nat :=
  let k := min (bits b 8 8) 32
  let x := bits (a % 2 ^ 32) (bits b 0 8) k
  if k = 0 then 0 else if signed then wrapNat 32 (toSigned k x) else x

/-- BFI: bits p to p + k - 1 of a replaced by the low k bits of b. -/
def bfiVal (a b c : Nat) : Nat :=
  let p := bits c 0 8
  let k := if p < 32 then min (bits c 8 8) (32 - p) else 0
  a - bits a p k * 2 ^ p + b % 2 ^ k * 2 ^ p

/-- POPC: number of one bits. -/
def popcVal (a : Nat) : Nat := ((List.range 32).filter fun i => a.testBit i).length
/-- CLZ: leading zero bits; 32 for 0. -/
def clzVal (a : Nat) : Nat := if a = 0 then 32 else 31 - Nat.log2 a
/-- BREV: bit i is bit 31 - i. -/
def brevVal (a : Nat) : Nat := (List.range 32).foldl (fun n i => n + if a.testBit (31 - i) then 2 ^ i else 0) 0

/-- One byte of PRMT: selector bits 2:0 choose byte j of y, bit 3 fills with bit 7 of byte j. -/
def prmtByte (y sel : Nat) : Nat :=
  let b := bits y (8 * (sel % 8)) 8
  if 8 ≤ sel then (if 128 ≤ b then 255 else 0) else b

/-- PRMT: byte k from selector nibble k of c. -/
def prmtVal (a b c : Nat) : Nat :=
  let y := b * 2 ^ 32 + a
  prmtByte y (bits c 0 4) + prmtByte y (bits c 4 4) * 2 ^ 8 + prmtByte y (bits c 8 4) * 2 ^ 16 +
    prmtByte y (bits c 12 4) * 2 ^ 24

/-- AND. -/
def execAnd (f : FmtR) (s : State) : Out := bitsR f (opsR2 f) s fun a b _ => a &&& b
/-- AND with an immediate. -/
def execAndI (f : FmtI) (s : State) : Out := bitsI f s fun a b => a &&& b
/-- OR. -/
def execOr (f : FmtR) (s : State) : Out := bitsR f (opsR2 f) s fun a b _ => a ||| b
/-- OR with an immediate. -/
def execOrI (f : FmtI) (s : State) : Out := bitsI f s fun a b => a ||| b
/-- XOR. -/
def execXor (f : FmtR) (s : State) : Out := bitsR f (opsR2 f) s fun a b _ => a ^^^ b
/-- XOR with an immediate. -/
def execXorI (f : FmtI) (s : State) : Out := bitsI f s fun a b => a ^^^ b
/-- LUT3: the truth table of MOD[7:0] on every bit. -/
def execLut3 (f : FmtR) (s : State) : Out := bitsR f (opsR3 f) s (lut3Word (modField f.mod 0 8))
/-- SHL. -/
def execShl (f : FmtR) (s : State) : Out := bitsR f (opsR2 f) s fun a b _ => shlVal a b
/-- SHL with an immediate. -/
def execShlI (f : FmtI) (s : State) : Out := bitsI f s shlVal
/-- SHR. -/
def execShr (f : FmtR) (s : State) : Out := bitsR f (opsR2 f) s fun a b _ => shrVal a b
/-- SHR with an immediate. -/
def execShrI (f : FmtI) (s : State) : Out := bitsI f s shrVal
/-- SAR. -/
def execSar (f : FmtR) (s : State) : Out := bitsR f (opsR2 f) s fun a b _ => sarVal a b
/-- SAR with an immediate. -/
def execSarI (f : FmtI) (s : State) : Out := bitsI f s sarVal
/-- SHF, left or right by MOD[0]. -/
def execShf (f : FmtR) (s : State) : Out := bitsR f (opsR3 f) s (shfVal (modBit f.mod 0))
/-- ROTL. -/
def execRotl (f : FmtR) (s : State) : Out := bitsR f (opsR2 f) s fun a b _ => rotlVal a b
/-- ROTL with an immediate. -/
def execRotlI (f : FmtI) (s : State) : Out := bitsI f s rotlVal
/-- BFE in i32 or n32. -/
def execBfe (f : FmtR) (s : State) : Out := bitsR f (opsR2 f) s fun a b _ => bfeVal (f.ty == .i32) a b
/-- BFE with an immediate. -/
def execBfeI (f : FmtI) (s : State) : Out := bitsI f s (bfeVal (f.ty == .i32))
/-- BFI. -/
def execBfi (f : FmtR) (s : State) : Out := bitsR f (opsR3 f) s bfiVal
/-- POPC. -/
def execPopc (f : FmtR) (s : State) : Out := bitsR f (opsR1 f) s fun a _ _ => popcVal a
/-- CLZ. -/
def execClz (f : FmtR) (s : State) : Out := bitsR f (opsR1 f) s fun a _ _ => clzVal a
/-- BREV. -/
def execBrev (f : FmtR) (s : State) : Out := bitsR f (opsR1 f) s fun a _ _ => brevVal a
/-- PRMT. -/
def execPrmt (f : FmtR) (s : State) : Out := bitsR f (opsR3 f) s prmtVal

end Sys2Proof.Machine
end

