-- ==== Sys2Proof/Machine/QuantInstr.lean ====
section
/-! DEFINITION. QSCALE, QNT and DQNT (11 R326 to R329). -/

namespace Sys2Proof.Machine

/-- The block of an issue as f32 patterns: an inactive lane contributes 0.0. -/
def Ix.block (x : Ix) (o : Opd) : List Nat :=
  (List.range 32).map fun l => if x.active.getLsbD l then x.rd l o else 0

/-- The check of an outlier list's header at issue: its cause, range before alignment as in R97 (07 R228). -/
def Team.listCause (t : Team) (ofs : Nat) : Option Nat :=
  if t.spadSize < ofs + 8 then some Cause.access
  else if ofs % 8 ≠ 0 then some Cause.misaligned
  else none

/-- QSCALE: the scale byte of the block to every active lane. -/
def execQscale (f : FmtR) (s : State) : Out :=
  issue s f.sched fun i =>
    let clip := modBit f.mod 3
    let o := if clip then opsR2 f else opsR1 f
    match i.operandTrap (i.sources o) (i.t.desc.regsOf f.dst) with
    | some tr => i.trap tr
    | none =>
      let q := encodeBlock (f.ty == .q8) (if modBit f.mod 2 then none else some (modField f.mod 0 2)) none
        (if clip then some (fdecode .f32 (i.rd i.low f.sb)) else none) ((i.block f.sa).map (fdecode .f32))
      let y := i.withTeam (i.t.raiseFlags false (q.invalid && i.active != 0))
      y.finish f.sched none ((lanesOf i.active).flatMap fun l => i.dst l f.dst q.scale)

/-- The codes of QNT and what its appends leave (11 R328). -/
def qntBlock (q8 : Bool) (scale : Nat) (t : Team) (list base : Nat) (xs : List Nat) : QDone × Bool :=
  if scale % 64 = 63 || (q8 && scale / 64 % 4 == 3) then
    ({ spad := t.spad, codes := List.replicate 32 0, full := false }, false)
  else
    let q := encodeBlock q8 (some (scale / 64 % 4)) (some ((scale % 64 : Int) - 48)) none (xs.map (fdecode .f32))
    (finishBlock q8 q t.spad t.spadSize (if list = 0xFFFFFFFF then none else some list) (fun i => base + i) xs, q.invalid)

/-- What lane l receives: its code, or with PACK word l mod 4 (q4) or l mod 8 (q8) of the code bytes (07 R221). -/
def qntWord (q8 pack : Bool) (codes : List Nat) (l : Nat) : Nat :=
  if pack then
    let w := if q8 then l % 8 else l % 4
    leNat ((((packCodes q8 codes).drop (4 * w)).take 4).map (BitVec.ofNat 8))
  else codes.getD l 0 % (if q8 then 256 else 16)

/-- QNT. -/
def execQnt (f : FmtR) (s : State) : Out :=
  issue s f.sched fun i =>
    let q8 := f.ty == .q8
    let scs := i.t.desc.regsFrom f.sc 2
    match i.operandTrap (i.sources (opsR2 f) ++ i.own scs) (i.t.desc.regsOf f.dst) with
    | some tr => i.trap tr
    | none =>
      let sc := i.regsNat i.low scs
      let list := sc % 2 ^ 32
      match (if list = 0xFFFFFFFF || i.active = 0 then none else i.t.listCause list) with
      | some c => i.trap { cause := c, lanes := i.active, addr := list }
      | none =>
        let r := qntBlock q8 (i.rd i.low f.sb % 256) i.t list (sc / 2 ^ 32) (i.block f.sa)
        let t := if i.active = 0 then i.t else { i.t with spad := r.1.spad }.raiseFlags r.1.full r.2
        (i.withTeam t).finish f.sched none
          ((lanesOf i.active).flatMap fun l => i.dst l f.dst (qntWord q8 (modBit f.mod 4) r.1.codes l))

/-- The code of lane l of DQNT: its own, or with PACK a nibble of lane l / 8 or a byte of lane l / 4. -/
def Ix.dqntCode (x : Ix) (f : FmtR) (l : Nat) : Nat :=
  match modBit f.mod 4, f.ty == .q8 with
  | false, false => x.rd l f.sa % 16
  | false, true => x.rd l f.sa % 256
  | true, false => bits (x.rd (l / 8) f.sa) (4 * (l % 8)) 4
  | true, true => bits (x.rd (l / 4) f.sa) (8 * (l % 4)) 8

/-- The lanes whose SA an issue of DQNT reads. -/
def dqntLanes (f : FmtR) (issued : Mask) : Mask :=
  if modBit f.mod 4 then maskOf ((lanesOf issued).map fun l => if f.ty = .q8 then l / 4 else l / 8) else issued

/-- DQNT: decode(S, code) as f32 (07 R224). -/
def execDqnt (f : FmtR) (s : State) : Out :=
  issue s f.sched fun i =>
    let srcs := ((i.t.desc.regsOf f.sa).map fun n => (n, dqntLanes f i.cur.issued)) ++ i.own (i.t.desc.regsOf f.sb)
    match i.operandTrap srcs (i.t.desc.regsOf f.dst) with
    | some tr => i.trap tr
    | none =>
      let sb := i.rd i.low f.sb % 256
      i.finish f.sched none ((lanesOf i.active).flatMap fun l =>
        i.dst l f.dst (roundTo .f32 (blockDecode (f.ty == .q8) sb (i.dqntCode f l)) (.rm .rne) false))

end Sys2Proof.Machine
end

