-- ==== Sys2Proof/Machine/Matrix.lean ====
section
/-! DEFINITION. The matrix engine: passes, tile operations, the arbiter and drains (11 R306 to R325, 07 R230, R231, 03 R109
to R111). -/

namespace Sys2Proof.Machine

/-! ### Tiles -/

/-- `n` values from key `k` of a map in key order. -/
def spread : Nat → Nat → SMap Word → List Word
  | 0, _, _ => []
  | n + 1, k, m =>
    match m with
    | [] => 0 :: spread n (k + 1) []
    | p :: r => if p.1 = k then p.2 :: spread n (k + 1) r else 0 :: spread n (k + 1) (p :: r)

/-- Keys below and from the end of a tile. -/
def outsideTile (n k : Nat) : Bool := decide (k < 4096 * n) || decide (4096 * n + 4096 ≤ k)

/-- The elements of tile `n`, row by row (01 R24). -/
def Team.tile (t : Team) (n : Nat) : List Word := spread 4096 (4096 * n) (t.acc.filter fun p => !outsideTile n p.1)

/-- The poison marks of tile `n`. -/
def Team.tileBad (t : Team) (n : Nat) : List Bool :=
  let m := t.accPoison.filter fun p => !outsideTile n p.1
  if m.isEmpty then List.replicate 4096 false else (List.range 4096).map fun k => smGet false m (4096 * n + k)

/-- The listed entries of values from key `k`, without the default. -/
def listed {α : Type} [DecidableEq α] (d : α) (k : Nat) (l : List α) : SMap α :=
  l.zipIdx.filterMap fun p => if p.1 = d then none else some (k + p.2, p.1)

/-- A map with the entries of tile `n` replaced. -/
def splice {α : Type} (m : SMap α) (n : Nat) (new : SMap α) : SMap α :=
  (m.filter fun p => decide (p.1 < 4096 * n)) ++ new ++ m.filter fun p => decide (4096 * n + 4096 ≤ p.1)

/-- Replaces a tile and its poison marks. -/
def Team.putTile (t : Team) (n : Nat) (vals : List Word) (bad : List Bool) : Team :=
  { t with acc := splice t.acc n (listed 0 (4096 * n) vals), accPoison := splice t.accPoison n (listed false (4096 * n) bad) }

/-- Rows of 64 elements. -/
def rowsOf {α : Type} : Nat → List α → List (List α)
  | 0, _ => []
  | n + 1, l => l.take 64 :: rowsOf n (l.drop 64)

/-- An accumulator value rounded from an exact one. -/
def accRound (v : Fv) : Word := BitVec.ofNat 32 (roundTo .f32 v (.rm .rne) false)

/-! ### Fragments (11 R315, R316) -/

/-- Bytes of an element of a matrix type. -/
def elBytes (t : Ty) : Nat :=
  match t with
  | .f32 => 4
  | .f16 | .bf16 => 2
  | .i32 | .n32 | .i64 | .n64 | .i16 | .n16 | .i8 | .n8 | .e4m3 | .e5m2 | .q8 | .q4 => 1

/-- The element codes of a fragment row from its 16 registers (Table 11.1). -/
def rowCodes (t : Ty) (ws : List Nat) : List Nat :=
  match t with
  | .f32 => ws
  | .f16 | .bf16 => ws.flatMap fun w => [w % 65536, w / 65536 % 65536]
  | .q4 => ws.flatMap fun w => (List.range 8).map fun k => bits w (4 * k) 4
  | .i32 | .n32 | .i64 | .n64 | .i16 | .n16 | .i8 | .n8 | .e4m3 | .e5m2 | .q8 =>
    ws.flatMap fun w => (List.range 4).map fun k => bits w (8 * k) 8

/-- The value of a code: exact, an i8 as an integer. -/
def elValue (t : Ty) (c : Nat) : Fv := if t = .i8 then .ofInt (toSigned 8 c) else fdecode t c

/-- The 16 registers of fragment row `i` among 32 registers, from a snapshot. -/
def snapRow (m : SMap Word) (regs : List Nat) (i : Nat) : List Nat :=
  ((regs.drop (16 * (i % 2))).take 16).map fun n => (smGet 0 m (256 * (i / 2) + n)).toNat

/-- The values of a fragment row; a block type takes its scale bytes from byte `sel` of `scale`. -/
def rowValues (t : Ty) (quant : Bool) (scale sel : Nat) (ws : List Nat) : List Fv :=
  if quant then
    (rowCodes t ws).zipIdx.map fun p => blockDecode (t == .q8) (bits scale (8 * (sel + p.2 / 32)) 8) p.1
  else (rowCodes t ws).map (elValue t)

/-- The 64 rows of a fragment; `scales` are the registers of even and odd rows. -/
def fragRows (t : Ty) (quant : Bool) (m : SMap Word) (regs scales : List Nat) (sel : Nat) : List (List Fv) :=
  (List.range 64).map fun i =>
    rowValues t quant (match scales[i % 2]? with | some n => (smGet 0 m (256 * (i / 2) + n)).toNat | none => 0) sel
      (snapRow m regs i)

/-- A product; a zero product of integers has no sign. -/
def elProd (ints : Bool) (a b : Fv) : Fv :=
  match fmulv a b with
  | .fin n m e => .fin (n && (!ints || m != 0)) m e
  | .nan => .nan
  | .inf n => .inf n

/-- `pass_update` of one element (07 R230). -/
def passEl (ints : Bool) (acc : Word) (a b : List Fv) : Word :=
  accRound (fsum false (fdecode .f32 acc.toNat :: (a.zip b).map fun p => elProd ints p.1 p.2))

/-- A lane holds an uncorrectable error in a register of a list. -/
def laneBad (bad : SMap Bool) (regs : List Nat) (l : Nat) : Bool := !bad.isEmpty && regs.any fun n => smGet false bad (256 * l + n)

/-! ### Registers that a pass reads (11 R310) -/

/-- The scale registers of MMAQ. -/
def Contrib.scales (c : Contrib) (d : Desc) : List Nat := if c.quant then d.regsFrom c.f.sc 4 else []
/-- Every register that a pass reads in each lane. -/
def Contrib.regs (c : Contrib) (d : Desc) : List Nat := d.regsOf c.f.sa ++ d.regsOf c.f.sb ++ c.scales d

/-- The old values of a register that a guard keeps. -/
def FragGuard.oldsOf (fg : FragGuard) (k : Nat) : List Word := (fg.olds.filter fun p => p.1 == k).map (·.2)

/-- One of the values that a register held while the guard stood (log 7). -/
def pickOld (free k : Nat) : List Word → Nat → Word → Word
  | [], _, v => v
  | w :: r, i, v => if Config.freeBit free (65536 * i + k) then w else pickOld free k r (i + 1) v

/-- What the engine reads of registers of lanes under a guard. -/
def Group.snapshot (g : Group) (free gid : Nat) (lanes regs : List Nat) : SMap Word × SMap Bool :=
  let olds := match g.guards.find? fun fg => fg.req == gid with | some fg => fg.olds | none => []
  let one := fun (k : Nat) (l n : Nat) =>
    if olds.isEmpty then g.key l n else pickOld free k ((olds.filter fun p => p.1 == 256 * l + n).map (·.2)) 0 (g.key l n)
  let keys := lanes.flatMap fun l => regs.map fun n => (l, n)
  (keys.filterMap fun p => let v := one (256 * p.1 + p.2) p.1 p.2; if v = 0 then none else some (256 * p.1 + p.2, v),
   if g.bad.isEmpty then [] else keys.filterMap fun p => if smGet false g.bad (256 * p.1 + p.2) then some (256 * p.1 + p.2, true) else none)

/-- Old values that reads at issue could still meet: writes in flight that nothing covers. -/
def Ix.guardOlds (x : Ix) (regs : List Nat) : SMap Word :=
  (liveFlights x.g.ord.flights x.g.ord.dclk).flatMap fun f =>
    if regs.contains f.key && f.acc.isNone then
      (lanesOf f.lanes).map fun l => (256 * l + f.key, smGet 0 f.olds l)
    else []

/-- A guard over registers that a request reads. -/
def Ix.mkGuard (x : Ix) (id : Nat) (strict : Bool) (regs : List Nat) : FragGuard :=
  { req := id, strict := strict, ranges := regs.map fun n => (n, 1), olds := x.guardOlds regs }

/-! ### MMA and MMAQ (11 R307, R317, R319) -/

/-- The counter that DONE names; 7 is none. -/
def doneCtr (f : FmtR) : Option Nat := let k := modField f.mod 8 3; if k = 7 then none else some k

/-- The fields that every issue of a contribution carries alike. -/
def sameFields (a b : FmtR) : Bool :=
  a.dst == b.dst && a.sa == b.sa && a.sb == b.sb && a.sc == b.sc && a.ty == b.ty && a.mod == b.mod

/-- ACCESS_VIOLATION of a tile at or beyond the slice (03 R110). -/
def Ix.tileTrap (x : Ix) (o : Opd) : Option Trap :=
  let n := x.t.desc.tileOf o
  if x.t.desc.acc ≤ n then some { cause := Cause.access, lanes := x.cur.issued, addr := n } else none

/-- The contribution after an issue has joined it. -/
def Contrib.join (c : Contrib) (set done : Option Nat) : Contrib :=
  { c with sets := c.sets ++ set.toList, dones := c.dones ++ done.toList }

/-- Replaces or adds the contribution of a group. -/
def putContrib (l : List Contrib) (c : Contrib) : List Contrib := (l.filter fun d => d.group != c.group) ++ [c]

/-- A contributing issue of MMA or MMAQ. -/
def Ix.contribute (x : Ix) (quant : Bool) (f : FmtR) : State :=
  let k := modField f.mod 0 3
  let c := x.t.convReg k
  let m := x.t.countable c x.cur.group x.active
  let set := setCtr f.sched
  let done := doneCtr f
  let old := c.contribs.find? fun d => d.group == x.cur.group
  match old, m == 0 with
  | none, true => x.put (x.advance ((((x.g.bump set).bump done).due set).due done))
  | none, false =>
    let r := x.s.fresh
    let d : Contrib := { group := x.cur.group, quant := quant, f := f, pc := x.cur.pc.toNat, guard := r.1, sets := set.toList,
                         dones := done.toList }
    let c := { c.sign x.cur.group m with contribs := putContrib c.contribs d }
    let g := (x.g.bump set).bump done
    let g := { g with guards := g.guards ++ [x.mkGuard r.1 true (d.regs x.t.desc)] }
    let y : Ix := { x with s := r.2, t := x.t.setConv k c }
    (y.put (x.advance g)).evalPhase x.t.id x.cur.core k
  | some d, _ =>
    if d.quant != quant || !sameFields d.f f then
      x.trap { cause := Cause.illegalOp, lanes := x.cur.issued, addr := d.pc }
    else
      let c := { c.sign x.cur.group m with contribs := putContrib c.contribs (d.join set done) }
      let y : Ix := { x with t := x.t.setConv k c }
      (y.put (x.advance ((x.g.bump set).bump done))).evalPhase x.t.id x.cur.core k

/-- MMA and MMAQ: tile, register names, then the contribution. -/
def mmaIssue (quant : Bool) (f : FmtR) (s : State) : Out :=
  issue s f.sched fun i =>
    let regs := i.t.desc.regsOf f.sa ++ i.t.desc.regsOf f.sb ++ (if quant then i.t.desc.regsFrom f.sc 4 else [])
    match firstTrap [i.tileTrap f.dst, i.nameTrap (regs.map fun n => (n, 0xFFFFFFFF)) []] with
    | some tr => i.trap tr
    | none => i.contribute quant f

/-- MMA. -/
def execMma (f : FmtR) (s : State) : Out := mmaIssue false f s
/-- MMAQ. -/
def execMmaq (f : FmtR) (s : State) : Out := mmaIssue true f s

/-! ### Posting a tile operation (11 R306, R320) -/

/-- A tile operation on its operands: tile, registers, no active lane, and then `k`. -/
def Ix.onTile (x : Ix) (f : FmtR) (tile : Opd) (srcs : List (Nat × Mask)) (dsts : List Nat) (k : Unit → State) : State :=
  match firstTrap [x.tileTrap tile, x.nameTrap srcs dsts] with
  | some tr => x.trap tr
  | none => if x.active = 0 then x.finish f.sched none [] else k ()

/-- The reservation table has no free entry. -/
def Ix.tableFull (x : Ix) : Bool := decide (32 ≤ (x.s.cluster (clusterOf x.cur.core)).used)

/-- Posts a tile operation; `regs` are the registers it reads at its grant. -/
def Ix.postOp (x : Ix) (f : FmtR) (op : TileOp) (strict : Bool) (regs : List Nat) : State :=
  if x.tableFull then x.hold
  else
    let r := x.s.fresh
    let g := x.g.bump (setCtr f.sched)
    let g := if regs.isEmpty then g else { g with guards := g.guards ++ [x.mkGuard r.1 strict regs] }
    let s := ({ x with s := r.2 } : Ix).put (x.advance g)
    s.postRequest x.cur.core {
      id := r.1, team := x.t.id, group := x.cur.group, passes := [], op := some op, ctr := setCtr f.sched, pc := x.cur.pc,
      prio := x.t.desc.prio, age := 0, frags := [], acc := none }

/-- Posts a tile operation whose end is that of an access: its counter and writes are the access's. -/
def Ix.postAcc (x : Ix) (f : FmtR) (op : TileOp) (dst : AccDst) (isLoad isStore sc : Bool) (scope : Scope) (ws : List Wr)
    (ans : List LaneAns) : State :=
  if x.tableFull then x.hold
  else
    let r := x.s.fresh
    let q := r.2.fresh
    let a : Access := {
      id := q.1, team := x.t.id, group := x.cur.group, pc := x.cur.pc, ctr := setCtr f.sched, dst := dst, active := x.active,
      sync := sc, isSc := sc, isLoad := isLoad, isStore := isStore, scope := scope, answers := ans, open_ := [r.1],
      effect := 0, followed := false }
    let g := (x.g.reserve ws (x.cover f.sched none) q.1 x.cur.first).bump (setCtr f.sched)
    let g := if sc then { g with ord := { g.ord with holds := g.ord.holds ++ [Hold.answer q.1] } } else g
    let s := (({ x with s := q.2 } : Ix).put (x.advance g)).addAccess a
    s.postRequest x.cur.core {
      id := r.1, team := x.t.id, group := x.cur.group, passes := [], op := some op, ctr := none, pc := x.cur.pc,
      prio := x.t.desc.prio, age := 0, frags := [], acc := some q.1 }

/-! ### Generators (07 R218, R219) -/

/-- A generator after `n` steps. -/
def srSteps : Nat → Word → Word
  | 0, w => w
  | n + 1, w => srSteps n (srStep w)

/-- The generators of lanes as an issue finds them. -/
def Ix.srSeeds (x : Ix) (lanes : List Nat) : SMap Word := lanes.map fun l => (l, (x.g.lane l).seed)

/-- The lanes' generators after a tile operation that rounds stochastically: `n` steps each, whatever the engine then reads, so
that a lane's later results depend on its instructions alone (07 R219; 11 R320 and R324 name no moment: log 84). -/
def Ix.srStepped (x : Ix) (f : FmtR) (lanes : List Nat) (n : Nat) : Ix :=
  if modBit f.mod 10 then
    { x with g := lanes.foldl (fun (g : Group) l => g.setSeed l (srSteps n (g.lane l).seed)) x.g }
  else x

/-! ### Runs of the own scratchpad -/

/-- A range failure of runs `(address, length)` of the own allocation: the first run that leaves it. -/
def Team.runOut (t : Team) (l : List (Nat × Nat)) : Option Nat := (l.find? fun r => decide (t.spadSize < r.1 + r.2)).map (·.1)

/-- A rights failure, and then a window failure, of runs of the own allocation: cause and offset (03 R97). -/
def Team.runCause (t : Team) (store : Bool) (l : List (Nat × Nat)) : Option (Nat × Nat) :=
  match l.find? fun r => !t.rightsOk r.1 r.2 with
  | some r => some (Cause.spadRights, r.1)
  | none =>
    let open_ := fun (r : Nat × Nat) =>
      (List.range ((r.1 + r.2 - 1) / 128 - r.1 / 128 + 1)).all fun k => windowOk (t.window (r.1 + 128 * k)) false store t.gangRank
    (l.find? fun r => decide (0 < r.2) && !open_ r).map fun r => (Cause.window, r.1)

/-! ### MZERO, MLDA, MRDA, MWRA -/

/-- MZERO. -/
def execMzero (f : FmtR) (s : State) : Out :=
  issue s f.sched fun i => i.onTile f f.dst [] [] fun _ => i.postOp f (.mzero (i.t.desc.tileOf f.dst)) false []

/-- MLDA: range of the rows, alignment, then rights and windows, at issue (11 R321). -/
def execMlda (f : FmtR) (s : State) : Out :=
  issue s f.sched fun i =>
    i.onTile f f.dst (i.own (i.t.desc.regsOf f.sa ++ i.t.desc.regsOf f.sb)) [] fun _ =>
      let ofs := i.rd i.low f.sa
      let p := i.rd i.low f.sb
      let n := 64 * elBytes f.ty
      let runs := (List.range 64).map fun k => (ofs + k * p, n)
      let tr := fun (c a : Nat) => i.trap { cause := c, lanes := i.active, addr := a }
      match i.t.runOut runs with
      | some a => tr Cause.access a
      | none =>
        if ofs % 16 ≠ 0 then tr Cause.misaligned ofs
        else if p % 16 ≠ 0 || p < n then tr Cause.misaligned p
        else
          match i.t.runCause false runs with
          | some c => tr c.1 c.2
          | none => i.postOp f (.mlda (i.t.desc.tileOf f.dst) f.ty ofs p) false []

/-- MRDA: under SR its lanes' generators step at issue, two rows of a chunk each. -/
def execMrda (f : FmtR) (s : State) : Out :=
  issue s f.sched fun i =>
    i.onTile f f.sa [] (i.t.desc.regsOf f.dst) fun _ =>
      let lanes := lanesOf i.active
      if i.tableFull then i.hold
      else
        (i.srStepped f lanes (2 * (64 / elBytes f.ty))).postAcc f
          (.mrda (i.t.desc.tileOf f.sa) ((i.t.desc.regsOf f.dst).headD 0) f i.active (i.srSeeds lanes)) (.store .zero) true false false .device
          (i.accWrites (i.t.desc.regsOf f.dst) .zero) []

/-- MWRA. -/
def execMwra (f : FmtR) (s : State) : Out :=
  issue s f.sched fun i =>
    i.onTile f f.dst (i.own (i.t.desc.regsOf f.sa)) [] fun _ =>
      i.postOp f (.mwra (i.t.desc.tileOf f.dst) ((i.t.desc.regsOf f.sa).headD 0) f i.active) false (i.t.desc.regsOf f.sa)

/-! ### MXOUT (11 R322) -/

/-- The registers of MXOUT's B fragment and scales. -/
def mxoutRegs (d : Desc) (f : FmtR) : List Nat :=
  d.regsOf f.sa ++ (if f.ty == .q8 || f.ty == .q4 then d.regsFrom f.sc 2 else [])

/-- MXOUT. -/
def execMxout (f : FmtR) (s : State) : Out :=
  issue s f.sched fun i =>
    let pars := i.t.desc.regsFrom f.sb 4
    let frag := mxoutRegs i.t.desc f
    i.onTile f f.dst ((frag.map fun n => (n, 0xFFFFFFFF)) ++ i.own pars) [] fun _ =>
      let par := fun (k : Nat) => i.reg i.low (pars.getD k 0)
      let list := par 0
      let tr := fun (c a : Nat) => i.trap { cause := c, lanes := i.active, addr := a }
      match i.t.listCause list with
      | some c => tr c list
      | none =>
        if 64 < par 2 then tr Cause.access (par 2)
        else if par 2 = 0 then i.finish f.sched none []
        else
          let runs := (List.range (par 2)).map fun j => (list + 8 + 8 * (par 1 + j), 8)
          match i.t.runOut runs with
          | some a => tr Cause.access a
          | none =>
            match i.t.runCause false runs with
            | some c => tr c.1 c.2
            | none =>
              i.postOp f (.mxout (i.t.desc.tileOf f.dst) ((i.t.desc.regsOf f.sa).headD 0) f list (par 1) (par 2)
                (par 3 % 65536) (par 3 / 65536)) true frag

/-! ### MDRAIN (11 R323, R325) -/

/-- Element bytes, copy bytes of a block, and whether the copy is 8 bits wide. -/
def drainQ8 (f : FmtR) : Bool := modBit f.mod 1
/-- Code bytes of a block of the copy. -/
def drainW (f : FmtR) : Nat := if drainQ8 f then 32 else 16

/-- The runs that an MDRAIN writes: plain rows, copy rows, scale bytes (11 R324). -/
def drainRuns (f : FmtR) (tq : Bool) (base : Nat) (par : Nat → Nat) : List (Nat × Nat) :=
  ((List.range 64).map fun k => (base + k * par 0, 64 * elBytes f.ty)) ++
    (if tq then ((List.range 64).map fun r => (base + par 1 + r * par 2, 2 * drainW f)) ++ [(base + par 3, 128)] else [])

/-- The first value that breaks its alignment or minimum (11 R325). -/
def drainOdd (f : FmtR) (tq : Bool) (base : Nat) (par : Nat → Nat) : Option Nat :=
  if base % 16 ≠ 0 then some base
  else if par 0 % 16 ≠ 0 || par 0 < 64 * elBytes f.ty then some (par 0)
  else if tq && (par 2 % 16 != 0 || decide (par 2 < 2 * drainW f)) then some (par 2)
  else if tq && par 3 % 2 != 0 then some (par 3)
  else none

/-- The pages that runs touch, each with the first address in it. -/
def runPages (l : List (Nat × Nat)) : List (Nat × Nat) :=
  ((l.flatMap fun r => (List.range ((r.1 + r.2 - 1) / 4096 - r.1 / 4096 + 1)).map fun k => (r.1 / 4096 + k) * 4096).eraseDups).map
    fun a => (0, a)

/-- The checks of MDRAIN that follow alignment: rights, or the pages of a global destination. -/
inductive DrainCheck where
  | stop (s : State)
  /-- Any page on class SC, any page not resident, and the translations of the others. -/
  | ok (x : Ix) (sc void : Bool) (pages : List (Nat × Tlb))
  deriving DecidableEq, Repr

/-- Rights and windows of an own-scratchpad destination, or translation of each page of a global one. -/
def Ix.drainReach (x : Ix) (gl : Bool) (runs : List (Nat × Nat)) : DrainCheck :=
  if gl then
    let r := x.s.xlateLanes x.cur.core x.t.id.lci false .write (runPages runs)
    let y := x.withState r.2
    match r.1.find? fun z => z.failed.isSome with
    | some z => .stop (y.trapActive (z.failed.getD Cause.access) z.ea)
    | none => .ok y (anySc r.1) (r.1.any fun z => match z.out with | .nonres _ _ _ => true | _ => false)
      (r.1.filterMap fun z => z.out.entry?.map fun t => (z.ea, t))
  else
    match x.t.runCause true runs with
    | some c => .stop (x.trapActive c.1 c.2)
    | none => .ok x false false []

/-- MDRAIN with or without the transposed copy. -/
def mdrainIssue (tq : Bool) (f : FmtR) (s : State) : Out :=
  issue s f.sched fun i =>
    let gl := modBit f.mod 0
    let pars := i.t.desc.regsFrom f.sb (if tq then 8 else 1)
    i.onTile f f.sc (i.own (i.t.desc.regsOf f.sa ++ pars)) [] fun _ =>
      let par := fun (k : Nat) => i.reg i.low (pars.getD k 0)
      let base := i.rd i.low f.sa
      let runs := drainRuns f tq base par
      let tr := fun (c a : Nat) => i.trap { cause := c, lanes := i.active, addr := a }
      let outside := if gl then (runs.find? fun r => decide (2 ^ 57 < r.1 + r.2)).map (·.1) else i.t.runOut runs
      match outside with
      | some a => tr Cause.access a
      | none =>
        match drainOdd f tq base par with
        | some a => tr Cause.misaligned a
        | none =>
          match (if tq && modBit f.mod 6 then i.t.listCause (par 4) else none) with
          | some c => tr c (par 4)
          | none =>
            match i.drainReach gl runs with
            | .stop s => s
            | .ok y sc void pages =>
              match (if sc then y.awaitSc .device else none) with
              | some s => s
              | none =>
                if y.tableFull then y.hold
                else (y.srStepped f [i.low] 4096).postAcc f
                  (.mdrain (y.t.desc.tileOf f.sc) tq f base (pars.map fun n => BitVec.ofNat 32 (i.reg i.low n))
                    (y.g.lane i.low).seed pages)
                  (.drain f.dst) false true sc (if gl then .device else .team) (y.accWrites [] f.dst)
                  (if void then [{ lane := i.low, data := [], valid := false, cause := none, member := none }] else [])

/-- MDRAIN. -/
def execMdrain (f : FmtR) (s : State) : Out := mdrainIssue false f s
/-- MDRAIN.tq. -/
def execMdrainTq (f : FmtR) (s : State) : Out := mdrainIssue true f s

/-! ### The arbiter (11 R308 to R310) -/

/-- The tile that an operation names. -/
def TileOp.tile : TileOp → Nat
  | .mzero n => n
  | .mlda n _ _ _ => n
  | .mrda n _ _ _ _ => n
  | .mwra n _ _ _ => n
  | .mxout n _ _ _ _ _ _ _ => n
  | .mdrain n _ _ _ _ _ _ => n

/-- The tiles that a request names. -/
def MxReq.tiles (r : MxReq) (d : Desc) : List Nat :=
  (r.passes.map fun c => d.tileOf c.f.dst) ++ (match r.op with | some o => [o.tile] | none => [])

/-- Requests that no earlier request of their team keeps back. -/
def eligReqs (s : State) : List MxReq → List MxReq → List MxReq
  | _, [] => []
  | before, r :: rest =>
    let tiles := fun (q : MxReq) => match s.team? q.team with | some t => q.tiles t.desc | none => []
    let blocked := before.any fun q => q.team == r.team && (tiles q).any fun n => (tiles r).contains n
    (if blocked then [] else [r]) ++ eligReqs s (before ++ [r]) rest

/-- The request that the arbiter grants (11 R309). -/
def State.pickReq (s : State) (c : Cluster) : Option MxReq :=
  let l := eligReqs s [] c.table
  match l.find? fun r => decide (2048 ≤ c.grants - r.age) with
  | some r => some r
  | none =>
    match l with
    | [] => none
    | r :: rest => some (rest.foldl (fun b q => if b.prio < q.prio then q else b) r)

/-- Reads a pass's operands: the snapshot, and its SET counters drop. -/
def Team.readPass (t : Team) (free : Nat) (c : Contrib) : Team × (SMap Word × SMap Bool) :=
  let g := t.group c.group
  let snap := g.snapshot free c.guard (List.range 32) (c.regs t.desc)
  let g := c.sets.foldl (fun g k => g.due (some k)) { g with guards := g.guards.filter fun fg => fg.req != c.guard }
  (t.setGroup c.group g, snap)

/-- Reads the registers of a tile operation. -/
def Team.readOp (t : Team) (free : Nat) (r : MxReq) (op : TileOp) : Team × (SMap Word × SMap Bool) :=
  let g := t.group r.group
  let done := t.setGroup r.group { g with guards := g.guards.filter fun fg => fg.req != r.id }
  match op with
  | .mwra _ _ f act => (done, g.snapshot free r.id (lanesOf act) (t.desc.regsOf f.sa))
  | .mxout _ _ f _ _ _ _ _ => (done, g.snapshot free r.id (List.range 32) (mxoutRegs t.desc f))
  | .mzero _ | .mlda _ _ _ _ | .mrda _ _ _ _ _ | .mdrain _ _ _ _ _ _ _ => (t, ([], []))

/-- MATRIX_GRANT. -/
def execMatrixGrant (cluster : Nat) (s : State) : Out :=
  .next (
    let c := s.cluster cluster
    if c.granted.isSome then s
    else
      match s.pickReq c with
      | none => s
      | some r =>
        match s.team? r.team with
        | none => s.modCluster cluster fun c => { c with table := c.table.filter fun q => q.id != r.id }
        | some t =>
          let p := r.passes.foldl (fun (a : Team × List (SMap Word × SMap Bool)) d =>
            let x := a.1.readPass s.free d
            (x.1, a.2 ++ [x.2])) (t, [])
          let p := match r.op with
            | some o => let x := p.1.readOp s.free r o; (x.1, p.2 ++ [x.2])
            | none => p
          (s.setTeam p.1).modCluster cluster fun c => { c with
            granted := some { r with frags := p.2 }
            table := c.table.filter fun q => q.id != r.id
            grants := c.grants + r.passes.length + (if r.op.isSome then 1 else 0) })

/-! ### Application -/

/-- A pass applied to its tile (11 R317, R314, 07 R230). -/
def Team.applyPass (t : Team) (c : Contrib) (fr : SMap Word × SMap Bool) : Team :=
  let d := t.desc
  let ty := c.f.ty
  let sc := c.scales d
  let as := d.regsOf c.f.sa
  let bs := d.regsOf c.f.sb
  let arows := fragRows ty c.quant fr.1 as (sc.take 2) (modField c.f.mod 4 2)
  let brows := fragRows ty c.quant fr.1 bs (sc.drop 2) (modField c.f.mod 6 2)
  let n := d.tileOf c.f.dst
  let badA := (List.range 64).map fun i => laneBad fr.2 (as ++ sc.take 2) (i / 2)
  let badB := (List.range 64).map fun j => laneBad fr.2 (bs ++ sc.drop 2) (j / 2)
  let vals := ((rowsOf 64 (t.tile n)).zip arows).flatMap fun p => (p.1.zip brows).map fun q => passEl (ty == .i8) q.1 p.2 q.2
  let bad := ((rowsOf 64 (t.tileBad n)).zip badA).flatMap fun p => (p.1.zip badB).map fun q => q.1 || p.2 || q.2
  t.putTile n vals bad

/-- The used entries of an outlier list: row, column, value (11 R322). -/
def Team.outEntries (t : Team) (list e0 n k0 i0 kp : Nat) : List (Nat × Nat × Fv) :=
  let count := listCount t.spad list
  ((List.range n).filter fun j => decide (e0 + j < count)).filterMap fun j =>
    let a := list + 8 + 8 * (e0 + j)
    let ix := leNat (smRead 0 t.spad a 4)
    let i := ix / 65536
    let k := ix % 65536
    if i0 ≤ i && i < i0 + 64 && k0 ≤ k && k < k0 + kp then
      some (i - i0, k - k0, fdecode .f32 (leNat (smRead 0 t.spad (a + 4) 4)))
    else none

/-- MXOUT applied. -/
def Team.applyOut (t : Team) (n : Nat) (f : FmtR) (list e0 cnt k0 i0 : Nat) (fr : SMap Word × SMap Bool) : Team :=
  let d := t.desc
  let quant := f.ty == .q8 || f.ty == .q4
  let sc := if quant then d.regsFrom f.sc 2 else []
  let bs := d.regsOf f.sa
  let brows := fragRows f.ty quant fr.1 bs sc (modField f.mod 0 2)
  let kp := (brows.headD []).length
  let ents := t.outEntries list e0 cnt k0 i0 kp
  let badB := (List.range 64).map fun j => laneBad fr.2 (bs ++ sc) (j / 2)
  let row := fun (i : Nat) (vals : List Word) =>
    let es := ents.filter fun e => e.1 == i
    if es.isEmpty then vals
    else (vals.zip brows).map fun q => passEl false q.1 (es.map fun e => e.2.2) (es.map fun e => q.2.getD e.2.1 (.fin false 0 0))
  let vals := (rowsOf 64 (t.tile n)).zipIdx.flatMap fun p => row p.2 p.1
  let bad := (rowsOf 64 (t.tileBad n)).zipIdx.flatMap fun p =>
    if ents.any fun e => e.1 == p.2 then (p.1.zip badB).map fun q => q.1 || q.2 else p.1
  t.putTile n vals bad

/-- MLDA applied: the rows of the scratchpad, read exactly. -/
def Team.applyLoad (t : Team) (n : Nat) (ty : Ty) (ofs pitch : Nat) : Team :=
  let s := elBytes ty
  let vals := (List.range 64).flatMap fun i => (List.range 64).map fun j =>
    accRound (fdecode ty (leNat (smRead 0 t.spad (ofs + i * pitch + j * s) s)))
  t.putTile n vals (List.replicate 4096 false)

/-- Columns of a chunk (11 R320). -/
def chunkOf (f : FmtR) : Nat × Nat := (modField f.mod 0 2 * (64 / elBytes f.ty), 64 / elBytes f.ty)

/-- MWRA applied to the rows of the active lanes. -/
def Team.applyWrite (t : Team) (n : Nat) (f : FmtR) (act : Mask) (fr : SMap Word × SMap Bool) : Team :=
  let ck := chunkOf f
  let regs := t.desc.regsOf f.sa
  let new := fun (i : Nat) => (rowCodes f.ty (snapRow fr.1 regs i)).map fun c => accRound (fdecode f.ty c)
  let inChunk := fun (l : Nat) => decide (ck.1 ≤ l) && decide (l < ck.1 + ck.2)
  let vals := (rowsOf 64 (t.tile n)).zipIdx.flatMap fun p =>
    if act.getLsbD (p.2 / 2) then p.1.take ck.1 ++ new p.2 ++ p.1.drop (ck.1 + ck.2) else p.1
  let bad := (rowsOf 64 (t.tileBad n)).zipIdx.flatMap fun p =>
    if act.getLsbD (p.2 / 2) then p.1.zipIdx.map fun q => q.1 && !inChunk q.2 else p.1
  t.putTile n vals bad

/-- Rounds a list of accumulator values in order, threading a generator (07 R216, R218). -/
def roundAll (ty : Ty) (f : FmtR) (ftz : Bool) : List Nat → Word → List Nat × Word
  | [], seed => ([], seed)
  | v :: r, seed =>
    let sr := modBit f.mod 10
    let seed := if sr then srStep seed else seed
    let x := fwriteFtz ty ftz (roundTo ty (fread .f32 ftz v) (if sr then .sr seed else .rm f.rm) f.sat)
    let q := roundAll ty f ftz r seed
    (x :: q.1, q.2)

/-- The registers of a fragment row from its element codes. -/
def packRow (s : Nat) (codes : List Nat) : List Nat :=
  let bytes := codes.flatMap fun c => natLe s c
  (List.range 16).map fun m => leNat ((bytes.drop (4 * m)).take 4)

/-- MRDA applied: its register writes, or the poisoned lanes with the first poisoned element. The lanes' generators have stepped
at issue, also where a poisoned element then keeps the registers unwritten (07 R218 is silent on that: log 84). -/
def State.applyRead (s : State) (t : Team) (grp n : Nat) (f : FmtR) (act : Mask) (seeds : SMap Word) (acc : Nat) : State :=
  let ck := chunkOf f
  let rows := rowsOf 64 (t.tile n)
  let bads := rowsOf 64 (t.tileBad n)
  let slice := fun {α : Type} (l : List (List α)) (i : Nat) => ((l.getD i []).drop ck.1).take ck.2
  let badOf := fun (l : Nat) => (slice bads (2 * l) ++ slice bads (2 * l + 1)).any id
  let poisoned := act &&& maskWhere badOf
  if poisoned ≠ 0 then
    let ans := (lanesOf poisoned).map fun l =>
      let h := if (slice bads (2 * l)).any id then 0 else 1
      let c := (slice bads (2 * l + h)).findIdx id
      ({ lane := l, data := [], valid := false, cause := some (Cause.poison, 4 * (4096 * n + 64 * (2 * l + h) + ck.1 + c)),
         member := none } : LaneAns)
    s.modAccess acc fun a => { a with answers := a.answers ++ ans }
  else
    let regs := t.desc.regsOf f.dst
    let ws := (lanesOf act).flatMap fun l =>
      let vals := (slice rows (2 * l) ++ slice rows (2 * l + 1)).map BitVec.toNat
      let q := roundAll f.ty f (modBit f.mod 9) vals (smGet 0 seeds l)
      (regs.zip (packRow (elBytes f.ty) (q.1.take ck.2) ++ packRow (elBytes f.ty) (q.1.drop ck.2))).map fun p =>
        ({ lane := l, key := p.1, val := BitVec.ofNat 32 p.2 } : Wr)
    s.setTeam (t.setGroup grp ((t.group grp).land ws acc))

/-- A run of elements as writes: one run, or single elements where some are poisoned. -/
def markedRun (a s : Nat) (codes : List Nat) (bad : List Bool) : List (Nat × List Byte × Bool) :=
  if bad.any id then (codes.zip bad).zipIdx.map fun p => (a + p.2 * s, natLe s p.1.1, p.1.2)
  else [(a, codes.flatMap fun c => natLe s c, false)]

/-- The transposed copy: the scratchpad and flags after its appends, and the writes (11 R324). -/
structure TqDone where
  spad : SMap Byte
  full : Bool
  invalid : Bool
  writes : List (Nat × List Byte × Bool)
  deriving DecidableEq, Repr

/-- One block of the transposed copy: elements 32 b + m of column r. -/
def tqBlock (f : FmtR) (size base : Nat) (par : Nat → Nat) (col : List Nat) (bad : List Bool) (r b : Nat) (d : TqDone) : TqDone :=
  let q8 := drainQ8 f
  let xs := (col.drop (32 * b)).take 32
  let q := encodeBlock q8 (if modBit f.mod 4 then none else some (modField f.mod 2 2)) none
    (if modBit f.mod 5 then some (fdecode .f32 (par 5)) else none) (xs.map (fdecode .f32))
  let index := fun (m : Nat) =>
    (par 6 / 65536 + r) % 65536 * 65536 + (par 6 % 65536 + 32 * b + m) % 65536
  let e := finishBlock q8 q d.spad size (if modBit f.mod 6 then some (par 4) else none) index xs
  let pois := ((bad.drop (32 * b)).take 32).any id
  { spad := e.spad, full := d.full || e.full, invalid := d.invalid || q.invalid,
    writes := d.writes ++
      [(base + par 1 + r * par 2 + b * drainW f, (packCodes q8 e.codes).map (BitVec.ofNat 8), pois),
       (base + par 3 + 2 * r + b, [BitVec.ofNat 8 q.scale], pois)] }

/-- Writes cut at lines: address, bytes and poison of each. -/
def lineWrites (l : List (Nat × List Byte × Bool)) : List (Nat × List Byte × Bool) :=
  l.flatMap fun w => (partsOf w.1 w.2.1.length).map fun p => (p.1, (w.2.1.drop (p.1 - w.1)).take p.2, w.2.2)

/-- Queues the writes of a global drain, one transaction for each line, through the translations of its issue; those of a page
that was not resident are suppressed (11 R325). -/
def State.drainOut (s : State) (t : Team) (core grp acc part : Nat) (pages : List (Nat × Tlb))
    (writes : List (Nat × List Byte × Bool)) : State :=
  let at_ := fun (p : Nat × List Byte × Bool) =>
    match pages.find? fun z => z.1 == p.1 / 4096 * 4096 with
    | none => none
    | some z =>
      ((LaneX.mk 0 p.1 (z.2.out p.1)).place p.2.1.length p.2.1).map fun q => (q.1, q.2.1, q.2.2.1, { q.2.2.2 with bad := p.2.2 })
  let groups := ((lineWrites writes).filterMap at_).foldl addLine []
  let a : AccInfo := {
    id := acc, team := t.id, group := grp, core := core, scope := .device, ord := .weak, sync := false, lease := 0,
    install := false, agent := t.agent core }
  let s := groups.foldl (fun s g =>
    match g.home with
    | .here _ _ => (s.l1Store core g).queueTxn a g .store
    | .remote _ => s.queueTxn a g .store) s
  s.modCluster (clusterOf core) fun c => { c with drains := c.drains ++
    [{ id := part, acc := acc, team := t.id, group := grp, isGlobal := true, writes := [] }] }

/-- MDRAIN applied: the tile is read once, outliers are appended, and the writes begin (11 R324). -/
def State.applyDrain (s : State) (t : Team) (core grp n : Nat) (tq : Bool) (f : FmtR) (base : Nat) (params : List Word)
    (seed : Word) (pages : List (Nat × Tlb)) (acc part : Nat) : State :=
  let par := fun (k : Nat) => (params.getD k 0).toNat
  let es := elBytes f.ty
  let tile := (t.tile n).map BitVec.toNat
  let bad := t.tileBad n
  let q := roundAll f.ty f false tile seed
  let plain := ((rowsOf 64 q.1).zip (rowsOf 64 bad)).zipIdx.flatMap fun p => markedRun (base + p.2 * par 0) es p.1.1 p.1.2
  let rows := rowsOf 64 tile
  let brows := rowsOf 64 bad
  let start : TqDone := { spad := t.spad, full := false, invalid := false, writes := [] }
  let copy := if tq then
      (List.range 64).foldl (fun d r =>
        let col := rows.map fun w => w.getD r 0
        let bc := brows.map fun w => w.getD r false
        tqBlock f t.spadSize base par col bc r 1 (tqBlock f t.spadSize base par col bc r 0 d)) start
    else start
  let t := { t with spad := copy.spad }.raiseFlags copy.full copy.invalid
  let s := s.setTeam t
  let s := if bad.any id then s.postEvent t.id.lci 0x0021 base n else s
  if modBit f.mod 0 then s.drainOut t core grp acc part pages (plain ++ copy.writes)
  else s.modCluster (clusterOf core) fun c => { c with drains := c.drains ++
    [{ id := part, acc := acc, team := t.id, group := grp, isGlobal := false, writes := plain ++ copy.writes }] }

/-- The end of an access that has only part `part` open. -/
def State.endPart (s : State) (acc part : Nat) : State :=
  let s := s.modAccess acc fun a => { a with open_ := a.open_.filter fun k => k != part }
  match s.traffic.accesses.find? fun a => a.id == acc with
  | some a => if a.open_.isEmpty then s.finishAccess a else s
  | none => s

/-- A tile operation applied for a team. -/
def State.applyOp (s : State) (t : Team) (core : Nat) (r : MxReq) (op : TileOp) : State :=
  let fr := r.frags.headD ([], [])
  let done := fun (t : Team) => s.setTeam (t.modGroup r.group fun g => g.due r.ctr)
  match op with
  | .mzero n => done (t.putTile n (List.replicate 4096 0) (List.replicate 4096 false))
  | .mlda n ty ofs p => done (t.applyLoad n ty ofs p)
  | .mwra n _ f act => done (t.applyWrite n f act fr)
  | .mxout n _ f list e0 cnt k0 i0 => done (t.applyOut n f list e0 cnt k0 i0 fr)
  | .mrda n _ f act seeds =>
    let acc := r.acc.getD 0
    (s.applyRead t r.group n f act seeds acc).endPart acc r.id
  | .mdrain n tq f base params seed pages => s.applyDrain t core r.group n tq f base params seed pages (r.acc.getD 0) r.id

/-- MATRIX_REQUEST_APPLIED: the granted request's passes in order, or its operation. -/
def execMatrixRequestApplied (cluster : Nat) (s : State) : Out :=
  .next (
    match (s.cluster cluster).granted with
    | none => s
    | some r =>
      let s := s.modCluster cluster fun c => { c with granted := none }.refill
      match s.team? r.team with
      | none => s
      | some t =>
        let t := (r.passes.zip r.frags).foldl (fun t p => t.applyPass p.1 p.2) t
        let t := r.passes.foldl (fun (t : Team) c =>
          t.modGroup c.group fun g => c.dones.foldl (fun g k => g.due (some k)) g) t
        let s := (s.setTeam t).count (cluster / 32) r.team.lci 4 r.passes.length
        match r.op with
        | none => s
        | some o => s.applyOp t (t.spadCore?.getD (4 * cluster)) r o)

/-- The local writes of a drain, window by window: those whose rights and windows still allow them, poisoned output with
its poison; the first cause otherwise (11 R324, R325). -/
def Team.drainIn (t : Team) (l : List (Nat × List Byte × Bool)) : Team × Option (Nat × Nat) :=
  (lineWrites l).foldl (fun (a : Team × Option (Nat × Nat)) w =>
    match a.1.runCause true [(w.1, w.2.1.length)] with
    | none => (if w.2.2 then a.1.spadSpoil w.1 w.2.1 else a.1.spadWrite w.1 w.2.1, a.2)
    | some c => (a.1, match a.2 with | none => some c | some d => some d)) (t, none)

/-- MDRAIN_WRITES_DONE: local writes are performed; an access with nothing else open ends. -/
def execMdrainWritesDone (drain : Nat) (s : State) : Out :=
  .next (
    match s.clusters.findSome? fun c => (c.2.drains.find? fun d => d.id == drain).map fun d => (c.1, d) with
    | none => s
    | some p =>
      let d := p.2
      let open_ := match s.traffic.accesses.find? fun a => a.id == d.acc with | some a => a.open_ | none => []
      if d.isGlobal && open_ != [d.id] then s
      else
        let s := s.modCluster p.1 fun c => { c with drains := c.drains.filter fun e => e.id != d.id }
        match s.team? d.team with
        | none => s
        | some t =>
          let r := t.drainIn d.writes
          let lane : LaneAns := { lane := 0, data := [], valid := false, cause := r.2, member := none }
          let s := s.setTeam r.1
          let s := s.modAccess d.acc fun a => { a with
            answers := if r.2.isSome then a.answers ++ [lane] else a.answers }
          s.endPart d.acc d.id)

end Sys2Proof.Machine
end

