-- ==== Sys2Proof/Machine/Multicast.lean ====
section
/-! DEFINITION. STM and LDX: one store or load per member of a multicast set, with the addresses of stage 1 (12 R356,
R357, 16 R423, 04 R154). -/

namespace Sys2Proof.Machine

/-- A multicast set of a chip, Table 16.5: its members in order, the first COUNT of them. -/
def Chip.multicast (c : Chip) (n : Nat) : List Nat :=
  let e := (smGet 0 c.mcast n).toNat
  (List.range (min 16 (bits e 0 5))).map fun i => bits e (10 * i + 5) 10

/-- Stage 1 of an address by the walkers of a die (02 R53, R55): its pod address and class, held as a remote outcome. -/
def State.stageOne (s : State) (die lci va : Nat) (k : AccKind) : Xl :=
  match s.chip? lci with
  | none => .fail Cause.invalidPage none
  | some c =>
    let at_ := fun (pod : Nat) (cls : Option Cls) (r w x : Bool) =>
      Xl.remote (mkTlb lci false va 4096 (.remote (pod / 4096 * 4096)) (cls.getD .rc) cls.isNone r w x 0) pod
    if !c.s1En then .fail Cause.invalidPage none
    else if c.flat then
      if 2 ^ 48 ≤ va then .fail Cause.access none else at_ va none true true true
    else
      match s.s1Go (s.die die).walk lci c va 3 c.s1Root with
      | .nonres kind a l => .nonres kind a l
      | .fail cause t => .fail cause t
      | .ok out cls _ r w x _ => if allowed r w x k then at_ out (some cls) r w x else .fail Cause.access none

/-- The home of a lane at one member: the member's slot with the lane's chip-slot offset (12 R356, 16 R421). A failure
there is FABRIC_ERROR. -/
def State.memberOut (s : State) (die lci member : Nat) (t : Tlb) (p : Nat) (k : AccKind) : Xl :=
  match s.chip? lci with
  | none => .fail Cause.fabric none
  | some c =>
    match s.chipHome c.ident.gid member with
    | .unassigned => .fail Cause.fabric none
    | .peer _ _ => .remote t (member * 2 ^ (48 - c.ident.chw) + podOfs c.ident.chw p)
    | .here h =>
      match s.xlateHere (s.die die).walk lci false t.input 4096 h (podOfs c.ident.chw p)
        (if t.s2cls then none else some t.cls) true true true k with
      | .fail _ tb => .fail Cause.fabric tb
      | .here u a => .here u a
      | .remote u a => .remote u a
      | .nonres kind a l => .nonres kind a l

/-- A lane at one member. -/
def Ix.atMember (x : Ix) (k : AccKind) (member : Nat) (l : LaneX) : LaneX :=
  match l.out with
  | .remote t p => { l with out := x.s.memberOut (dieOf x.cur.core) x.t.id.lci member t p k }
  | .here t a => { l with out := .here t a }
  | .nonres kind a n => { l with out := .nonres kind a n }
  | .fail c t => { l with out := .fail c t }

/-- Answers of the lanes that a member cannot perform: non-resident, or FABRIC_ERROR with the pod address (02 R58). -/
def Ix.memberAns (x : Ix) (i member bytes : Nat) (one here : List LaneX) : List LaneAns :=
  let chw := match x.s.chip? x.t.id.lci with | some c => c.ident.chw | none => 0
  (one.zip here).filterMap fun p =>
    let pod := match p.1.out with | .remote _ a => member * 2 ^ (48 - chw) + podOfs chw a | _ => 0
    let ans := fun (cause : Option (Nat × Nat)) => some
      ({ lane := p.1.lane, data := List.replicate bytes 0, valid := false, cause := cause, member := some i } : LaneAns)
    match p.2.out with
    | .nonres _ _ _ => ans none
    | .fail c _ => ans (some (c, pod))
    | .here _ _ => none
    | .remote _ _ => none

/-- The lines of one member: each is one transaction that no write combines (12 R356, R357). -/
def State.memberLines (s : State) (a : AccInfo) (i : Nat) (kind : TxnKind) (l : List LineGrp) : State :=
  l.foldl (fun (s : State) g =>
    let s := if kind == .store then s.l1Store a.core g else s
    (s.drainLine a.core g.home).queueTxn a g kind (some i)) s

/-- The instruction after a fresh walk of its lanes' addresses, whose outcomes stand in the core's TLBs: no later access
of the group uses an older entry than the one used here (02 R63). -/
def Ix.freshWalks (x : Ix) (f : FmtM) (k : AccKind) : Ix :=
  x.withState ((lanesOf x.active).foldl (fun s l => (s.walkCore x.cur.core x.t.id.lci false (x.ea f l).toNat k).2) x.s)

/-- What STM and LDX share: the set, the checks and stage 1, the waits of ORD, and the accesses at every member. -/
def Ix.multi (x : Ix) (f : FmtM) (bytes : Nat) (set : Opd) (kind : TxnKind) (k : AccKind) (data : Nat → List Byte)
    (sp : Nat → AccSpec) : State :=
  let n := x.rd (lowLane x.active) set % 256
  let mem := match x.s.chip? x.t.id.lci with | some c => c.multicast n | none => []
  match x.awaitOrd f.ord f.scope (f.ord != .weak) with
  | some s => s
  | none =>
    if mem.isEmpty then x.trapActive Cause.access n
    else
      match x.rangeTrap f bytes with
      | some tr => x.trap tr
      | none =>
        let x := x.freshWalks f k
        let one := (lanesOf x.active).map fun l =>
          ({ lane := l, ea := (x.ea f l).toNat, out := x.s.stageOne (dieOf x.cur.core) x.t.id.lci (x.ea f l).toNat k } : LaneX)
        let tables := fun (s : State) => one.foldl (fun (s : State) (l : LaneX) =>
          match l.out with
          | .fail _ t => s.noteTable x.t.id.lci t
          | _ => s) s
        let per := mem.zipIdx.map fun p => (p.2, p.1, one.map (x.atMember k p.1))
        let pv := fun (c : Cls) => c == .pv
        match firstTrap [failedTrap one, classTrap one pv, classTrap (per.flatMap fun p => p.2.2) pv,
            x.footTrap (k == .write) bytes fun l => (x.ea f l).toNat] with
        | some tr => (x.withState (tables x.s)).trap tr
        | none =>
          match (if anySc one then x.awaitSc f.scope else none) with
          | some s => s
          | none =>
            let ans := per.flatMap fun p => x.memberAns p.1 p.2.1 bytes one p.2.2
            x.issueAccess f (sp mem.length) (f.ord != .weak || anySc one) (anySc one) ans
              fun s a => per.foldl (fun (s : State) p =>
                s.memberLines { a with lease := 0, install := false } p.1 kind (byLine p.2.2 bytes data)) s

/-- STM. -/
def execStm (sz : StSize) (f : FmtM) (s : State) : Out :=
  issue s f.sched fun i =>
    i.onMem f.sched (i.t.desc.regsOf f.sa ++ i.t.desc.stRegs sz f.sb ++ i.t.desc.regsOf f.dst) (i.t.desc.regsOf f.dst) fun _ =>
      i.multi f sz.bytes f.dst .store .write (fun l => i.laneData l sz.bytes (i.t.desc.stRegs sz f.sb)) fun n =>
        { dst := .stm f.dst n, isLoad := false, isStore := true, ws := i.accWrites (i.t.desc.regsOf f.dst) .zero }

/-- LDX. -/
def execLdx (op : LdxOp) (f : FmtM) (s : State) : Out :=
  issue s f.sched fun i =>
    i.onMem f.sched (i.t.desc.regsOf f.sa ++ i.t.desc.regsOf f.sb) (i.t.desc.regsOf f.dst) fun _ =>
      i.multi f 4 f.sb .load .read (fun _ => []) fun n =>
        { dst := .ldx op f.dst (chPred f.ch) n, isLoad := true, isStore := false,
          ws := i.accWrites (i.t.desc.regsOf f.dst) (chPred f.ch) }

end Sys2Proof.Machine
end

