-- ==== Sys2Proof/Machine/Power.lean ====
section
/-! DEFINITION. Power and boot, device interfaces, and function resets (18 R463, R470, R472, 15 R409 to R411, 02 R72,
04 R492). -/

namespace Sys2Proof.Machine

/-! ### Power (18 R463, R470, R472) -/

/-- POWER_GOOD: a mask ROM that does not match holds the module in reset; otherwise firmware clears the written bits,
retires what failed its tests, and the PF is ready. -/
def execPowerGood (romOk : Bool) (failedClusters failedChannels : List Nat) (s : State) : Out :=
  .next (if s.hub.power ≠ .off then s
    else if !romOk then s.modHub fun h => { h with power := .heldInReset }
    else
      let s := { s.modHub fun h => { h with power := .p0 } with written := [] }
      let s := failedClusters.foldl (fun (s : State) k => s.retireCluster k) s
      failedChannels.foldl (fun (s : State) k => if k < 1024 then s.retireChannel k else s) s)

/-- POWER_LIMIT_WINDOW: power above 10,000 W over 10 ms delays grants and run starts, which changes no result. -/
def execPowerLimitWindow (watts : Nat) (s : State) : Out :=
  .next (s.modHub fun h => { h with throttled := decide (10000 < watts) })

/-- The module without power: nothing is left but host memory, which is not the module's, and its place in the cell. -/
def State.powerLost (s : State) : State :=
  let host := s.mem.filter fun (c : Nat × Byte) => mpaRegion c.1 == 1
  { State.reset with
    hub := { Hub.init with position := s.hub.position }
    mem := host, irqs := s.irqs, outbox := s.outbox, agenda := s.agenda, free := s.free, ids := s.ids }

/-- POWER_OFF. -/
def execPowerOff (s : State) : Out := .next s.powerLost

/-- POWER_COMMAND: in P2 the links are down. -/
def execPowerCommand (target : PowerState) (s : State) : Out :=
  .next (if !s.fwReady then s
    else
      match target with
      | .p0 => s.modHub fun h => { h with power := .p0 }
      | .p1 => s.modHub fun h => { h with power := .p1 }
      | .p2 =>
        let s := ((List.range 16).filter fun p => (s.die p).port.up).foldl (fun (s : State) p => s.linkDown p) s
        s.modHub fun h => { h with power := .p2 }
      | .off => s.powerLost)

/-! ### Device interfaces (15 R409, R411) -/

/-- The interface state of a chip: 0 CONFIG_UNLOCKED, 1 CONFIG_LOCKED, 2 RUN, 3 ERROR. -/
def State.setTdi (s : State) (lci n : Nat) : State := s.modChip lci fun c => { c with ident := { c.ident with tdi := n } }

/-- TDISP_MESSAGE: an interface is locked, started or stopped, or moves to ERROR. A chip that an error suspended comes back
with its guarantees. -/
def execTdispMessage (lci : BitVec 8) (msg : TdispMsg) (s : State) : Out :=
  let n := lci.toNat
  .next (match s.chip? n with
  | none => s
  | some c =>
    match msg with
    | .lock => if c.ident.tdi = 0 then s.setTdi n 1 else s
    | .start => if c.ident.tdi = 1 then s.setTdi n 2 else s
    | .stop =>
      let s := s.setTdi n 0
      if c.res.suspended = some 2 then (s.modRes n fun r => { r with suspended := some 1 }).resumeGuaranteed else s
    | .error => s.tdiError n)

/-- FUNCTION_RESET: the incarnation rises, outstanding page requests go, and SETVER is accepted again (02 R72, 18 R462). -/
def execFunctionReset (fn : Fn) (s : State) : Out :=
  let k := Fn.num fn
  let s := match fn with | .pf => s | .vf l => s.bumpInc l.toNat
  .next (s.modHub fun h => { h with
    seenCmd := h.seenCmd.filter fun n => n != k, versions := h.versions.filter fun v => v.1 / 4 != k })

end Sys2Proof.Machine
end

