-- ==== Sys2Proof/Machine/Sfu.lean ====
section
/-! DEFINITION. The special functions (08 R245): special inputs, the error bounds of Table 8.6, and the choice of a
result inside its bound. The bounds of RCP, RSQ and SQRT are decided exactly; the values of the others, which are irrational
but at the inputs that the fixed point gives exactly, are computed to 2^-330, far closer than any f32 value lies to the edge
of its bound (assumption log 8). -/

namespace Sys2Proof.Machine

/-- Floor of the square root of `n`, trying bits `k - 1` to 0 above `r`. -/
def isqrtGo (n : Nat) : Nat → Nat → Nat
  | 0, r => r
  | k + 1, r => if (r + 2 ^ k) * (r + 2 ^ k) ≤ n then isqrtGo n k (r + 2 ^ k) else isqrtGo n k r

/-- Floor of the square root. -/
def isqrt (n : Nat) : Nat := isqrtGo n (Nat.log2 n / 2 + 1) 0

/-- The unit of the fixed-point values below is 2^-340. -/
def fxOne : Nat := 2 ^ 340

/-- ln 2 in units of 2^-340. -/
def ln2Fx : Nat := 0xb17217f7d1cf79abc9e3b39803f2f6af40f343267298b62d8a0d175b8baafa2be7b876206debac9855955

/-- 2 pi in units of 2^-340. -/
def twoPi : Nat := 0x6487ed5110b4611a62633145c06e0e68948127044533e63a0105df531d89cd9128a5043cc71a026ef7ca8c

/-- The exponential series from its term of degree `d` on, for an argument `t` below 1. -/
def expGo (t : Nat) : Nat → Nat → Nat → Nat → Nat
  | 0, _, _, acc => acc
  | n + 1, d, term, acc => expGo t n (d + 1) (term * t / fxOne / (d + 1)) (acc + term)

/-- 2^y, for y in units of 2^-340, as a mantissa and a power of two. -/
def pow2Val (y : Int) : Nat × Int :=
  (expGo ((y % (fxOne : Int)).toNat * ln2Fx / fxOne) 96 0 fxOne 0, y / (fxOne : Int) - 340)

/-- The series of the inverse hyperbolic tangent from the power `p` of degree `d` on; `q` is the square of its argument. -/
def artanhGo (q : Nat) : Nat → Nat → Nat → Nat → Nat
  | 0, _, _, acc => acc
  | n + 1, d, p, acc => artanhGo q n (d + 2) (p * q / fxOne) (acc + p / d)

/-- log2 of m * 2^e in units of 2^-340: exact at the powers of two. -/
def log2Val (m : Nat) (e : Int) : Int :=
  let b := Nat.log2 m
  let y := (m - 2 ^ b) * fxOne / (m + 2 ^ b)
  ((b : Int) + e) * fxOne + ((2 * artanhGo (y * y / fxOne) 120 1 y 0 * fxOne / ln2Fx : Nat) : Int)

/-- The Taylor sum from the term `t` of degree `d` on. -/
def taylorGo (r : Int) : Nat → Nat → Int → Int → Int
  | 0, _, _, acc => acc
  | k + 1, d, t, acc =>
    taylorGo r k (d + 2) (-(t * r / fxOne * r / fxOne) / (((d + 1) * (d + 2) : Nat) : Int)) (acc + t)

/-- m * 2^e in units of 2^-340. -/
def fxVal (m : Nat) (e : Int) : Nat := if 0 ≤ e + 340 then m * 2 ^ (e + 340).toNat else m / 2 ^ (-(e + 340)).toNat

/-- sin of m * 2^e in units of 2^-340. -/
def sinVal (m : Nat) (e : Int) : Int :=
  let r : Int := ((fxVal m e % twoPi : Nat) : Int)
  taylorGo r 72 1 r 0
/-- cos of m * 2^e in units of 2^-340. -/
def cosVal (m : Nat) (e : Int) : Int := taylorGo ((fxVal m e % twoPi : Nat) : Int) 72 0 fxOne 0

/-- tanh of m * 2^e in units of 2^-340, for a positive argument; of a great one it is below 1 by less than a unit. -/
def tanhVal (m : Nat) (e : Int) : Int :=
  if 7 ≤ (Nat.log2 m : Int) + e then fxOne - 1
  else
    let p := pow2Val ((2 * fxVal m e * fxOne / ln2Fx : Nat) : Int)
    let t := if 0 ≤ p.2 + 340 then p.1 * 2 ^ (p.2 + 340).toNat else p.1
    (((t - fxOne) * fxOne / (t + fxOne) : Nat) : Int)

/-- The distance bound of a result: `k` units in the last place of a binade of exponent `b`, at least 2^-149, as an
exact value. -/
def ulpBound (k : Nat) (b : Int) : Fv := if -126 ≤ b then .fin false k (b - 23) else .fin false 1 (-149)

/-- The value of a pattern as a distance takes it: an infinity counts as 2^128. -/
def boundVal (c : Nat) : Fv :=
  match fdecode .f32 c with
  | .nan => .nan
  | .inf n => .fin n 1 128
  | .fin n m e => .fin n m e

/-- Whether the pattern `c` lies within `tol` of `v`. -/
def inBound (c : Nat) (v tol : Fv) : Bool :=
  let y := boundVal c
  if y == .nan then false
  else
    let e0 := minExpOf [y, v, tol]
    decide ((y.units e0 - v.units e0).natAbs ≤ (tol.units e0).natAbs)

/-- Whether the pattern `c` lies within `tol` of 1 / (m * 2^e), of a sign: exactly, as |c m 2^e - 1| ≤ tol m 2^e. -/
def rcpBound (c : Nat) (neg : Bool) (m : Nat) (e : Int) (tol : Fv) : Bool :=
  let y := boundVal c
  if y == .nan then false
  else
    let e0 := minExpOf [y, tol]
    let k := e0 + e
    let a : Nat := m * 2 ^ k.toNat
    let one : Int := (2 ^ (-k).toNat : Nat)
    decide ((y.units e0 * a - (if neg then -one else one)).natAbs ≤ (tol.units e0).natAbs * a)

/-- Whether the pattern `c` lies within `tol` of the inverse square root of m * 2^e: exactly, as (c - tol)² m 2^e ≤ 1 or
c ≤ tol, and 1 ≤ (c + tol)² m 2^e. -/
def rsqBound (c m : Nat) (e : Int) (tol : Fv) : Bool :=
  let y := boundVal c
  if y == .nan then false
  else
    let e0 := minExpOf [y, tol]
    let k := 2 * e0 + e
    let a : Nat := m * 2 ^ k.toNat
    let one : Nat := 2 ^ (-k).toNat
    let lo := y.units e0 - tol.units e0
    let hi := y.units e0 + tol.units e0
    (decide (lo ≤ 0) || decide (lo.toNat * lo.toNat * a ≤ one)) && decide (0 ≤ hi) && decide (one ≤ hi.toNat * hi.toNat * a)

/-- The exponent of the binade of a nonzero value. -/
def Fv.binade (v : Fv) : Int :=
  match v with
  | .nan => 0
  | .inf _ => 0
  | .fin _ m e => (Nat.log2 m : Int) + e

/-- One exact value or a close approximation, and its error bound. -/
structure SfuGoal where
  value : Fv
  tol : Fv
  deriving DecidableEq, Repr

/-- A signed fixed-point number of units 2^e. -/
def Fv.ofFixed (x : Int) (e : Int) : Fv := .fin (decide (x < 0)) x.natAbs e

/-- What a finite nonzero input asks of the result (Table 8.6). -/
def sfuGoal (fn : Sfu) (neg : Bool) (m : Nat) (e : Int) : SfuGoal :=
  match fn with
  | .rcp =>
    let v : Fv := .fin neg (2 ^ 200 / m) (-e - 200)
    { value := v, tol := ulpBound 1 v.binade }
  | .rsq =>
    let odd := e % 2
    let v : Fv := .fin false (isqrt (2 ^ 240 / (m * 2 ^ odd.toNat))) (-(e - odd) / 2 - 120)
    { value := v, tol := ulpBound 2 v.binade }
  | .sqrt =>
    let odd := e % 2
    let x := m * 2 ^ (odd.toNat + 80)
    let r := isqrt x
    { value := .fin false (2 * r + (if r * r = x then 0 else 1)) ((e - odd - 80) / 2 - 1), tol := .fin false 0 0 }
  | .ex2 =>
    let y : Int := (fxVal m e : Int)
    let p := pow2Val (if neg then -y else y)
    let v : Fv := .fin false p.1 p.2
    { value := v, tol := ulpBound 2 v.binade }
  | .lg2 =>
    let v := Fv.ofFixed (log2Val m e) (-340)
    let inside := decide (-1 ≤ (Nat.log2 m : Int) + e) && decide ((Nat.log2 m : Int) + e ≤ 0) ||
      decide ((Nat.log2 m : Int) + e = 1) && decide (m = 2 ^ Nat.log2 m)
    { value := v, tol := if inside then .fin false 1 (-22) else ulpBound 2 v.binade }
  | .sin => { value := Fv.ofFixed (if neg then -sinVal m e else sinVal m e) (-340), tol := .fin false 1 (-21) }
  | .cos => { value := Fv.ofFixed (cosVal m e) (-340), tol := .fin false 1 (-21) }
  | .tanh => { value := Fv.ofFixed (if neg then -tanhVal m e else tanhVal m e) (-340), tol := .fin false 1 (-22) }

/-- Whether a pattern lies within a function's error bound. -/
def sfuNear (fn : Sfu) (neg : Bool) (m : Nat) (e : Int) (c : Nat) : Bool :=
  let g := sfuGoal fn neg m e
  match fn with
  | .rcp => rcpBound c neg m e g.tol
  | .rsq => rsqBound c m e g.tol
  | .sqrt => inBound c g.value g.tol
  | .ex2 => inBound c g.value g.tol
  | .lg2 => inBound c g.value g.tol
  | .sin => inBound c g.value g.tol
  | .cos => inBound c g.value g.tol
  | .tanh => inBound c g.value g.tol

/-- Special inputs of Table 8.6; `none` where the error bound governs. -/
def sfuSpecial (fn : Sfu) (v : Fv) : Option Nat :=
  match v with
  | .nan => some (canonNan .f32)
  | .inf n =>
    match fn with
    | .rcp => some (signBit .f32 n)
    | .rsq => some (if n then canonNan .f32 else 0)
    | .sqrt => some (if n then canonNan .f32 else 0x7F800000)
    | .ex2 => some (if n then 0 else 0x7F800000)
    | .lg2 => some (if n then canonNan .f32 else 0x7F800000)
    | .sin => some (canonNan .f32)
    | .cos => some (canonNan .f32)
    | .tanh => some (signBit .f32 n + 0x3F800000)
  | .fin n m e =>
    if m = 0 then
      match fn with
      | .rcp => some (signBit .f32 n + 0x7F800000)
      | .rsq => some (signBit .f32 n + 0x7F800000)
      | .sqrt => some (signBit .f32 n)
      | .ex2 => some 0x3F800000
      | .lg2 => some 0xFF800000
      | .sin => some (signBit .f32 n)
      | .cos => some 0x3F800000
      | .tanh => some (signBit .f32 n)
    else
      match fn with
      | .rcp => none
      | .rsq => if n then some (canonNan .f32) else none
      | .sqrt => if n then some (canonNan .f32) else none
      | .ex2 =>
        let big := decide (8 ≤ (Nat.log2 m : Int) + e)
        if big then some (if n then 0 else 0x7F800000)
        else if !n && decide ((7 : Int) ≤ (Nat.log2 m : Int) + e) then some 0x7F800000
        else none
      | .lg2 => if n then some (canonNan .f32) else if Fv.units v (min e 0) = 2 ^ (-(min e 0)).toNat then some 0 else none
      | .sin => none
      | .cos => none
      | .tanh => none

/-- Whether the exact result lies below 2^-149 in magnitude: sin and tanh of the least subnormal do (08 R245). -/
def sfuTiny (fn : Sfu) (m : Nat) (e : Int) (v : Fv) : Bool :=
  decide (v.binade < -149) || ((fn == .sin || fn == .tanh) && decide ((Nat.log2 m : Int) + e = -149) && m == 2 ^ Nat.log2 m)

/-- Conditions on a result beside its distance: an exact value above maxfin is an infinity, one below 2^-149 is a zero, and
an infinity or a zero has the exact result's sign; TANH of a subnormal is a zero or subnormal of its sign (08 R245). -/
def sfuSide (fn : Sfu) (sub tiny : Bool) (v : Fv) (c : Nat) : Bool :=
  let cinf := decide (c % 2 ^ 31 = 0x7F800000)
  let czero := decide (c % 2 ^ 31 = 0)
  let csign := decide (2 ^ 31 ≤ c)
  let tooBig := fcmp v (.fin false (2 ^ 24 - 1) 104) == .gt || fcmp v (.fin true (2 ^ 24 - 1) 104) == .lt
  (!tooBig || cinf) && (!tiny || czero) && (!(czero || cinf) || csign == v.neg) &&
    (match fn with
     | .rsq => !csign
     | .ex2 => !csign
     | .tanh => !sub || (decide (c % 2 ^ 31 < 2 ^ 23) && csign == v.neg)
     | .rcp | .sqrt | .lg2 | .sin | .cos => true)

/-- A special function of the bits of an f32 value, without FTZ on the result (08 R245). SQRT is rounded correctly; the
others are the model's fixed candidate where it meets the bound, and else the rounded approximation. -/
def sfuEval (fn : Sfu) (x : Nat) (v : Fv) : Nat :=
  match sfuSpecial fn v with
  | some r => r
  | none =>
    match v with
    | .nan => canonNan .f32
    | .inf _ => canonNan .f32
    | .fin neg m e =>
      let c := (Config.sfuRaw fn (BitVec.ofNat 32 x)).toNat
      if (fn = .sin || fn = .cos) && fcmp (.fin false m e) (.fin false 1 20) == .gt then
        if c % 2 ^ 31 ≤ 0x3F800000 then c else 0
      else
        let g := (sfuGoal fn neg m e).value
        let tiny := sfuTiny fn m e g
        let r := roundTo .f32 g (.rm .rne) false
        if fn = .sqrt then r
        else if sfuNear fn neg m e c && sfuSide fn (fsub .f32 x) tiny g c then c
        else if tiny || r % 2 ^ 31 = 0 then signBit .f32 g.neg
        else r

end Sys2Proof.Machine
end

