-- ==== Sys2Proof/Machine/Special.lean ====
section
/-! DEFINITION. Special functions, Table 8.6 (08 R245). -/

namespace Sys2Proof.Machine

/-- One special function: FTZ on the input and on the result; latency 12. -/
def sfuR (fn : Sfu) (f : FmtR) (s : State) : Out :=
  issue s f.sched fun i => i.alu f.sched 12 (opsR1 f) fun r =>
    let x := fwriteFtz .f32 (modBit f.mod 9) (r.a % 2 ^ 32)
    fwriteFtz .f32 (modBit f.mod 9) (sfuEval fn x (fdecode .f32 x))

/-- RCP. -/
def execRcp (f : FmtR) (s : State) : Out := sfuR .rcp f s
/-- RSQ. -/
def execRsq (f : FmtR) (s : State) : Out := sfuR .rsq f s
/-- SQRT. -/
def execSqrt (f : FmtR) (s : State) : Out := sfuR .sqrt f s
/-- EX2. -/
def execEx2 (f : FmtR) (s : State) : Out := sfuR .ex2 f s
/-- LG2. -/
def execLg2 (f : FmtR) (s : State) : Out := sfuR .lg2 f s
/-- SIN. -/
def execSin (f : FmtR) (s : State) : Out := sfuR .sin f s
/-- COS. -/
def execCos (f : FmtR) (s : State) : Out := sfuR .cos f s
/-- TANH. -/
def execTanh (f : FmtR) (s : State) : Out := sfuR .tanh f s

end Sys2Proof.Machine
end

