-- ==== Sys2Proof/Machine/Dispatch.lean ====
section
/-! DEFINITION. The one match that gives every constructor its meaning. -/

namespace Sys2Proof.Machine

/-- The meaning of every step of the part. -/
def exec (i : Instr) (s : State) : Host.Outcome State Fault Refusal :=
  match i with
  | .nop f => Sys2Proof.Machine.execNop f s
  | .bra f => Sys2Proof.Machine.execBra f s
  | .brx f => Sys2Proof.Machine.execBrx f s
  | .call f => Sys2Proof.Machine.execCall f s
  | .callx f => Sys2Proof.Machine.execCallx f s
  | .ret f => Sys2Proof.Machine.execRet f s
  | .exit f => Sys2Proof.Machine.execExit f s
  | .trapSvc f => Sys2Proof.Machine.execTrapSvc f s
  | .trapBkpt f => Sys2Proof.Machine.execTrapBkpt f s
  | .trapSys f => Sys2Proof.Machine.execTrapSys f s
  | .rtt f => Sys2Proof.Machine.execRtt f s
  | .region f => Sys2Proof.Machine.execRegion f s
  | .yield f => Sys2Proof.Machine.execYield f s
  | .sleept f => Sys2Proof.Machine.execSleept f s
  | .iadd f => Sys2Proof.Machine.execIadd f s
  | .iaddI f => Sys2Proof.Machine.execIaddI f s
  | .iadd3 f => Sys2Proof.Machine.execIadd3 f s
  | .isub f => Sys2Proof.Machine.execIsub f s
  | .isubI f => Sys2Proof.Machine.execIsubI f s
  | .imul f => Sys2Proof.Machine.execImul f s
  | .imulI f => Sys2Proof.Machine.execImulI f s
  | .imulh f => Sys2Proof.Machine.execImulh f s
  | .imulhI f => Sys2Proof.Machine.execImulhI f s
  | .imad f => Sys2Proof.Machine.execImad f s
  | .imadw f => Sys2Proof.Machine.execImadw f s
  | .imin f => Sys2Proof.Machine.execImin f s
  | .iminI f => Sys2Proof.Machine.execIminI f s
  | .imax f => Sys2Proof.Machine.execImax f s
  | .imaxI f => Sys2Proof.Machine.execImaxI f s
  | .iabs f => Sys2Proof.Machine.execIabs f s
  | .ineg f => Sys2Proof.Machine.execIneg f s
  | .lea f => Sys2Proof.Machine.execLea f s
  | .leaI f => Sys2Proof.Machine.execLeaI f s
  | .leaw f => Sys2Proof.Machine.execLeaw f s
  | .leawI f => Sys2Proof.Machine.execLeawI f s
  | .and f => Sys2Proof.Machine.execAnd f s
  | .andI f => Sys2Proof.Machine.execAndI f s
  | .or f => Sys2Proof.Machine.execOr f s
  | .orI f => Sys2Proof.Machine.execOrI f s
  | .xor f => Sys2Proof.Machine.execXor f s
  | .xorI f => Sys2Proof.Machine.execXorI f s
  | .lut3 f => Sys2Proof.Machine.execLut3 f s
  | .shl f => Sys2Proof.Machine.execShl f s
  | .shlI f => Sys2Proof.Machine.execShlI f s
  | .shr f => Sys2Proof.Machine.execShr f s
  | .shrI f => Sys2Proof.Machine.execShrI f s
  | .sar f => Sys2Proof.Machine.execSar f s
  | .sarI f => Sys2Proof.Machine.execSarI f s
  | .shf f => Sys2Proof.Machine.execShf f s
  | .rotl f => Sys2Proof.Machine.execRotl f s
  | .rotlI f => Sys2Proof.Machine.execRotlI f s
  | .bfe f => Sys2Proof.Machine.execBfe f s
  | .bfeI f => Sys2Proof.Machine.execBfeI f s
  | .bfi f => Sys2Proof.Machine.execBfi f s
  | .popc f => Sys2Proof.Machine.execPopc f s
  | .clz f => Sys2Proof.Machine.execClz f s
  | .brev f => Sys2Proof.Machine.execBrev f s
  | .prmt f => Sys2Proof.Machine.execPrmt f s
  | .isetp f => Sys2Proof.Machine.execIsetp f s
  | .isetpI f => Sys2Proof.Machine.execIsetpI f s
  | .isel f => Sys2Proof.Machine.execIsel f s
  | .iselI f => Sys2Proof.Machine.execIselI f s
  | .fsetp f => Sys2Proof.Machine.execFsetp f s
  | .fsetpI f => Sys2Proof.Machine.execFsetpI f s
  | .hsetp2 f => Sys2Proof.Machine.execHsetp2 f s
  | .hsetp2I f => Sys2Proof.Machine.execHsetp2I f s
  | .plop f => Sys2Proof.Machine.execPlop f s
  | .p2v f => Sys2Proof.Machine.execP2v f s
  | .v2p f => Sys2Proof.Machine.execV2p f s
  | .fadd f => Sys2Proof.Machine.execFadd f s
  | .faddI f => Sys2Proof.Machine.execFaddI f s
  | .fmul f => Sys2Proof.Machine.execFmul f s
  | .fmulI f => Sys2Proof.Machine.execFmulI f s
  | .ffma f => Sys2Proof.Machine.execFfma f s
  | .fmin f => Sys2Proof.Machine.execFmin f s
  | .fminI f => Sys2Proof.Machine.execFminI f s
  | .fmax f => Sys2Proof.Machine.execFmax f s
  | .fmaxI f => Sys2Proof.Machine.execFmaxI f s
  | .frnd f => Sys2Proof.Machine.execFrnd f s
  | .fclass f => Sys2Proof.Machine.execFclass f s
  | .fscale f => Sys2Proof.Machine.execFscale f s
  | .fscaleI f => Sys2Proof.Machine.execFscaleI f s
  | .hadd2 f => Sys2Proof.Machine.execHadd2 f s
  | .hadd2I f => Sys2Proof.Machine.execHadd2I f s
  | .hmul2 f => Sys2Proof.Machine.execHmul2 f s
  | .hmul2I f => Sys2Proof.Machine.execHmul2I f s
  | .hfma2 f => Sys2Proof.Machine.execHfma2 f s
  | .hmin2 f => Sys2Proof.Machine.execHmin2 f s
  | .hmin2I f => Sys2Proof.Machine.execHmin2I f s
  | .hmax2 f => Sys2Proof.Machine.execHmax2 f s
  | .hmax2I f => Sys2Proof.Machine.execHmax2I f s
  | .rcp f => Sys2Proof.Machine.execRcp f s
  | .rsq f => Sys2Proof.Machine.execRsq f s
  | .sqrt f => Sys2Proof.Machine.execSqrt f s
  | .ex2 f => Sys2Proof.Machine.execEx2 f s
  | .lg2 f => Sys2Proof.Machine.execLg2 f s
  | .sin f => Sys2Proof.Machine.execSin f s
  | .cos f => Sys2Proof.Machine.execCos f s
  | .tanh f => Sys2Proof.Machine.execTanh f s
  | .cvt f => Sys2Proof.Machine.execCvt f s
  | .f2i f => Sys2Proof.Machine.execF2i f s
  | .i2f f => Sys2Proof.Machine.execI2f f s
  | .pack f => Sys2Proof.Machine.execPack f s
  | .unpk f => Sys2Proof.Machine.execUnpk f s
  | .qscale f => Sys2Proof.Machine.execQscale f s
  | .qnt f => Sys2Proof.Machine.execQnt f s
  | .dqnt f => Sys2Proof.Machine.execDqnt f s
  | .mov f => Sys2Proof.Machine.execMov f s
  | .movi f => Sys2Proof.Machine.execMovi f s
  | .movd f => Sys2Proof.Machine.execMovd f s
  | .rget f => Sys2Proof.Machine.execRget f s
  | .rset f => Sys2Proof.Machine.execRset f s
  | .vote f => Sys2Proof.Machine.execVote f s
  | .matchv f => Sys2Proof.Machine.execMatchv f s
  | .redux f => Sys2Proof.Machine.execRedux f s
  | .scan f => Sys2Proof.Machine.execScan f s
  | .first f => Sys2Proof.Machine.execFirst f s
  | .perm f => Sys2Proof.Machine.execPerm f s
  | .ld sz f => Sys2Proof.Machine.execLd sz f s
  | .st sz f => Sys2Proof.Machine.execSt sz f s
  | .ldfrag f => Sys2Proof.Machine.execLdfrag f s
  | .stfrag f => Sys2Proof.Machine.execStfrag f s
  | .pgreq f => Sys2Proof.Machine.execPgreq f s
  | .pgprobe f => Sys2Proof.Machine.execPgprobe f s
  | .atom op f => Sys2Proof.Machine.execAtom op f s
  | .atoms op f => Sys2Proof.Machine.execAtoms op f s
  | .red op f => Sys2Proof.Machine.execRed op f s
  | .fence f => Sys2Proof.Machine.execFence f s
  | .lds sz f => Sys2Proof.Machine.execLds sz f s
  | .sts sz f => Sys2Proof.Machine.execSts sz f s
  | .ldw sz f => Sys2Proof.Machine.execLdw sz f s
  | .stw sz f => Sys2Proof.Machine.execStw sz f s
  | .stagl f => Sys2Proof.Machine.execStagl f s
  | .stagi f => Sys2Proof.Machine.execStagi f s
  | .stagx f => Sys2Proof.Machine.execStagx f s
  | .swopen f => Sys2Proof.Machine.execSwopen f s
  | .swclaim f => Sys2Proof.Machine.execSwclaim f s
  | .swrel f => Sys2Proof.Machine.execSwrel f s
  | .smove f => Sys2Proof.Machine.execSmove f s
  | .barinit f => Sys2Proof.Machine.execBarinit f s
  | .barinitFree f => Sys2Proof.Machine.execBarinitFree f s
  | .bararr f => Sys2Proof.Machine.execBararr f s
  | .barexp f => Sys2Proof.Machine.execBarexp f s
  | .barwait f => Sys2Proof.Machine.execBarwait f s
  | .bartest f => Sys2Proof.Machine.execBartest f s
  | .csign f => Sys2Proof.Machine.execCsign f s
  | .csignDecl f => Sys2Proof.Machine.execCsignDecl f s
  | .cwait f => Sys2Proof.Machine.execCwait f s
  | .reggrow f => Sys2Proof.Machine.execReggrow f s
  | .regshrink f => Sys2Proof.Machine.execRegshrink f s
  | .launch f => Sys2Proof.Machine.execLaunch f s
  | .srd f => Sys2Proof.Machine.execSrd f s
  | .swr f => Sys2Proof.Machine.execSwr f s
  | .mma f => Sys2Proof.Machine.execMma f s
  | .mmaq f => Sys2Proof.Machine.execMmaq f s
  | .mxout f => Sys2Proof.Machine.execMxout f s
  | .mzero f => Sys2Proof.Machine.execMzero f s
  | .mlda f => Sys2Proof.Machine.execMlda f s
  | .mrda f => Sys2Proof.Machine.execMrda f s
  | .mwra f => Sys2Proof.Machine.execMwra f s
  | .mdrain f => Sys2Proof.Machine.execMdrain f s
  | .mdrainTq f => Sys2Proof.Machine.execMdrainTq f s
  | .tcopy f => Sys2Proof.Machine.execTcopy f s
  | .tgather f => Sys2Proof.Machine.execTgather f s
  | .tchain f => Sys2Proof.Machine.execTchain f s
  | .tcancel f => Sys2Proof.Machine.execTcancel f s
  | .tstat f => Sys2Proof.Machine.execTstat f s
  | .coll f => Sys2Proof.Machine.execColl f s
  | .fsend f => Sys2Proof.Machine.execFsend f s
  | .fpost f => Sys2Proof.Machine.execFpost f s
  | .flogpop f => Sys2Proof.Machine.execFlogpop f s
  | .stm sz f => Sys2Proof.Machine.execStm sz f s
  | .ldx op f => Sys2Proof.Machine.execLdx op f s
  | .prefetch f => Sys2Proof.Machine.execPrefetch f s
  | .cflush f => Sys2Proof.Machine.execCflush f s
  | .cinval f => Sys2Proof.Machine.execCinval f s
  | .pvfl f => Sys2Proof.Machine.execPvfl f s
  | .woclr f => Sys2Proof.Machine.execWoclr f s
  | .nopCmd h => Sys2Proof.Machine.execNopCmd h s
  | .launchPacket h lq rec => Sys2Proof.Machine.execLaunchPacket h lq rec s
  | .vcCreate h lci chw pchip gid incoming s2 qos => Sys2Proof.Machine.execVcCreate h lci chw pchip gid incoming s2 qos s
  | .vcDestroy h lci => Sys2Proof.Machine.execVcDestroy h lci s
  | .vcQos h lci qos => Sys2Proof.Machine.execVcQos h lci qos s
  | .map h stage lci ctx => Sys2Proof.Machine.execMap h stage lci ctx s
  | .shoot h lci stage all cls first count => Sys2Proof.Machine.execShoot h lci stage all cls first count s
  | .pageReply h vf queue status reqid inc => Sys2Proof.Machine.execPageReply h vf queue status reqid inc s
  | .eventArm h lci => Sys2Proof.Machine.execEventArm h lci s
  | .ckpt h gid narrow dest ranges rt => Sys2Proof.Machine.execCkpt h gid narrow dest ranges rt s
  | .restore h gid src => Sys2Proof.Machine.execRestore h gid src s
  | .counterAcq h kind op die bank lci => Sys2Proof.Machine.execCounterAcq h kind op die bank lci s
  | .routeLoad h gid kind sel src first count => Sys2Proof.Machine.execRouteLoad h gid kind sel src first count s
  | .guestPause h gid => Sys2Proof.Machine.execGuestPause h gid s
  | .guestResume h gid => Sys2Proof.Machine.execGuestResume h gid s
  | .vcMigrate h lci target route => Sys2Proof.Machine.execVcMigrate h lci target route s
  | .placeLoad h lci table => Sys2Proof.Machine.execPlaceLoad h lci table s
  | .getver h => Sys2Proof.Machine.execGetver h s
  | .setver h iface ver => Sys2Proof.Machine.execSetver h iface ver s
  | .attest h nonce out => Sys2Proof.Machine.execAttest h nonce out s
  | .dbgcmdStop fn team => Sys2Proof.Machine.execDbgcmdStop fn team s
  | .dbgcmdResume fn team => Sys2Proof.Machine.execDbgcmdResume fn team s
  | .dbgcmdResumeNext fn team => Sys2Proof.Machine.execDbgcmdResumeNext fn team s
  | .dbgcmdStep fn team group => Sys2Proof.Machine.execDbgcmdStep fn team group s
  | .dbgcmdDetach fn lci => Sys2Proof.Machine.execDbgcmdDetach fn lci s
  | .queueTailWrite fn q tail => Sys2Proof.Machine.execQueueTailWrite fn q tail s
  | .queueDescriptorReset fn q base size erra => Sys2Proof.Machine.execQueueDescriptorReset fn q base size erra s
  | .armWrite fn => Sys2Proof.Machine.execArmWrite fn s
  | .rtailWrite lci rtail => Sys2Proof.Machine.execRtailWrite lci rtail s
  | .registerWindowWrite fn team group target data => Sys2Proof.Machine.execRegisterWindowWrite fn team group target data s
  | .watchpointWrite fn lci lcore wp val => Sys2Proof.Machine.execWatchpointWrite fn lci lcore wp val s
  | .counterSelectWrite fn bank ctr sel => Sys2Proof.Machine.execCounterSelectWrite fn bank ctr sel s
  | .registerWrite fn off data => Sys2Proof.Machine.execRegisterWrite fn off data s
  | .powerGood romOk failedClusters failedChannels => Sys2Proof.Machine.execPowerGood romOk failedClusters failedChannels s
  | .powerLimitWindow watts => Sys2Proof.Machine.execPowerLimitWindow watts s
  | .issueSlotPick core slot => Sys2Proof.Machine.execIssueSlotPick core slot s
  | .scoreboardDecrement team group ctr => Sys2Proof.Machine.execScoreboardDecrement team group ctr s
  | .dispatchPlacement lci => Sys2Proof.Machine.execDispatchPlacement lci s
  | .launchAcceptance lci lq => Sys2Proof.Machine.execLaunchAcceptance lci lq s
  | .reggrowGrant core => Sys2Proof.Machine.execReggrowGrant core s
  | .sleepWake team group => Sys2Proof.Machine.execSleepWake team group s
  | .parkThresholdExpiry team => Sys2Proof.Machine.execParkThresholdExpiry team s
  | .teamPark team => Sys2Proof.Machine.execTeamPark team s
  | .teamWake team => Sys2Proof.Machine.execTeamWake team s
  | .teamEnd team => Sys2Proof.Machine.execTeamEnd team s
  | .translationWalk core lci va kind => Sys2Proof.Machine.execTranslationWalk core lci va kind s
  | .storeAccept txn => Sys2Proof.Machine.execStoreAccept txn s
  | .readService txn => Sys2Proof.Machine.execReadService txn s
  | .accessAnswer acc => Sys2Proof.Machine.execAccessAnswer acc s
  | .leaseSweep die bank => Sys2Proof.Machine.execLeaseSweep die bank s
  | .wcbAgeExpiry core pchip line => Sys2Proof.Machine.execWcbAgeExpiry core pchip line s
  | .shootDieAck seq die => Sys2Proof.Machine.execShootDieAck seq die s
  | .shootTimeout seq die => Sys2Proof.Machine.execShootTimeout seq die s
  | .jobStart die ch => Sys2Proof.Machine.execJobStart die ch s
  | .boxRow job row => Sys2Proof.Machine.execBoxRow job row s
  | .jobEnd job => Sys2Proof.Machine.execJobEnd job s
  | .chainRecordRead die ch => Sys2Proof.Machine.execChainRecordRead die ch s
  | .collCardStart card => Sys2Proof.Machine.execCollCardStart card s
  | .collChunkLanding card chunk => Sys2Proof.Machine.execCollChunkLanding card chunk s
  | .collCardEnd card => Sys2Proof.Machine.execCollCardEnd card s
  | .matrixGrant cluster => Sys2Proof.Machine.execMatrixGrant cluster s
  | .matrixRequestApplied cluster => Sys2Proof.Machine.execMatrixRequestApplied cluster s
  | .mdrainWritesDone drain => Sys2Proof.Machine.execMdrainWritesDone drain s
  | .smoveAcceptance mv => Sys2Proof.Machine.execSmoveAcceptance mv s
  | .smoveEnd mv => Sys2Proof.Machine.execSmoveEnd mv s
  | .windowBarrierUpdate upd => Sys2Proof.Machine.execWindowBarrierUpdate upd s
  | .serviceReply lci => Sys2Proof.Machine.execServiceReply lci s
  | .linkAck port lseq => Sys2Proof.Machine.execLinkAck port lseq s
  | .resendTimeout port => Sys2Proof.Machine.execResendTimeout port s
  | .linkTraining port lo hi => Sys2Proof.Machine.execLinkTraining port lo hi s
  | .loadPacket port pkt => Sys2Proof.Machine.execLoadPacket port pkt s
  | .loadRsp port pkt => Sys2Proof.Machine.execLoadRsp port pkt s
  | .storePacket port pkt => Sys2Proof.Machine.execStorePacket port pkt s
  | .storeAck port pkt => Sys2Proof.Machine.execStoreAck port pkt s
  | .atomic port pkt => Sys2Proof.Machine.execAtomic port pkt s
  | .atomicRsp port pkt => Sys2Proof.Machine.execAtomicRsp port pkt s
  | .msgReq port pkt => Sys2Proof.Machine.execMsgReq port pkt s
  | .msgData port pkt => Sys2Proof.Machine.execMsgData port pkt s
  | .token port pkt => Sys2Proof.Machine.execToken port pkt s
  | .defer port pkt => Sys2Proof.Machine.execDefer port pkt s
  | .resume port pkt => Sys2Proof.Machine.execResume port pkt s
  | .nak port pkt => Sys2Proof.Machine.execNak port pkt s
  | .nakRetry msg => Sys2Proof.Machine.execNakRetry msg s
  | .error port pkt => Sys2Proof.Machine.execError port pkt s
  | .preq port pkt => Sys2Proof.Machine.execPreq port pkt s
  | .tokenIssue die => Sys2Proof.Machine.execTokenIssue die s
  | .tokenExpiry die tok => Sys2Proof.Machine.execTokenExpiry die tok s
  | .orphanTimeout die req => Sys2Proof.Machine.execOrphanTimeout die req s
  | .linkRekey src dst gid => Sys2Proof.Machine.execLinkRekey src dst gid s
  | .heartbeatLoss peer => Sys2Proof.Machine.execHeartbeatLoss peer s
  | .timeSyncExchange port offset => Sys2Proof.Machine.execTimeSyncExchange port offset s
  | .timeLost offset => Sys2Proof.Machine.execTimeLost offset s
  | .guestPauseComplete gid => Sys2Proof.Machine.execGuestPauseComplete gid s
  | .migrationComplete lci => Sys2Proof.Machine.execMigrationComplete lci s
  | .checkpointComplete gid => Sys2Proof.Machine.execCheckpointComplete gid s
  | .sliceBoundary => Sys2Proof.Machine.execSliceBoundary s
  | .drainBoundExpiry lci => Sys2Proof.Machine.execDrainBoundExpiry lci s
  | .coschedHint cgroup start => Sys2Proof.Machine.execCoschedHint cgroup start s
  | .channelRetirement die ch => Sys2Proof.Machine.execChannelRetirement die ch s
  | .clusterRetirement cluster => Sys2Proof.Machine.execClusterRetirement cluster s
  | .stopDump team => Sys2Proof.Machine.execStopDump team s
  | .tdispMessage lci msg => Sys2Proof.Machine.execTdispMessage lci msg s
  | .functionReset fn => Sys2Proof.Machine.execFunctionReset fn s
  | .powerCommand target => Sys2Proof.Machine.execPowerCommand target s
  | .powerOff => Sys2Proof.Machine.execPowerOff s
  | .storeDropped lci => Sys2Proof.Machine.execStoreDropped lci s

end Sys2Proof.Machine
end

