-- ==== Sys2Proof/Machine/Next.lean ====
section
/-! DEFINITION. The events that the machine itself may bring about in a state, and when power lets an event happen: what a
machine does next when its agenda names nothing (assumption log 5). -/

namespace Sys2Proof.Machine

/-- Functions that a queue may belong to: the PF and the chips'. -/
def State.fns (s : State) : List Fn := .pf :: s.chips.map fun p => .vf (BitVec.ofNat 8 p.1)

/-- Who brings an event about. -/
inductive EventKind where
  /-- An instruction of a team, or the compute dies' hardware: needs P0. -/
  | hardware
  /-- Firmware and the hub, for the host: needs a PF that answers. -/
  | firmware
  /-- Power itself. -/
  | power
  deriving DecidableEq, Repr

/-- The kind of an event. -/
def Instr.eventKind (i : Instr) : EventKind :=
  match i with
  | .powerGood _ _ _ => .power
  | .powerOff => .power
  | .powerCommand _ => .firmware
  | .nopCmd _ => .firmware
  | .launchPacket _ _ _ => .firmware
  | .vcCreate _ _ _ _ _ _ _ _ => .firmware
  | .vcDestroy _ _ => .firmware
  | .vcQos _ _ _ => .firmware
  | .map _ _ _ _ => .firmware
  | .shoot _ _ _ _ _ _ _ => .firmware
  | .pageReply _ _ _ _ _ _ => .firmware
  | .eventArm _ _ => .firmware
  | .ckpt _ _ _ _ _ _ => .firmware
  | .restore _ _ _ => .firmware
  | .counterAcq _ _ _ _ _ _ => .firmware
  | .routeLoad _ _ _ _ _ _ _ => .firmware
  | .guestPause _ _ => .firmware
  | .guestResume _ _ => .firmware
  | .vcMigrate _ _ _ _ => .firmware
  | .placeLoad _ _ _ => .firmware
  | .getver _ => .firmware
  | .setver _ _ _ => .firmware
  | .attest _ _ _ => .firmware
  | .dbgcmdStop _ _ => .firmware
  | .dbgcmdResume _ _ => .firmware
  | .dbgcmdResumeNext _ _ => .firmware
  | .dbgcmdStep _ _ _ => .firmware
  | .dbgcmdDetach _ _ => .firmware
  | .queueTailWrite _ _ _ => .firmware
  | .queueDescriptorReset _ _ _ _ _ => .firmware
  | .armWrite _ => .firmware
  | .rtailWrite _ _ => .firmware
  | .registerWindowWrite _ _ _ _ _ => .firmware
  | .watchpointWrite _ _ _ _ _ => .firmware
  | .counterSelectWrite _ _ _ _ => .firmware
  | .registerWrite _ _ _ => .firmware
  | .guestPauseComplete _ => .firmware
  | .migrationComplete _ => .firmware
  | .checkpointComplete _ => .firmware
  | .channelRetirement _ _ => .firmware
  | .clusterRetirement _ => .firmware
  | .tdispMessage _ _ => .firmware
  | .functionReset _ => .firmware
  | .powerLimitWindow _ => .firmware
  | _ => .hardware

/-- Power lets an event of a kind happen (18 R463, R472). -/
def Power.lets (p : Power) (k : EventKind) : Bool :=
  match k with
  | .power => true
  | .firmware => p == .p0 || p == .p1 || p == .p2
  | .hardware => p == .p0

/-- Runs an event if power lets it happen. -/
def runEvent (i : Instr) (s : State) : Host.Outcome State Fault Refusal :=
  if s.hub.power.lets (Instr.eventKind i) then exec i s else .next s

/-- An event that the machine may bring about of itself, with who does. -/
abbrev OwnEvent := EventKind × (State → Out)

/-- The packet at HEAD of a queue as an event. -/
def State.headEvent (s : State) (fn : Fn) (q : QSel) : Option Instr :=
  match s.front fn q, s.queue? fn q with
  | .packet b, some d =>
    match q with
    | .cmd => cmdOf (cmdHdr fn d.head b) b
    | .launch lq =>
      if byteAt b 0 = 1 then some (.launchPacket (cmdHdr fn d.head b) lq (BitVec.ofNat 512 (packetNat b 16 64)))
      else some (.nopCmd (cmdHdr fn d.head b))
  | _, _ => none

/-- Launch queues of a function that have a descriptor. -/
def State.launchQueues (s : State) (fn : Fn) : List QSel :=
  let l := match fn with
    | .pf => s.hub.lqd
    | .vf lci => (match s.chip? lci.toNat with | some c => c.lqd | none => [])
  l.map fun p => .launch (BitVec.ofNat 8 p.1)

/-- Firmware's events: commands and launches at the heads of queues, and what its background work waits for. -/
def State.firmwareEvents (s : State) : List OwnEvent :=
  (s.fns.flatMap fun f => ((QSel.cmd :: s.launchQueues f).filterMap (s.headEvent f)).map fun i => (.firmware, exec i)) ++
    (s.chips.flatMap fun p =>
      let l := BitVec.ofNat 8 p.1
      [(.hardware, execDispatchPlacement l), (.hardware, execDrainBoundExpiry l), (.firmware, execMigrationComplete l), (.hardware, execServiceReply l), (.hardware, execStoreDropped l)]) ++
    (s.mod.guests.flatMap fun p =>
      [(.firmware, execGuestPauseComplete (BitVec.ofNat 16 p.1)), (.firmware, execCheckpointComplete (BitVec.ofNat 16 p.1))]) ++
    [(.hardware, execSliceBoundary)]

/-- Events of the teams and cores. -/
def State.teamEvents (s : State) : List OwnEvent :=
  let cores := (s.teams.filterMap Team.core?).eraseDups
  (s.teams.flatMap fun t =>
    [(.hardware, execParkThresholdExpiry t.id), (.hardware, execTeamPark t.id), (.hardware, execTeamWake t.id), (.hardware, execTeamEnd t.id), (.hardware, execStopDump t.id)] ++
      t.groupNums.flatMap fun n =>
        (.hardware, execSleepWake t.id n) :: ((t.group n).ord.drops.eraseDups.map fun j => (.hardware, execScoreboardDecrement t.id n j))) ++
    cores.flatMap fun c => (.hardware, execReggrowGrant c) :: (List.range 4).map fun k => (.hardware, execIssueSlotPick c k)

/-- Events of memory: transactions, answers, leases and write-combining. -/
def State.memoryEvents (s : State) : List OwnEvent :=
  (s.traffic.txns.flatMap fun t => [(.hardware, execStoreAccept t.id), (.hardware, execReadService t.id)]) ++
    (s.traffic.accesses.map fun a => (.hardware, execAccessAnswer a.id)) ++
    (s.cores.flatMap fun c => c.2.wcb.map fun w => (.hardware, execWcbAgeExpiry c.1 (BitVec.ofNat 10 w.pchip) (BitVec.ofNat 41 w.line))) ++
    (s.hub.shoots.flatMap fun x => (List.range 16).map fun d => (.hardware, execShootDieAck x.seq (BitVec.ofNat 4 d))) ++
    (s.hub.shoots.flatMap fun x => (List.range 16).map fun d => (.firmware, execShootTimeout x.seq (BitVec.ofNat 4 d))) ++
    s.dies.flatMap fun d => (d.2.lines.filter fun b => b.lv && decide (b.lexp ≤ s.gtc)).filterMap fun b =>
      (s.bankOf b.lci (b.line * 128)).map fun k => (.hardware, execLeaseSweep (BitVec.ofNat 4 (k / 32)) (BitVec.ofNat 5 (k % 32)))

/-- Events of the engines. -/
def State.engineEvents (s : State) : List OwnEvent :=
  (s.traffic.jobs.flatMap fun j => (.hardware, execJobEnd j.id) :: j.rows.map fun r => (.hardware, execBoxRow j.id r)) ++
    ((s.traffic.jobs.map fun j => (j.die, j.ch)).eraseDups.map fun p =>
      (.hardware, execJobStart (BitVec.ofNat 4 p.1) (BitVec.ofNat 5 p.2))) ++
    (s.dies.flatMap fun d => d.2.channels.map fun c =>
      (.hardware, execChainRecordRead (BitVec.ofNat 4 d.1) (BitVec.ofNat 5 c.1))) ++
    (s.traffic.cards.flatMap fun c =>
      [(.hardware, execCollCardStart c.id), (.hardware, execCollCardEnd c.id)] ++ c.chunks.map fun k => (.hardware, execCollChunkLanding c.id k)) ++
    (s.clusters.flatMap fun c => [(.hardware, execMatrixGrant c.1), (.hardware, execMatrixRequestApplied c.1)] ++ c.2.drains.map fun d => (.hardware, execMdrainWritesDone d.id)) ++
    (s.traffic.smoves.flatMap fun m => [(.hardware, execSmoveAcceptance m.id), (.hardware, fun s => .next (s.smoveStep m.id m.len false)),
      (.hardware, fun s => .next (s.smoveStep m.id m.len true)), (.hardware, execSmoveEnd m.id)]) ++
    (s.traffic.barUpds.map fun u => (.hardware, execWindowBarrierUpdate u.id)) ++
    s.traffic.launches.map fun q => (.hardware, execLaunchAcceptance (BitVec.ofNat 8 q.team.lci) (BitVec.ofNat 8 q.lq))

/-- Events of messages. -/
def State.messageEvents (s : State) : List OwnEvent :=
  (s.traffic.sends.map fun x => (.hardware, execNakRetry x.id)) ++
    ((s.traffic.msgs.map MsgReq.die ++ s.traffic.sends.map Send.die).eraseDups.map fun d => (.hardware, execTokenIssue (BitVec.ofNat 4 d))) ++
    (s.traffic.tokens.map fun k => (.hardware, execTokenExpiry (BitVec.ofNat 4 k.die) k.num)) ++
    s.traffic.msgs.map fun m => (.hardware, execOrphanTimeout (BitVec.ofNat 4 m.die) m.id)

/-- The events that the machine itself may bring about. -/
def State.candidates (s : State) : List OwnEvent :=
  s.firmwareEvents ++ s.teamEvents ++ s.memoryEvents ++ s.engineEvents ++ s.messageEvents

/-- What an event leaves, if it changes anything. -/
def State.after? (s : State) (e : OwnEvent) : Option State :=
  if s.hub.power.lets e.1 then
    match e.2 s with
    | .next t => if t = s then none else some t
    | .fault _ => none
    | .refused _ => none
  else none

/-- What the first event leaves that changes anything, from a place in the list that moves on with every step
(assumption log 5). -/
def State.ownEvent (s : State) : Option State :=
  let l := s.candidates
  let k := s.free % max 1 l.length
  (l.drop k ++ l.take k).findSome? s.after?

end Sys2Proof.Machine
end

