-- ==== Sys2Proof/Machine/Notices.lean ====
section
/-! DEFINITION. What modules ask of one another about lines, as this module meets it, and what an acknowledgement leads to
(04 R132, R133, R142, 10 R296, R298, log 33). -/

namespace Sys2Proof.Machine

/-- The chip of this module whose slot holds a pod address of a guest. -/
def State.slotOf (s : State) (gid pod : Nat) : Option (Nat × Chip) :=
  s.chips.find? fun c => c.2.ident.gid == gid && !c.2.ident.incoming && podChip c.2.ident.chw pod == c.2.ident.pchip

/-- The home chip and frame address of a pod address of a guest, whatever the leaf's RES bit (04 R142). -/
def State.frameAt (s : State) (gid pod : Nat) : Option (Nat × Nat) :=
  (s.slotOf gid pod).bind fun c => (s.frameOf c.1 (podOfs c.2.ident.chw pod)).map fun m => (c.1, m)

/-- L1 keys of remote lines in a span that some core holds. -/
def State.remoteKeys (s : State) (pod len : Nat) : List Home :=
  ((s.cores.flatMap fun c => c.2.l1.map L1Line.key).filter fun k => match k with
    | .remote q => decide (pod ≤ q) && decide (q < pod + len)
    | .here _ _ => false).eraseDups

/-- Lines of a frame whose owner is on another module. -/
def State.farLines (s : State) (lci m : Nat) : List (BankLine × Nat) :=
  ((s.dies.flatMap fun d => d.2.lines).filter fun b => b.lci == lci && b.line / 32 == m / 4096).filterMap fun b =>
    b.farOwner?.map fun p => (b, p)

/-- A class transition that another module asks for: dirty sectors of owners elsewhere come back first (Table 4.7). -/
def State.meetRetag (s : State) (lci m : Nat) (cls : Cls) : State :=
  match s.farLines lci m with
  | [] => s.retagFrame (.here lci m) cls
  | l => l.foldl (fun s p => s.recallFar p.1 p.2) s

/-- An owner's lines in a span of a frame have no owner any more (04 R133). -/
def State.meetRelease (s : State) (lci m len : Nat) (owner : TeamId) : State :=
  let mine := ((s.dies.flatMap fun d => d.2.lines).filter fun b =>
    b.lci == lci && b.cls == .pv && b.owner == some owner && decide (m / 128 ≤ b.line) && decide (b.line < (m + len) / 128)).map
      BankLine.line
  mine.foldl (fun s ln => match s.bankLine? lci ln with | some b => s.endOwner b | none => s) s

/-- A request of another module about lines; it changes nothing where this module has no frame for it. -/
def State.meetLines (s : State) (gid : Nat) (k : NoticeKind) : State :=
  let at_ := fun (pod : Nat) (f : Nat → Nat → State) => match s.frameAt gid pod with | some p => f p.1 p.2 | none => s
  match k with
  | .clear pod len => at_ pod fun lci m => s.clearSpan lci m len
  | .retag pod cls => at_ pod fun lci m => s.meetRetag lci m cls
  | .maintain pod inval => at_ pod fun lci m => s.flushBank lci m inval
  | .release pod len owner => at_ pod fun lci m => s.meetRelease lci m len owner
  | .drop pod len =>
    (s.remoteKeys pod len).foldl (fun s key => s.cores.foldl (fun s c => s.evictL1 c.1 key) s) s
  | .recall pod =>
    let key : Home := .remote pod
    (s.cores.filter fun c => (c.2.line? key).any fun l => l.cls == .pv).foldl
      (fun s c => (s.flushKey c.1 key true none 0).1) s

/-- A request of a peer about lines; an isolated peer asks nothing (16 R434). -/
def State.meetNotice (s : State) (gid peer : Nat) (k : NoticeKind) : State := if s.isolated peer then s else s.meetLines gid k

/-- The line that a recall was for has no owner any more. -/
def State.recalled (s : State) (gid pod : Nat) : State :=
  match s.frameAt gid pod with
  | none => s
  | some p =>
    match s.bankLine? p.1 (p.2 / 128) with
    | some b => if b.farOwner?.isSome && b.opod == pod then s.endOwner b else s
    | none => s

/-- The acknowledgement of a notice: what waits for it goes on. -/
def State.noticeDone (s : State) (id : Nat) : State :=
  match s.mod.notices.find? fun n => n.id == id with
  | none => s
  | some n =>
    let s := s.noticeHeard n
    let s := match n.kind with
      | .recall pod => s.recalled n.gid pod
      | .clear _ _ => s
      | .retag _ _ => s
      | .drop _ _ => s
      | .maintain _ _ => s
      | .release _ _ _ => s
    match n.who, s.hub.shoots with
    | .shoot seq, sh :: _ => if sh.seq = seq && sh.moved then s.shootGoesOn sh else s
    | _, _ => s

end Sys2Proof.Machine
end

