-- ==== Sys2Proof/Machine/Place.lean ====
section
/-! DEFINITION. A one-instruction program in memory with a team that is about to issue it: what `withFetchWord` sets
(assumption log 6). -/

namespace Sys2Proof.Machine

/-- Module physical address of the placed line, and of the stage-2 tables that map it. -/
def progAddr : Nat := 0x200000
/-- Level-3 table. -/
def progRoot : Nat := 0x100000
/-- Level-2 table. -/
def progTable : Nat := 0x101000

/-- A NOP word: OP 0, guard p7, SET 7. -/
def nopWord : IWord := 0x000077000000000000000000

/-- The line that holds an instruction in slot 0: the record slots of a format-X instruction are DATA, other slots are
NOPs; slot 0 is a branch target and LPAR is right (06 R180 to R186). -/
def progLine (w : IWord) (rec_ : Record) : Line :=
  let x := isFormatX (slotOp w)
  let slots : List IWord := w :: (List.range 4).map fun j => if x then rec_.extractLsb' (96 * j) 96 else nopWord
  let body : Line := BitVec.ofNat 512 (slots.foldr (fun s n => s.toNat + 2 ^ 96 * n) 0)
  let word : Word := 0x08000000#32 ||| (if x then 0x07800000#32 else 0) ||| (Line.lparOf body).setWidth 32
  body ||| BitVec.ofNat 512 (word.toNat * 2 ^ 480)

/-- The kernel descriptor of the placed team: one role of one group with 256 registers. -/
def progDesc : Desc :=
  { roles := [{ rprio := 0, nregs := 256, groups := 1, entry := BitVec.ofNat 64 progAddr }], param := 0, trapv := 0,
    vwa := 0x10000, vwt := 0, vwv := 0, tags := 0, bars := 4, acc := 4, spad := 4, gx := 1, gy := 1, gz := 1, seed := 0,
    prio := 0, gang := 1, fpg := false, chk := false, priv := false }

/-- The placed team. -/
def progTeam : Team :=
  let t := Team.start { lci := 0, handle := 1, index := 0 } 0 0 progDesc 0 1 0 0 0 0
  t.modGroup 0 fun g => { g with run := some { core := 0, slot := 0, count := 0, pcs := [] } }

/-- The chip of the placed team: stage 1 FLAT, stage 2 rooted at `progRoot`. -/
def progChip : Chip :=
  { Chip.blank { gid := 1, pchip := 0, chw := 4, incoming := false, tdi := 0 } with
    s1 := 3
    s2 := BitVec.ofNat 64 (progRoot + 1)
    res := { Residency.blank with resident := true, clusters := [0], banks := List.range 32, everRan := true } }

/-- The stage-2 entries: a table, and a 1 GiB leaf of class RC with R, W and X (Table 2.3). -/
def progEntries : List (Nat × Nat) := [(progRoot, progTable + 1), (progTable, 0x3AA)]

/-- A chip table entry: valid, homed at this module's position, local index 0. -/
def progHome (position : Nat) : DWord := BitVec.ofNat 64 (2 ^ 44 + position % 16 * 2 ^ 31)

/-- The state with an instruction about to issue: the module powered, the chip and its mapping present, the team resident
and first on the agenda. -/
def State.placeProgram (s : State) (_nbits w : Nat) : State :=
  let line := progLine (BitVec.ofNat 96 w) (BitVec.ofNat 384 (w / 2 ^ 96))
  let mem := progEntries.foldl (fun m p => smWrite memDefault m p.1 (natLe 8 p.2)) s.mem
  { s with
    hub := { s.hub with power := .p0 }
    chips := (0, progChip) :: s.chips.filter fun p => p.1 != 0
    mod := { s.mod with guests := smSet Guest.init s.mod.guests 1 { Guest.init with table := [(0, progHome s.hub.position)] } }
    teams := progTeam :: s.teams.filter fun t => t.id != progTeam.id
    cores := smErase s.cores 0
    dies := smErase s.dies 0
    mem := smWrite memDefault mem progAddr (natLe 64 line.toNat)
    poison := smErase (smErase s.poison (progAddr / 64)) (progTable / 64)
    agenda := .issue progTeam.id 0 :: s.agenda }

end Sys2Proof.Machine
end

