-- ==== Sys2Proof/Machine/Sampling.lean ====
section
/-! DEFINITION. Sampling of memory instructions (17 R452). Queue times, replays and the lane that returns last are timing:
free values (assumption log 12). -/

namespace Sys2Proof.Machine

/-- The lanes' pieces that a memory instruction of format M touches: lane, address, bytes. -/
def Ix.touches (x : Ix) (i : Instr) : List (Nat × Nat × Nat) :=
  let each := fun (f : FmtM) (n : Nat) => (lanesOf x.active).map fun l => (l, (x.ea f l).toNat, n)
  let frag := fun (f : FmtM) (pitch : Opd) =>
    (x.fragRows (x.ea f (lowLane x.active)) (x.rd (lowLane x.active) pitch)).map fun (r : SpadReq) => (r.lane, r.addr.toNat, r.len)
  match i with
  | .ld k f => each f k.bytes
  | .st k f => each f k.bytes
  | .lds k f => each f k.bytes
  | .sts k f => each f k.bytes
  | .ldw k f => each f k.bytes
  | .stw k f => each f k.bytes
  | .atom k f => each f k.bytes
  | .atoms k f => each f k.bytes
  | .red k f => each f k.bytes
  | .ldfrag f => frag f f.sb
  | .stfrag f => frag f f.dst
  | .pgreq f => each f 0
  | .pgprobe f => each f 0
  | _ => []

/-- Address space of a memory instruction; `none` for those that have none. -/
def Instr.space (i : Instr) : Option Asp :=
  match i with
  | .ld _ f => some f.asp
  | .st _ f => some f.asp
  | .lds _ f => some f.asp
  | .sts _ f => some f.asp
  | .ldw _ f => some f.asp
  | .stw _ f => some f.asp
  | .atom _ f => some f.asp
  | .atoms _ f => some f.asp
  | .red _ f => some f.asp
  | .ldfrag f => some f.asp
  | .stfrag f => some f.asp
  | .pgreq f => some f.asp
  | .pgprobe f => some f.asp
  | _ => none

/-- Sectors of 32 bytes that pieces touch. -/
def touchedSectors (l : List (Nat × Nat × Nat)) : List Nat :=
  (l.flatMap fun p => if p.2.2 = 0 then [] else
    (List.range ((p.2.1 % 32 + p.2.2 + 31) / 32)).map fun k => p.2.1 / 32 + k).eraseDups

/-- The sample of Table 17.9. -/
def Ix.sample (x : Ix) (i : Instr) : List Byte :=
  let free := fun (k : Nat) => Config.freeNat (16 * x.s.free + k)
  let lanes := lanesOf x.active
  let last := lanes.getD (free 0 % max 1 lanes.length) 0
  let l := x.touches i
  let known := (Instr.space i).isSome
  let isGlobal := (Instr.space i) == some .global || (Instr.space i) == some .pod
  let ea := match l.find? fun p => p.1 == last with
    | some p => p.2.1
    | none => if known then 0 else free 1
  let cls := if isGlobal && !l.isEmpty then
      match (x.s.xlateLanes x.cur.core x.t.id.lci ((Instr.space i) == some .pod) .read [(last, ea)]).1 with
      | [y] => (match y.out with
        | .here t _ => t.cls.code
        | .remote t _ => t.cls.code
        | _ => 0)
      | _ => 0
    else 0
  let asp := match Instr.space i with
    | some a => (Asp.code a).toNat
    | none => free 2 % 16
  natLe 8 (field asp 60 4) ++
    natLe 8 (cls % 4 + last % 32 * 2 ^ 3 + free 3 % 256 * 2 ^ 8 + min (touchedSectors l).length 65535 * 2 ^ 16 +
      free 4 % 65536 * 2 ^ 32 + free 5 % 65536 * 2 ^ 48) ++
    natLe 8 (free 6 % 65536 + free 7 % 65536 * 2 ^ 16 + x.active.toNat * 2 ^ 32) ++ natLe 8 ea

/-- Counts a memory instruction that has issued, and reports every Nth: `x` is what it found (17 R452). -/
def State.sampleIssue (s : State) (x : Ix) (i : Instr) (family : Nat) : State :=
  let die := x.cur.core / 128
  match s.mod.sepia.find? fun p => p.1 == die with
  | none => s
  | some p =>
    let u := p.2
    if !(family == 9 || family == 10 || family == 11) || !u.admits x.t.id 7 then s
    else
      let n := (s.core x.cur.core).sampled + 1
      if n < u.every then s.modCore x.cur.core fun c => { c with sampled := n }
      else
        let s := s.modCore x.cur.core fun c => { c with sampled := 0 }
        let kp := if u.keybar = 0xFFFFFFFF || !x.t.bars.contains u.keybar then 0xFFFF else x.t.phaseAt u.keybar
        s.sepiaPut die u [traceRecord 7 0 kp x.cur.group x.t.id s.gtc x.cur.pc.toNat, x.sample i]

/-- What an instruction finds in a state whose issue latch is set. -/
def State.latched (s : State) (sc : Sched) : Option Ix :=
  match s.cur with
  | none => none
  | some c => (s.team? c.team).map fun t =>
      { s := s, cur := c, t := t, g := t.group c.group, active := (t.group c.group).guardMask s.free c.issued sc }

end Sys2Proof.Machine
end

