-- ==== Sys2Proof/Machine/Turns.lean ====
section
/-! DEFINITION. One turn of the module: an issue of a group, an event, or a turn that no opcode-table row names. -/

namespace Sys2Proof.Machine

/-- A pair whose second member is held issues neither (06 R200). -/
def holdPair (s : State) (c : Cur) : State :=
  { s.modGroup c.team c.group fun g => { g with ord := { g.ord with held := true } } with cur := none }

/-- What follows an issue, with its sample (17 R452): `s1` is what the instruction found and `s2` what it left. -/
def afterRun (s1 s2 : State) (c : Cur) (i : Instr) (l : Line) (m k : Nat) : State :=
  let s3 := s1.afterIssue s2 c i.sched k
  if !s1.firstDone s2 c.team c.group then s3
  else
    match s1.latched i.sched with
    | none => s3
    | some x => s3.sampleIssue x i (slotFamily (l.slot (pcSlot m)))

/-- The second member of a pair after the first has completed (06 R200). -/
def runSecond (s1 s2 : State) (c : Cur) (i : Instr) (l : Line) (m : Nat) : Host.Outcome State Fault Refusal :=
  match s2.decodeAt c.team c.group c.core l (m + 1) c.issued false with
  | .idle => .next (afterRun s1 s2 c i l m 1)
  | .waits s3 => .next (afterRun s1 s3 c i l m 1)
  | .trapped s3 => .next (afterRun s1 s3 c i l m 1)
  | .run j s3 _ _ =>
    match s3.cur with
    | none => .next (afterRun s1 s2 c i l m 1)
    | some d =>
      match exec j s3 with
      | .fault f => .fault f
      | .refused r => .refused r
      | .next s4 =>
        if ((s4.team? c.team).map fun t => (t.group c.group).ord.held) = some true then .next (holdPair s1 c)
        else
          match s1.latched i.sched with
          | none => .next (afterRun s1 s4 d j l (m + 1) 2)
          | some x => .next ((afterRun s1 s4 d j l (m + 1) 2).sampleIssue x i (slotFamily (l.slot (pcSlot m))))

/-- What an instruction that has been prepared does, and what follows it (05 R169, R170). -/
def runPrepared (i : Instr) (s1 : State) (l : Line) (m : Nat) : Host.Outcome State Fault Refusal :=
  match exec i s1 with
  | .fault f => .fault f
  | .refused r => .refused r
  | .next s2 =>
    match s1.cur with
    | none => .next s2
    | some c =>
      if c.first && s1.firstDone s2 c.team c.group then runSecond s1 s2 c i l m
      else .next (afterRun s1 s2 c i l m 1)

/-- One issue of a group. -/
def issueStep (s : State) (id : TeamId) (grp : Nat) : Host.Outcome State Fault Refusal :=
  match s.prepare id grp with
  | .idle => .next s
  | .waits s => .next s
  | .trapped t => .next (t.endStep id grp (s.leastPc id grp))
  | .run i s1 l m => runPrepared i s1 l m

/-- One turn. -/
def runTurn (t : Turn) (s : State) : Host.Outcome State Fault Refusal :=
  match t with
  | .event i => runEvent i s.clearHeld
  | .issue id grp => if s.hub.power == .p0 then issueStep s id grp else .next s
  | .tick n => .next (s.clearHeld.later n)
  | .evictL1 core key => .next (s.clearHeld.evictL1 core key)
  | .evictTlb core lci input => .next (s.clearHeld.evictTlb core lci input)
  | .evictCode core line => .next (s.clearHeld.evictCode core line)
  | .evictLine _ lci line => .next (s.clearHeld.evictLine lci line)
  | .drainWcb core id => .next (s.clearHeld.drainOne core id)
  | .errorSector die lci line sector => .next (s.clearHeld.sectorError die lci line sector)
  | .errorReg id grp lane reg => .next (s.clearHeld.registerError id grp lane reg)
  | .errorAcc id elem => .next (s.clearHeld.accError id elem)
  | .notice gid peer k => .next (s.clearHeld.meetNotice gid peer k)
  | .smoveRead id n => .next (s.clearHeld.smoveStep id n false)
  | .smoveLand id n => .next (s.clearHeld.smoveStep id n true)
  | .corrected u => .next (s.clearHeld.noteCorrected u)
  | .host lci mpa data => .next (s.clearHeld.hostAccess lci mpa data)
  | .noticed id => .next (s.clearHeld.noticeDone id)

/-- What a machine with an empty agenda does next: a group with an issue slot issues; else the machine brings about an event
of its own; else time passes (assumption log 5). -/
def defaultTurn (s : State) : Host.Outcome State Fault Refusal :=
  match if s.hub.power == .p0 then s.runningGroup else none with
  | some p => issueStep s p.1 p.2
  | none =>
    match s.clearHeld.ownEvent with
    | some t => .next t
    | none => .next s.clearHeld

/-- The next turn of the agenda, or the default one. -/
def nextTurn (s : State) : Host.Outcome State Fault Refusal :=
  match s.agenda with
  | [] => defaultTurn s
  | t :: r => runTurn t { s with agenda := r }

end Sys2Proof.Machine
end

