-- ==== Sys2Proof/Machine/Step.lean ====
section
/-! DEFINITION. One step of the module: the next turn of the agenda, or the default order. -/

namespace Sys2Proof.Machine

/-- One step of the machine. -/
def step (s : State) : Host.Outcome State Fault Refusal :=
  match nextTurn s with
  | .fault f => .fault f
  | .refused r => .refused r
  | .next t => .next t.settle

/-- `s` with an instruction word stored where `step` fetches next (assumption log 6). -/
def State.withFetchWord (s : State) (nbits w : Nat) : State := s.placeProgram nbits w

end Sys2Proof.Machine
end

