-- ==== Sys2Proof/Safety.lean ====
section
/-! DEFINITION. The terms in which statements about the machine are made: an instruction in the issue latch, what an
instruction that completes leaves behind, and what holds between steps. -/

namespace Sys2Proof.Machine

/-! ### What holds between steps -/

/-- Every hold of a group still lasts, and a group that runs nothing and is not eligible has been so until now. -/
def State.Settled (s : State) : Prop :=
  ∀ t ∈ s.teams, ∀ p ∈ t.groups,
    (∀ h ∈ p.2.ord.holds, s.holdLasts t.id p.1 p.2.ord.pend h = true) ∧
      (p.2.run = none → s.eligible t p.1 = false → p.2.eligibleAt = s.gtc)

/-! ### What an instruction finds -/

/-- The state's issue latch holds an instruction with these scheduling fields, and `x` is what it finds. -/
def Latched (s : State) (sc : Sched) (x : Ix) : Prop := s.latched sc = some x

/-! ### What a register instruction leaves -/

/-- A lane of a group holds a value where an operand names it: v and d registers, predicates p0 to p6; ZERO and p7 hold
nothing (05 R163, 06 R189). -/
def Group.holds (g : Group) (d : Desc) (l : Nat) (o : Opd) (v : Nat) : Prop :=
  match o with
  | .v n => g.key l (d.vwv / 4 + n.toNat) = BitVec.ofNat 32 v
  | .d n => g.key l (d.vwv / 4 + 2 * n.toNat) = BitVec.ofNat 32 v ∧
      g.key l (d.vwv / 4 + 2 * n.toNat + 1) = BitVec.ofNat 32 (v / 2 ^ 32)
  | .p k => k ≠ 7 → g.key l (predKey k.toNat) = if v = 0 then 0 else 1
  | .t _ => True
  | .a _ => True
  | .zero => True
  | .c _ => True

/-- The keys of the registers and predicates that a destination names. -/
def Desc.keysOf (d : Desc) (o : Opd) : List Nat :=
  match o with
  | .v n => [d.vwv / 4 + n.toNat]
  | .d n => [d.vwv / 4 + 2 * n.toNat, d.vwv / 4 + 2 * n.toNat + 1]
  | .p k => if k = 7 then [] else [predKey k.toNat]
  | .t _ => []
  | .a _ => []
  | .zero => []
  | .c _ => []

/-- What a completed instruction leaves of its group: the keys for which `writes` holds may differ, lane `l`'s generator
holds `seed l`, the issued lanes stand at `seq`, the SET counter has risen and its drop is due; nothing else of the group
has changed but the bookkeeping of its writes in flight, its register errors and its fragment guards. -/
def Group.Done (g : Group) (x : Ix) (sc : Sched) (writes : Nat → Nat → Prop) (seed : Nat → Word) : Prop :=
  (∀ l k, l < 32 → k < 263 → ¬ writes l k → g.key l k = x.g.key l k) ∧
    (∀ l, l < 32 → (g.lane l).pc = if x.cur.issued.getLsbD l then x.cur.next else (x.g.lane l).pc) ∧
    (∀ l, l < 32 → (g.lane l).st = (x.g.lane l).st ∧ (g.lane l).wait = (x.g.lane l).wait ∧ (g.lane l).seed = seed l) ∧
    g.ord.sb = (x.g.bump (setCtr sc)).ord.sb ∧ g.ord.drops = x.g.ord.drops ++ (setCtr sc).toList ∧
    g = { x.g with
      lanes := g.lanes
      regs := g.regs
      bad := g.bad
      guards := g.guards
      ord := { x.g.ord with sb := g.ord.sb, drops := g.ord.drops, flights := g.ord.flights } }

/-- What an instruction that writes one destination in every active lane leaves: lane `l` holds `val l` there, and apart
from that, from the group's PCs and counters, and from the count of free values, the whole state is as it was: memory,
scratchpads, accumulators, special and trap registers, other groups and teams. -/
def LaneResult (x : Ix) (sc : Sched) (o : Opd) (val : Nat → Nat) (seed : Nat → Word) (t : State) : Prop :=
  ∃ g : Group,
    t = { x.s.setTeam (x.t.setGroup x.cur.group g) with free := x.s.free + 1 } ∧
      (∀ l, l < 32 → x.active.getLsbD l = true → g.holds x.t.desc l o (val l)) ∧
      g.Done x sc (fun l k => x.active.getLsbD l = true ∧ k ∈ x.t.desc.keysOf o) seed

/-- The generator of every lane as it was. -/
def Ix.seeds (x : Ix) (l : Nat) : Word := (x.g.lane l).seed

/-- The generators after the active lanes have taken the steps of an instruction. -/
def Ix.seedsAfter (x : Ix) (o : Opds) (f : Args → Nat × Word) (l : Nat) : Word :=
  if x.active.getLsbD l then (f (x.args o l)).2 else (x.g.lane l).seed

/-- An instruction whose active lanes each write one function of their own sources completes with that result whenever
its operands pass their checks. -/
def Computes (i : Instr) (o : Opds) (f : Ix → Args → Nat) : Prop :=
  ∀ (s : State) (x : Ix), Latched s i.sched x → x.operandTrap (x.sources o) (x.t.desc.regsOf o.dst) = none →
    ∃ t, exec i s = .next t ∧ LaneResult x i.sched o.dst (fun l => f x (x.args o l)) x.seeds t

/-- As `Computes`, for an instruction that may step the lanes' generators. -/
def ComputesSr (i : Instr) (o : Opds) (f : Args → Nat × Word) : Prop :=
  ∀ (s : State) (x : Ix), Latched s i.sched x → x.operandTrap (x.sources o) (x.t.desc.regsOf o.dst) = none →
    ∃ t, exec i s = .next t ∧ LaneResult x i.sched o.dst (fun l => (f (x.args o l)).1) (x.seedsAfter o f) t

/-! ### What any instruction of a group leaves -/

/-- What writing `v` to a destination puts at key `k` of a lane, if the destination names the key. -/
def Desc.puts (d : Desc) (o : Opd) (v k : Nat) : Option Word :=
  match o with
  | .v n => if k = d.vwv / 4 + n.toNat then some (BitVec.ofNat 32 v) else none
  | .d n =>
    if k = d.vwv / 4 + 2 * n.toNat then some (BitVec.ofNat 32 v)
    else if k = d.vwv / 4 + 2 * n.toNat + 1 then some (BitVec.ofNat 32 (v / 2 ^ 32))
    else none
  | .p j => if j ≠ 7 ∧ k = predKey j.toNat then some (if v = 0 then 0 else 1) else none
  | .t _ => none
  | .a _ => none
  | .zero => none
  | .c _ => none

/-- The writes of the lanes of a mask to one destination. -/
def Ix.wr (x : Ix) (m : Mask) (o : Opd) (val : Nat → Nat) (l k : Nat) : Option Word :=
  if m.getLsbD l then x.t.desc.puts o (val l) k else none

/-- What the last of a list of writes to a key of a lane leaves there: a register all of it, a predicate whether it is
nonzero. -/
def lastWrite (ws : List Wr) (l k : Nat) : Option Word :=
  (ws.reverse.find? fun r => r.lane == l && r.key == k).map fun r =>
    if k < 256 then r.val else if r.val = 0 then 0 else 1

/-- Either of two sets of writes, the first where both name a key. -/
def orWrite (a b : Nat → Nat → Option Word) (l k : Nat) : Option Word := (a l k).or (b l k)

/-- No register and no predicate is written. -/
def noWrite (_ _ : Nat) : Option Word := none

/-- Lane `l` with its PC at `seq` if it issued. -/
def Ix.stepped (x : Ix) (l : Nat) : Lane :=
  if x.cur.issued.getLsbD l then { x.g.lane l with pc := x.cur.next } else x.g.lane l

/-- What an instruction leaves that acts on its own group alone, beyond what `x` already holds: the keys that `w` names have
its values and all others stand, lane `l` is `lane l` but for its predicates, the SET counter has risen, `drops` more of
its drops are due, and nothing else of the state has changed but the bookkeeping of writes in flight, register errors and
fragment guards, and the count of free values. -/
def EndsWith (x : Ix) (sc : Sched) (drops : List Nat) (w : Nat → Nat → Option Word) (lane : Nat → Lane) (t : State) : Prop :=
  ∃ g : Group,
    t = { x.s.setTeam (x.t.setGroup x.cur.group g) with free := x.s.free + 1 } ∧
      (∀ l k, l < 32 → k < 263 → g.key l k = (w l k).getD (x.g.key l k)) ∧
      (∀ l, l < 32 → ∃ p, g.lane l = { lane l with preds := p }) ∧
      g.ord.sb = (x.g.bump (setCtr sc)).ord.sb ∧ g.ord.drops = x.g.ord.drops ++ drops ∧
      g = { x.g with
        lanes := g.lanes
        regs := g.regs
        bad := g.bad
        guards := g.guards
        ord := { x.g.ord with sb := g.ord.sb, drops := g.ord.drops, flights := g.ord.flights } }

/-- As `EndsWith`, of an instruction that completes as it issues: the drop of its SET counter is due. -/
def Ends (x : Ix) (sc : Sched) (w : Nat → Nat → Option Word) (lane : Nat → Lane) (t : State) : Prop :=
  EndsWith x sc (setCtr sc).toList w lane t

/-! ### Scratchpad and window accesses -/

/-- A scratchpad or window access that runs: a lane is active, no wait and no check stops it (03 R97, 04 R127, R152). -/
def Ix.SpadReady (x : Ix) (f : FmtM) (sync store : Bool) (align : Nat) (l : List SpadReq) : Prop :=
  x.active ≠ 0 ∧ x.awaitOrd f.ord (spadScope f.scope) (sync || f.ord != .weak) = none ∧
    x.spadTrap (f.asp == .window) store align l = none ∧ x.spadFoot (f.asp == .window) store l = none

/-- What such an access leaves: the state `u` after its reads or stores and after the watchpoints they meet, the writes `ws`
in the group, and for a store the group's pending times. Lanes that read a poisoned byte write nothing and hold POISON for a
later boundary (04 R141, 11 R324). -/
def SpadDone (x : Ix) (f : FmtM) (store : Bool) (k : WatchKind) (l : List SpadReq) (u : State) (ws : List Wr) (t : State) : Prop :=
  let bad := if k == .store then (0, 0) else x.s.spadBad x.t (f.asp == .window) l
  let y := x.withState (u.spadWatch x.t (f.asp == .window) k l)
  let z : Ix := { y with g := y.g.spadOrder y.s.gtc store f.ord f.scope }
  Ends { z with g := z.deferCause f.sched Cause.poison bad.1 bad.2 } f.sched
    (lastWrite (ws.filter fun w => !bad.1.getLsbD w.lane)) y.stepped t

/-! ### Accesses to global and pod memory -/

/-- The record of the access that an instruction issues: its lanes, its destination, and nothing answered but `ans`. -/
def Ix.accRec (y : Ix) (f : FmtM) (sp : AccSpec) (sync isSc : Bool) (ans : List LaneAns) : Access :=
  { id := y.s.fresh.1, team := y.t.id, group := y.cur.group, pc := y.cur.pc, ctr := setCtr f.sched, dst := sp.dst,
    active := y.active, sync := sync, isSc := isSc, isLoad := sp.isLoad, isStore := sp.isStore, scope := f.scope,
    answers := ans, open_ := [], effect := 0, followed := false }

/-- What the transactions of that access share. -/
def Ix.accInfo (y : Ix) (f : FmtM) (sync : Bool) : AccInfo :=
  { id := y.s.fresh.1, team := y.t.id, group := y.cur.group, core := y.cur.core, scope := f.scope, ord := f.ord, sync := sync,
    lease := hintLease f.ch, install := f.ch != 2, first := f.ch == 3, agent := y.t.agent y.cur.core }

/-- What holds the group after the access: its answer if it synchronises, the pending time of its scope after an SC store. -/
def Ix.accHolds (y : Ix) (f : FmtM) (sp : AccSpec) (sync : Bool) : List Hold :=
  (if sync then [Hold.answer y.s.fresh.1] else []) ++ if f.ord == .sc && sp.isStore then [Hold.pending f.scope] else []

/-- An instruction that issues an access: its lanes step and its counter rises, no register changes yet, the record of the
access is added, and `go` adds its lines. -/
def Accesses (i : Instr) (s : State) (y : Ix) (f : FmtM) (sp : AccSpec) (sync isSc : Bool) (ans : List LaneAns)
    (go : State → AccInfo → State) : Prop :=
  ∃ u, EndsWith { y with
        s := y.s.fresh.2
        g := { y.g with ord := { y.g.ord with holds := y.g.ord.holds ++ y.accHolds f sp sync } } } f.sched [] noWrite y.stepped u ∧
    exec i s = .next (go (u.addAccess (y.accRec f sp sync isSc ans)) (y.accInfo f sync))

/-! ### Matrix requests -/

/-- An instruction posts a tile operation for its group's team, and a guard keeps what the registers it reads hold until the
request has read them (11 R306, R310, R320). -/
def PostsOp (i : Instr) (s : State) (x : Ix) (f : FmtR) (op : TileOp) (strict : Bool) (regs : List Nat) : Prop :=
  ∃ u, EndsWith { x with s := x.s.fresh.2 } f.sched [] noWrite x.stepped u ∧
    (∀ t, u.team? x.t.id = some t →
      (t.group x.cur.group).guards = if regs = [] then x.g.guards else x.g.guards ++ [x.mkGuard x.s.fresh.1 strict regs]) ∧
    exec i s = .next (u.postRequest x.cur.core {
      id := x.s.fresh.1, team := x.t.id, group := x.cur.group, passes := [], op := some op, ctr := setCtr f.sched, pc := x.cur.pc,
      prio := x.t.desc.prio, age := 0, frags := [], acc := none })

/-- An instruction posts a tile operation whose end is that of an access (11 R306, R320, R324). -/
def PostsAcc (i : Instr) (s : State) (x : Ix) (f : FmtR) (op : TileOp) (dst : AccDst) (isLoad isStore sc : Bool) (scope : Scope)
    (ans : List LaneAns) : Prop :=
  let r := x.s.fresh
  let q := r.2.fresh
  ∃ u, EndsWith { x with
        s := q.2
        g := { x.g with ord := { x.g.ord with holds := x.g.ord.holds ++ if sc then [Hold.answer q.1] else [] } } } f.sched []
      noWrite x.stepped u ∧
    exec i s = .next ((u.addAccess {
        id := q.1, team := x.t.id, group := x.cur.group, pc := x.cur.pc, ctr := setCtr f.sched, dst := dst, active := x.active,
        sync := sc, isSc := sc, isLoad := isLoad, isStore := isStore, scope := scope, answers := ans, open_ := [r.1],
        effect := 0, followed := false }).postRequest x.cur.core {
      id := r.1, team := x.t.id, group := x.cur.group, passes := [], op := some op, ctr := none, pc := x.cur.pc,
      prio := x.t.desc.prio, age := 0, frags := [], acc := some q.1 })

/-! ### Engine jobs -/

/-- An instruction posts the job of a plan: its promise goes to DST, and the job joins its core's channel (12 R334, R335). -/
def PostsJob (i : Instr) (s : State) (x : Ix) (f : FmtX) (p : JobPlan) (far : Bool) : Prop :=
  let die := dieOf x.cur.core
  let ch := coreChan x.cur.core
  let j := p.job x.s.fresh.1 x.t x.cur.core
  let prom := x.s.promise die ch j.bytes (if far then promisePath true false else x.s.globalPath j)
  let j := { j with prom := prom }
  ∃ u, Ends { x with s := x.s.fresh.2 } f.r.sched (x.wr x.active f.r.dst fun _ => prom) x.stepped u ∧
    exec i s = .next ((u.addJob j).promised j j.bar.toList (p.dir = 1 || far))

/-! ### Firmware commands -/

/-- A command stands at HEAD of its function's command queue, nothing keeps firmware from it, its completion record can be
written, and its packet's reserved bytes are zero; `u` is the state with HEAD past the packet (18 R456 to R461). -/
def Commanded (s : State) (h : CmdHdr) (i : Instr) (u : State) : Prop :=
  ∃ b a k, s.atHead h .cmd i = some b ∧ s.cplaAt h = .at_ a k ∧ cmdClean b = true ∧
    u = (s.pastPacket h.fn .cmd b).markSeen h.fn (byteAt b 0)

/-- The command completes from the state `v` with a status and a result, and its queue is polled again. -/
def Answers (i : Instr) (s : State) (h : CmdHdr) (v : State) (status result : Nat) : Prop :=
  exec i s = .next ((v.finishCmd h status result).pollQueue h.fn .cmd)

/-- The command goes on in the background from the state `v`, and its queue is polled again. -/
def AnswersLater (i : Instr) (s : State) (h : CmdHdr) (v : State) : Prop := exec i s = .next (v.pollQueue h.fn .cmd)

/-! ### Packets -/

/-- A packet of a type arrives at a port whose link is up, and is delivered to a chip (16 R413 to R415, 15 R412). -/
def Delivered (s : State) (port : BitVec 5) (p : Packet) (ty lci : Nat) : Prop :=
  p.type.toNat = ty ∧ (port.toNat < 16 → (s.die port.toNat).port.up = true) ∧ s.ingress port.toNat p = .deliver lci

/-- The event of a delivered packet gives the state `v`, with its bytes counted for the chip (17 R451). -/
def Served (i : Instr) (s : State) (port : BitVec 5) (p : Packet) (lci : Nat) (v : State) : Prop :=
  exec i s = .next (v.count (portDie port.toNat) lci 0xB (32 * (1 + p.beats.length)))

end Sys2Proof.Machine
end

