-- ==== Sys2Proof/Certificates/Slice0/Obligations.lean ====
section
/-! DEFINITION. The statements about the model, by part of the machine. Each says in its docstring what it formalises. -/

open Sys2Proof Sys2Proof.Machine

/-! ### The machine as a whole -/

/-- 05 R169, R170, 06 R183, R186, R203: a step in which a group issues runs the instruction that the slot at its least PC
decodes to, with the issue latch naming the group and its lanes at that PC, then ends or carries on the run, and then lets
time pass; a step of an event runs it. -/
def Obligations.StepRunsDecoded : Prop :=
  (∀ (s u v w : State) (r : List Turn) (t : Team) (core n : Nat) (l : Line) (q : Record) (i : Instr),
    s.agenda = .issue t.id n :: r → s.hub.power = .p0 →
    let s0 := { s with agenda := r }
    let g := t.group n
    let m := g.minPc g.readyMask
    let word := l.slot (pcSlot m)
    s0.team? t.id = some t → t.core? = some core → t.groupFree n true = true → g.run.isSome = true →
    s0.fetchLine core t.id.lci (pcLine m) = .line l u → u.lineCause core t.id.lci (pcLine m) l = none →
    l.pair (pcSlot m) = false → l.isData (pcSlot m) = false → lineLets g l m = true → lineRoom g l m = true →
    waitCause g l m = none →
    let u1 := u.modGroup t.id n fun g => g.waited (Sched.ofWord word)
    (if isFormatX (slotOp word) then u1.readRecord core t.id.lci l m = .rec_ q v else q = 0 ∧ v = u1) →
    decode word q = .ok i → i.WellFormed = true →
    let c : Cur := {
      team := t.id, group := n, core := core, pc := BitVec.ofNat 64 m, next := BitVec.ofNat 64 (v.seqPc core t.id.lci l m),
      issued := g.issuedMask, line := BitVec.ofNat 64 (pcLine m), first := false }
    exec i { v with cur := some c } = .next w → step s = .next (afterRun { v with cur := some c } w c i l m 1).settle) ∧
  (∀ (s t : State) (r : List Turn) (i : Instr), s.agenda = .event i :: r → s.hub.power.lets (Instr.eventKind i) = true →
    exec i ({ s with agenda := r } : State).clearHeld = .next t → step s = .next t.settle)

/-- 18 R463, 05 R158, Table 5.1, 03 R95, R98, R101, R109, 09 R271, 07 R219: after reset the module is without power and
holds no chip, no team and no work, and its memory is in canonical form with nothing listed; a team that starts has every lane
READY at its role's entry point, registers, predicates, counters, scratchpad, accumulators and tags at zero, its windows closed, and
its seeds as R219 gives them. -/
def Obligations.ResetAndTeamStart : Prop :=
  (let s := State.reset
   s.hub.power = .off ∧ s.chips = [] ∧ s.teams = [] ∧ s.traffic = Traffic.init ∧ s.mem = [] ∧ memWf s.mem = true ∧ s.Settled) ∧
  (∀ (id : TeamId) (pchip lq rank size order core slot base : Nat) (d : Desc) (k l : Nat), k < d.groupCount → l < 32 →
    let t := Team.start id pchip lq d rank size order core slot base
    let g := t.group k
    (g.lane l).pc = (d.roleOf k).entry ∧ (g.lane l).st = .ready ∧ (g.lane l).preds = 0 ∧
      (g.lane l).seed = srSeed d.seed id.index k l ∧ (∀ n, n < 263 → g.key l n = 0) ∧ g.alloc = 8 * (((d.roleOf k).nregs + 7) / 8) ∧
      (∀ j, smGet 0 g.ord.sb j = 0 ∧ smGet 0 g.ord.pend j = 0) ∧ g.region = [] ∧ g.trap.handler = false ∧
      (∀ n, smGet 0 t.spad n = 0 ∧ smGet 0 t.acc n = 0) ∧ (∀ n, (t.window n).isOpen = false ∧ (t.window n).held = false) ∧
      (∀ j, j < 8 → t.convReg j = {
        gmask := BitVec.ofNat 32 (2 ^ d.groupCount - 1), lmask := 0xFFFFFFFF, signed := 0, phase := 0, contribs := [] }) ∧
      t.tags = [] ∧ t.qflags = 0)

/-- 04 R123, R127, 05 R168, R177, 13 R367 (the model's log 4 says when): after every step no group keeps a hold that has ended, and a group
that runs nothing and is not eligible counts its wait from now. -/
def Obligations.EveryStepSettles : Prop := ∀ (s t : State), step s = .next t → t.Settled

/-- 02 R51, 03 R87, R92, R114, 04 R120, R155: bytes that hardware or firmware writes within a line of class RC or SC read
back from the bank's line, which completes the store after its latest lease, holds its sectors dirty and counts as written by
firmware; every other byte reads as before, and memory, teams, cores, chips and work in flight are as they were. In a hole the
bytes are discarded and reported. -/
def Obligations.LineWritesReadBack : Prop :=
  ∀ (s : State) (lci mpa : Nat) (l : List Byte),
    mpa % 128 + l.length ≤ 128 →
    let b := s.lineFor lci (mpa / 128) .rc
    let r := s.pokeLine lci mpa l .rc
    (s.hole mpa = true → r = (s.postPf 0x0022 (mpa / 128 * 128) lci, s.gtc)) ∧
    (s.hole mpa = false → b.data.length = 128 → (b.cls = .rc ∨ b.cls = .sc) →
      ((s.bankLine? lci (mpa / 128)).isSome = true ∨ ∀ n, s.bankOf lci (mpa / 128 * 128) = some n → s.bankFull n = false) →
      r.1.peekLine lci mpa l.length = l ∧
        (∀ a k, a % 128 + k ≤ 128 → (a + k ≤ mpa ∨ mpa + l.length ≤ a) → r.1.peekLine lci a k = s.peekLine lci a k) ∧
        r.2 = max s.gtc (if b.lv = true then b.lexp else 0) + 4 ∧
        (∃ c, r.1.bankLine? lci (mpa / 128) = some c ∧ c.cls = b.cls ∧ c.wfw = true ∧ c.wpod = 0 ∧ r.2 ≤ c.cbusy ∧
          ∀ k, k < l.length → c.dirty.getLsbD ((mpa % 128 + k) / 32) = true) ∧
        r.1.mem = s.mem ∧ r.1.teams = s.teams ∧ r.1.cores = s.cores ∧ r.1.chips = s.chips ∧ r.1.traffic = s.traffic ∧
        r.1.hub = s.hub ∧ r.1.gtc = s.gtc)

/-! ### Encoding -/

/-- 06 R188 to R203: decoding the words of a well-formed instruction gives it back, whatever its operands. -/
def Obligations.DecodeOfEncode : Prop :=
  ∀ (i : Instr) (w : IWord) (r : Record), i.WellFormed = true → encode i = some (w, r) → decode w r = .ok i

/-- 06 R201 to R203: a word that decodes is the word of what it decodes to, which is well-formed, and its record slots are
those of the instruction where its format has any: no bit of a word is ignored, and no word has two meanings. -/
def Obligations.EncodeOfDecode : Prop :=
  ∀ (i : Instr) (w : IWord) (r : Record), decode w r = .ok i →
    i.WellFormed = true ∧ ∃ q, encode i = some (w, q) ∧ (isFormatX (slotOp w) = true → q = r)

/-- 06 R188: a word that decodes carries OP, FN and DST of its instruction and its scheduling fields in the bits of Table
6.4; SET = 6, and PN = 1 with PG = 7, are reserved; and of the issued lanes exactly those take part whose guard is true. -/
def Obligations.CommonFieldsAndGuard : Prop :=
  ∀ (w : IWord) (r : Record) (i : Instr), decode w r = .ok i →
    (∃ op fn b, i.form = some (op, fn, b) ∧ w.extractLsb' 88 8 = op ∧ w.extractLsb' 84 4 = fn ∧
      w.extractLsb' 56 10 = (match b with | .r f => f.dst.code | .i f => f.dst.code | .m f => f.dst.code | .x f => f.r.dst.code)) ∧
    i.sched.stall = w.extractLsb' 80 4 ∧ (i.sched.fin = true ↔ w.extractLsb' 79 1 = 1#1) ∧ i.sched.pg = w.extractLsb' 76 3 ∧
    (i.sched.pn = true ↔ w.extractLsb' 75 1 = 1#1) ∧ i.sched.set = w.extractLsb' 72 3 ∧ i.sched.wait = w.extractLsb' 66 6 ∧
    w.extractLsb' 72 3 ≠ 6#3 ∧ ¬ (w.extractLsb' 76 3 = 7#3 ∧ w.extractLsb' 75 1 = 1#1) ∧
    ∀ (g : Group) (free l : Nat) (issued : Mask), l < 32 →
      ((g.guardMask free issued i.sched).getLsbD l = true ↔ issued.getLsbD l = true ∧
        ((i.sched.pg = 7 ∧ i.sched.pn = false) ∨
          (i.sched.pg ≠ 7 ∧ ((i.sched.pn = false ∧ g.see free l (predKey i.sched.pg.toNat) ≠ 0) ∨
            (i.sched.pn = true ∧ g.see free l (predKey i.sched.pg.toNat) = 0)))))

/-- Words of the spec's worked encodings decode to what they stand for (06, 08, 09, 10, 11, 20, 21). -/
def Obligations.WorkedEncodingsDecode : Prop :=
  (∃ f, decode 0x108077000400800000000440#96 0 = .ok (.iaddI f) ∧ f.dst = .v 4 ∧ f.sa = .v 2 ∧ f.imm = 17) ∧
    (∃ f, decode 0x4000F700050188C070020000#96 0 = .ok (.fadd f) ∧ f.dst = .v 5 ∧ f.sa = .v 6 ∧ f.perm = .butterfly 3 ∧ f.sb = .v 7 ∧
      f.sched.fin = true) ∧
    (∃ f, decode 0x420077000A006140200E1000#96 0 = .ok (.ffma f) ∧ f.dst = .v 10 ∧ f.sa = .v 1 ∧ f.perm = .broadcast 5 ∧
      f.sb = .v 2 ∧ f.sc = .v 3 ∧ f.rm = .rz) ∧
    (∃ f, decode 0x030077010C00000000000680#96 0 = .ok (.call f) ∧ f.dst = .d 12 ∧ f.imm = 0x1A) ∧
    (∃ f, decode 0x902077000840913090000400#96 0 = .ok (.ld .b32 f) ∧ f.dst = .v 8 ∧ f.sa = .d 2 ∧ f.scope = .die ∧ f.ord = .acq ∧
      f.sb = .p 1 ∧ f.ofs = 64) ∧
    (∃ f, decode 0xD10070022280002010A38309#96 0 = .ok (.mmaq f) ∧ f.dst = .a 2 ∧ f.sa = .t 0 ∧ f.sb = .t 1 ∧ f.sc = .v 40 ∧
      f.ty = .q4 ∧ f.mod = 0x309) ∧
    (∃ f, decode 0x8D0077000300800010000000#96 0 = .ok (.perm f) ∧ f.dst = .v 3 ∧ f.sa = .v 2 ∧ f.sb = .v 1) ∧
    (∃ f, decode 0x94003F000740803000000000#96 0 = .ok (.pgreq f) ∧ f.dst = .v 7 ∧ f.sa = .d 2 ∧ f.sched.pg = 3 ∧ f.sched.pn = true) ∧
    (∃ f, decode 0x070017000042000000004040#96 0 = .ok (.trapSvc f) ∧ f.sa = .d 8 ∧ f.imm = 0x101)

/-! ### Integer, logic and bit instructions -/

/-- 08 R237: integer and address arithmetic. Each active lane reads its operands in TY, the exact result is narrowed to TY,
and the lane's destination takes it; nothing else changes. -/
def Obligations.IntegerArithmetic : Prop :=
  ∀ (f : FmtR) (g : FmtI),
    let r := fun (v : Int) => iwrite f.ty f.sat v
    let q := fun (v : Int) => iwrite g.ty false v
    let a := fun (y : Args) => iread f.ty y.a
    let b := fun (y : Args) => iread f.ty y.b
    let c := fun (y : Args) => iread f.ty y.c
    let ai := fun (y : Args) => iread g.ty y.a
    let n := iread g.ty (immOf g.ty g.imm)
    Computes (.iadd f) (opsR2 f) (fun _ y => r (a y + b y)) ∧ Computes (.iaddI g) (opsI1 g) (fun _ y => q (ai y + n)) ∧
      Computes (.iadd3 f) (opsR3 f) (fun _ y => r (a y + b y + c y)) ∧
      Computes (.isub f) (opsR2 f) (fun _ y => r (a y - b y)) ∧ Computes (.isubI g) (opsI1 g) (fun _ y => q (ai y - n)) ∧
      Computes (.imul f) (opsR2 f) (fun _ y => r (a y * b y)) ∧ Computes (.imulI g) (opsI1 g) (fun _ y => q (ai y * n)) ∧
      Computes (.imulh f) (opsR2 f) (fun _ y => r (a y * b y / 2 ^ 32)) ∧
      Computes (.imulhI g) (opsI1 g) (fun _ y => q (ai y * n / 2 ^ 32)) ∧
      Computes (.imad f) (opsR3 f) (fun _ y => r (a y * b y + c y)) ∧
      Computes (.imadw f) (opsR3 f) (fun _ y => iwrite (wideOf f.ty) f.sat (a y * b y + iread (wideOf f.ty) y.c)) ∧
      Computes (.imin f) (opsR2 f) (fun _ y => r (min (a y) (b y))) ∧ Computes (.iminI g) (opsI1 g) (fun _ y => q (min (ai y) n)) ∧
      Computes (.imax f) (opsR2 f) (fun _ y => r (max (a y) (b y))) ∧ Computes (.imaxI g) (opsI1 g) (fun _ y => q (max (ai y) n)) ∧
      Computes (.iabs f) (opsR1 f) (fun _ y => r |a y|) ∧ Computes (.ineg f) (opsR1 f) (fun _ y => r (- a y)) ∧
      Computes (.lea f) (opsR2 f) (fun _ y => r (a y + b y * 2 ^ modField f.mod 0 5)) ∧
      Computes (.leaI g) (opsI1 g) (fun _ y => q (ai y + n)) ∧
      Computes (.leaw f) (opsR2 f) (fun _ y => wrapNat 64 ((y.a : Int) + b y * 2 ^ modField f.mod 0 5)) ∧
      Computes (.leawI g) (opsI1 g) (fun _ y => wrapNat 64 ((y.a : Int) + iread g.ty g.imm.toNat))

/-- 07 R215, Table 7.2: an exact result is narrowed to its type, modulo 2^w without SAT and clamped to the type's range with
it; a 64-bit value lies in a pair with its low word in the even register, a narrower one in the low bits of its register, and
packed element 0 in bits 15 to 0. -/
def Obligations.NarrowingWrapsOrClamps : Prop :=
  (∀ (t : Ty) (w : Nat) (lo hi x : Int) (v : Nat),
    (t, w, lo, hi) ∈ ([(.i8, 8, -128, 127), (.n8, 8, 0, 255), (.i16, 16, -32768, 32767), (.n16, 16, 0, 65535),
      (.i32, 32, -2 ^ 31, 2 ^ 31 - 1), (.n32, 32, 0, 2 ^ 32 - 1), (.i64, 64, -2 ^ 63, 2 ^ 63 - 1),
      (.n64, 64, 0, 2 ^ 64 - 1)] : List (Ty × Nat × Int × Int)) →
    (iread t (iwrite t false x) - x) % 2 ^ w = 0 ∧ iread t (iwrite t true x) = max lo (min hi x) ∧
      lo ≤ iread t v ∧ iread t v ≤ hi ∧ (iread t v - v) % 2 ^ w = 0) ∧
  (∀ (x : Ix) (l v : Nat) (n : BitVec 7),
    let k := x.t.desc.vwv / 4 + 2 * n.toNat
    x.dst l (.d n) v = [{ lane := l, key := k, val := BitVec.ofNat 32 v },
        { lane := l, key := k + 1, val := BitVec.ofNat 32 (v / 2 ^ 32) }] ∧
      x.rd l (.d n) = x.reg l k + 2 ^ 32 * x.reg l (k + 1)) ∧
  (∀ (lo hi : Nat), half (pair16 lo hi) 0 = lo % 2 ^ 16 ∧ half (pair16 lo hi) 1 = hi % 2 ^ 16 ∧
    pair16 lo hi % 2 ^ 16 = lo % 2 ^ 16)

/-- 08 R238: logic, shift and bit instructions over 32-bit patterns. -/
def Obligations.LogicAndBits : Prop :=
  ∀ (f : FmtR) (g : FmtI),
    let n := g.imm.toNat
    let a2 := opsR2 f
    let a3 := opsR3 f
    let i1 := opsI1 g
    Computes (.and f) a2 (fun _ y => y.a &&& y.b) ∧ Computes (.andI g) i1 (fun _ y => y.a &&& n) ∧
      Computes (.or f) a2 (fun _ y => y.a ||| y.b) ∧ Computes (.orI g) i1 (fun _ y => y.a ||| n) ∧
      Computes (.xor f) a2 (fun _ y => y.a ^^^ y.b) ∧ Computes (.xorI g) i1 (fun _ y => y.a ^^^ n) ∧
      Computes (.lut3 f) a3 (fun _ y => lut3Word (modField f.mod 0 8) y.a y.b y.c) ∧
      Computes (.shl f) a2 (fun _ y => shlVal y.a y.b) ∧ Computes (.shlI g) i1 (fun _ y => shlVal y.a n) ∧
      Computes (.shr f) a2 (fun _ y => shrVal y.a y.b) ∧ Computes (.shrI g) i1 (fun _ y => shrVal y.a n) ∧
      Computes (.sar f) a2 (fun _ y => sarVal y.a y.b) ∧ Computes (.sarI g) i1 (fun _ y => sarVal y.a n) ∧
      Computes (.shf f) a3 (fun _ y => shfVal (modBit f.mod 0) y.a y.b y.c) ∧
      Computes (.rotl f) a2 (fun _ y => rotlVal y.a y.b) ∧ Computes (.rotlI g) i1 (fun _ y => rotlVal y.a n) ∧
      Computes (.bfe f) a2 (fun _ y => bfeVal (f.ty == .i32) y.a y.b) ∧ Computes (.bfeI g) i1 (fun _ y => bfeVal (g.ty == .i32) y.a n) ∧
      Computes (.bfi f) a3 (fun _ y => bfiVal y.a y.b y.c) ∧ Computes (.popc f) (opsR1 f) (fun _ y => popcVal y.a) ∧
      Computes (.clz f) (opsR1 f) (fun _ y => clzVal y.a) ∧ Computes (.brev f) (opsR1 f) (fun _ y => brevVal y.a) ∧
      Computes (.prmt f) a3 (fun _ y => prmtVal y.a y.b y.c)

/-- 08 R238, Table 8.3: the values of the shift and bit functions, against Lean's own operations on 32-bit patterns; counts are
compared, never masked, except by ROTL. -/
def Obligations.BitFunctions : Prop :=
  ∀ (a b : Word) (k : Nat) (i : Fin 32),
    shlVal a.toNat b.toNat = (a <<< b.toNat).toNat ∧ shrVal a.toNat b.toNat = (a >>> b.toNat).toNat ∧
      sarVal a.toNat b.toNat = (a.sshiftRight b.toNat).toNat ∧ rotlVal a.toNat k = (a.rotateLeft k).toNat ∧
      (clzVal a.toNat = 32 ↔ a = 0) ∧ (a ≠ 0 → 2 ^ (31 - clzVal a.toNat) ≤ a.toNat ∧ a.toNat < 2 ^ (32 - clzVal a.toNat)) ∧
      (brevVal a.toNat).testBit i = a.getLsbD (31 - i) ∧
      (∀ t : Fin 256, (lut3Word t a.toNat b.toNat k).testBit i =
        t.val.testBit ((if a.getLsbD i then 1 else 0) + (if b.getLsbD i then 2 else 0) + (if k.testBit i then 4 else 0)))

/-! ### Compares, selects and predicates -/

/-- 08 R239 to R241: compares write the outcome of CMP to a predicate, ISEL selects, PLOP looks its predicates up, P2V packs
them. -/
def Obligations.ComparesAndSelects : Prop :=
  ∀ (f : FmtR) (g : FmtI),
    let m := f.mod &&& 0x21B
    Computes (.isetp f) (opsR2 f) (fun _ y => flag (intCmp (cmpOf f) (iread f.ty y.a) (iread f.ty y.b))) ∧
      Computes (.isetpI g) (opsI1 g) (fun _ y => flag (decide (iread g.ty (immOf g.ty g.imm) ≤ iread g.ty y.a))) ∧
      Computes (.isel f) (opsR3 f) (fun _ y => if y.c = 1 then y.a else y.b) ∧
      Computes (.iselI g) (opsI1 g) (fun x y => if x.g.seePred x.s.free y.lane 0 then y.a else immOf g.ty g.imm) ∧
      Computes (.fsetp f) (opsR2 f) (fun _ y => flag (floatCmp (cmpOf f) (fsrc .f32 m 0 y.a) (fsrc .f32 m 1 y.b))) ∧
      Computes (.fsetpI g) (opsI1 g) (fun _ y => flag (floatCmp 5 (fdecode .f32 y.a) (fdecode .f32 g.imm.toNat))) ∧
      Computes (.plop f) (opsR3 f) (fun _ y => flag (lutBit (modField f.mod 0 8) y.a y.b y.c)) ∧
      Computes (.p2v f) (opsR0 f) (fun x y => x.predBits y.lane)

/-! ### Floating point -/

/-- 08 R242, R243: f32 arithmetic. The sources are read with FTZ and their modifiers, the exact result is rounded once by RM or
stochastically, which steps the lane's generator; the immediate forms round by RM alone. -/
def Obligations.FloatArithmetic : Prop :=
  ∀ (f : FmtR) (g : FmtI),
    let a := fun (y : Args) => fsrc .f32 f.mod 0 y.a
    let b := fun (y : Args) => fsrc .f32 f.mod 1 y.b
    let c := fun (y : Args) => fsrc .f32 f.mod 2 y.c
    let r := fun (v : Fv) (y : Args) => roundEl .f32 f v y.seed
    let ai := fun (y : Args) => fdecode .f32 y.a
    let n := fdecode .f32 g.imm.toNat
    let q := fun (v : Fv) => roundTo .f32 v (.rm g.rm) false
    ComputesSr (.fadd f) (opsR2 f) (fun y => r (fsum (roundsDown f) [a y, b y]) y) ∧
      Computes (.faddI g) (opsI1 g) (fun _ y => q (fsum (g.rm == .rd) [ai y, n])) ∧
      ComputesSr (.fmul f) (opsR2 f) (fun y => r (fmulv (a y) (b y)) y) ∧
      Computes (.fmulI g) (opsI1 g) (fun _ y => q (fmulv (ai y) n)) ∧
      ComputesSr (.ffma f) (opsR3 f) (fun y => r (fsum (roundsDown f) [fmulv (a y) (b y), c y]) y) ∧
      ComputesSr (.fmin f) (opsR2 f) (fun y => r (fminmax false (a y) (b y)) y) ∧
      Computes (.fminI g) (opsI1 g) (fun _ y => q (fminmax false (ai y) n)) ∧
      ComputesSr (.fmax f) (opsR2 f) (fun y => r (fminmax true (a y) (b y)) y) ∧
      Computes (.fmaxI g) (opsI1 g) (fun _ y => q (fminmax true (ai y) n)) ∧
      Computes (.frnd f) (opsR1 f) (fun _ y =>
        fwriteFtz .f32 (modBit f.mod 9) (roundTo .f32 (frndVal f.rm (fread .f32 (modBit f.mod 9) y.a)) (.rm .rne) false)) ∧
      Computes (.fclass f) (opsR1 f) (fun _ y => fclassVal y.a) ∧
      ComputesSr (.fscale f) (opsR2 f) (fun y => r (fscaleVal (a y) y.b) y) ∧
      Computes (.fscaleI g) (opsI1 g) (fun _ y => q (fscaleVal (ai y) g.imm.toNat))

/-- 08 R244: packed 16-bit arithmetic: each half as the f32 instruction of the same kind, half 0 first. -/
def Obligations.PackedArithmetic : Prop :=
  ∀ (f : FmtR) (g : FmtI),
    let src := fun (k : Nat) (v h : Nat) => fsrc f.ty f.mod k (half v h)
    let r := fun (v : Args → Nat → Fv) (y : Args) => both (fun h seed => roundEl f.ty f (v y h) seed) y.seed
    let q := fun (v : Fv → Fv → Fv) (y : Args) =>
      let h := fun k => roundTo g.ty (v (fdecode g.ty (half y.a k)) (fdecode g.ty (g.imm.toNat % 65536))) (.rm g.rm) false
      pair16 (h 0) (h 1)
    ComputesSr (.hadd2 f) (opsR2 f) (r fun y h => fsum (roundsDown f) [src 0 y.a h, src 1 y.b h]) ∧
      Computes (.hadd2I g) (opsI1 g) (fun _ => q fun a b => fsum (g.rm == .rd) [a, b]) ∧
      ComputesSr (.hmul2 f) (opsR2 f) (r fun y h => fmulv (src 0 y.a h) (src 1 y.b h)) ∧
      Computes (.hmul2I g) (opsI1 g) (fun _ => q fmulv) ∧
      ComputesSr (.hfma2 f) (opsR3 f) (r fun y h => fsum (roundsDown f) [fmulv (src 0 y.a h) (src 1 y.b h), src 2 y.c h]) ∧
      ComputesSr (.hmin2 f) (opsR2 f) (r fun y h => fminmax false (src 0 y.a h) (src 1 y.b h)) ∧
      Computes (.hmin2I g) (opsI1 g) (fun _ => q (fminmax false)) ∧
      ComputesSr (.hmax2 f) (opsR2 f) (r fun y h => fminmax true (src 0 y.a h) (src 1 y.b h)) ∧
      Computes (.hmax2I g) (opsI1 g) (fun _ => q (fminmax true))

/-- 08 R245 to R247: the special functions and the conversions. -/
def Obligations.SpecialFunctionsAndConversions : Prop :=
  ∀ (f : FmtR),
    let ftz := modBit f.mod 9
    let fn := fun (k : Sfu) (y : Args) =>
      fwriteFtz .f32 ftz (sfuEval k (fwriteFtz .f32 ftz (y.a % 2 ^ 32)) (fdecode .f32 (fwriteFtz .f32 ftz (y.a % 2 ^ 32))))
    let w := 8 * Accept.tyBytes f.ty
    let el := fun (y : Args) => bits y.a (w * modField f.mod 0 2) w
    Computes (.rcp f) (opsR1 f) (fun _ => fn .rcp) ∧ Computes (.rsq f) (opsR1 f) (fun _ => fn .rsq) ∧
      Computes (.sqrt f) (opsR1 f) (fun _ => fn .sqrt) ∧ Computes (.ex2 f) (opsR1 f) (fun _ => fn .ex2) ∧
      Computes (.lg2 f) (opsR1 f) (fun _ => fn .lg2) ∧ Computes (.sin f) (opsR1 f) (fun _ => fn .sin) ∧
      Computes (.cos f) (opsR1 f) (fun _ => fn .cos) ∧ Computes (.tanh f) (opsR1 f) (fun _ => fn .tanh) ∧
      ComputesSr (.cvt f) (opsR1 f) (fun y =>
        if Accept.isFloat f.ty then roundEl f.ty f (fread (cvtFrom f) ftz y.a) y.seed
        else (iwrite f.ty f.sat (iread (cvtFrom f) y.a), y.seed)) ∧
      Computes (.f2i f) (opsR1 f) (fun _ y => floatToInt f.ty f.rm (fread (cvtFrom f) ftz y.a)) ∧
      ComputesSr (.i2f f) (opsR1 f) (fun y => roundEl f.ty f (Fv.ofInt (iread (cvtFrom f) y.a)) y.seed) ∧
      ComputesSr (.pack f) (if Accept.tyBytes f.ty = 2 then opsR2 f else opsR3 f) (fun y =>
        (packJoin f (packEl f y.a y.seed).1 (packEl f y.b (packEl f y.a y.seed).2).1 y.c,
          (packEl f y.b (packEl f y.a y.seed).2).2)) ∧
      Computes (.unpk f) (opsR1 f) (fun _ y =>
        if Accept.isFloat f.ty then roundTo .f32 (fdecode f.ty (el y)) (.rm .rne) false else iwrite .i32 false (iread f.ty (el y)))

/-! ### Moves and group operations -/

/-- 08 R248, R250, R251: moves, and the operations over the active lanes of one issue. -/
def Obligations.MovesAndGroupOperations : Prop :=
  ∀ (f : FmtR) (g : FmtI),
    let vals := fun (x : Ix) => (lanesOf x.active).map fun l => (x.args (opsR1 f) l).a
    let holders := fun (x : Ix) (v : Nat) => (maskOf ((lanesOf x.active).filter fun m => (x.args (opsR1 f) m).a == v)).toNat
    let upTo := fun (x : Ix) (l : Nat) =>
      ((lanesOf x.active).filter fun m => if modBit f.mod 3 then decide (m < l) else decide (m ≤ l)).map fun m => (x.args (opsR1 f) m).a
    Computes (.mov f) (opsR1 f) (fun _ y => y.a) ∧ Computes (.movi g) (opsI0 g) (fun _ _ => g.imm.toNat) ∧
      Computes (.movd f) (opsR1 f) (fun _ y => y.a) ∧
      (modField f.mod 0 2 = 0 → Computes (.vote f) (opsR1 f) (fun x _ => flag ((vals x).all fun v => v == 1))) ∧
      (modField f.mod 0 2 = 1 → Computes (.vote f) (opsR1 f) (fun x _ => flag ((vals x).any fun v => v == 1))) ∧
      (modField f.mod 0 2 = 2 → Computes (.vote f) (opsR1 f) (fun x _ =>
        flag ((vals x).all (fun v => v == 1) || (vals x).all (fun v => v == 0)))) ∧
      (modField f.mod 0 2 = 3 → Computes (.vote f) (opsR1 f) (fun x _ => holders x 1)) ∧
      Computes (.matchv f) (opsR1 f) (fun x y => holders x (x.args (opsR1 f) y.lane).a) ∧
      Computes (.redux f) (opsR1 f) (fun x _ => reduceVals (modField f.mod 0 3) f.ty f.rm f.sat (vals x)) ∧
      Computes (.scan f) (opsR1 f) (fun x y => reduceVals (modField f.mod 0 3) f.ty f.rm f.sat (upTo x y.lane)) ∧
      Computes (.first f) (opsR1 f) (fun x _ => (x.args (opsR1 f) ((lanesOf x.active).headD 0)).a)

/-- 08 R240, R241, R251, 06 R190: HSETP2 writes the outcome of half 0 to the named predicate and of half 1 to the next; V2P
writes each predicate of MOD[6:0] from its bit of SA; PERM gives each active lane SA of the lane that SB and MOD name. -/
def Obligations.PredicatePairsAndPerm : Prop :=
  (∀ (f : FmtR) (g : FmtI) (s : State) (x : Ix),
      let cmp := fun (c : Nat) (t : Ty) (m : BitVec 11) (a b h : Nat) =>
        flag (floatCmp c (fsrc t m 0 (half a h)) (fsrc t m 1 (half b h)))
      let out := fun (h l : Nat) => cmp (cmpOf f) f.ty (f.mod &&& 0x21B) (x.args (opsR2 f) l).a (x.args (opsR2 f) l).b h
      let outI := fun (h l : Nat) => cmp 5 g.ty 0 (x.args (opsI1 g) l).a (immPair g.imm) h
      (Latched s f.sched x → x.operandTrap (x.sources (opsR2 f)) (x.t.desc.regsOf f.dst) = none →
        ∃ t, exec (.hsetp2 f) s = .next t ∧
          Ends x f.sched (orWrite (x.wr x.active f.dst (out 0)) (x.wr x.active (predNext f.dst) (out 1))) x.stepped t) ∧
      (Latched s g.sched x → x.operandTrap (x.sources (opsI1 g)) (x.t.desc.regsOf g.dst) = none →
        ∃ t, exec (.hsetp2I g) s = .next t ∧
          Ends x g.sched (orWrite (x.wr x.active g.dst (outI 0)) (x.wr x.active (predNext g.dst) (outI 1))) x.stepped t) ∧
      (Latched s f.sched x → x.operandTrap (x.sources (opsR1 f)) [] = none →
        ∃ t, exec (.v2p f) s = .next t ∧
          Ends x f.sched (fun l k =>
            if x.active.getLsbD l = true ∧ 256 ≤ k ∧ (modField f.mod 0 7).testBit (k - 256) = true then
              some (if (x.args (opsR1 f) l).a.testBit (k - 256) then 1 else 0)
            else none) x.stepped t)) ∧
  (∀ (f : FmtR) (s : State) (x : Ix),
      let src := fun (l : Nat) => f.perm.from (x.rd l f.sb % 32)
      Latched s f.sched x →
      x.operandTrap (((x.t.desc.regsOf f.sa).map fun n => (n, maskOf ((lanesOf x.cur.issued).map src))) ++
        x.own (x.t.desc.regsOf f.sb)) (x.t.desc.regsOf f.dst) = none →
      ∃ t, exec (.perm f) s = .next t ∧ Ends x f.sched (x.wr x.active f.dst fun l => x.rd (src l) f.sa) x.stepped t)

/-- 08 R249, 05 R162: RGET reads, and RSET writes, the register-space address that SA holds in each active lane: a lane
register, or an accumulator element, where RSET takes the lanes in rising order. A poisoned element is not read. -/
def Obligations.ComputedRegisterAccess : Prop :=
  ∀ (f : FmtR) (s : State) (x : Ix), Latched s f.sched x →
    let adr := fun (l : Nat) => (x.args (opsR1 f) l).a
    let poisoned := x.active &&& maskWhere fun l =>
      decide (0x10000 ≤ adr l) && smGet false x.t.accPoison ((adr l - 0x10000) / 4)
    let value := fun (l : Nat) => if adr l < 0x10000 then x.reg l (adr l / 4) else (smGet 0 x.t.acc ((adr l - 0x10000) / 4)).toNat
    (x.operandTrap (x.sources (opsR1 f)) (x.t.desc.regsOf f.dst) = none → x.regSpaceTrap adr = none →
      x.computedTrap adr false = none → poisoned = 0 →
      ∃ t, exec (.rget f) s = .next t ∧ Ends x f.sched (x.wr x.active f.dst value) x.stepped t) ∧
    (x.operandTrap (x.sources (opsR2 f)) [] = none → x.regSpaceTrap adr = none → x.computedTrap adr true = none →
      ∃ t, exec (.rset f) s = .next t ∧
        Ends (x.withTeam (((lanesOf x.active).filter fun l => decide (0x10000 ≤ adr l)).foldl
            (fun t l => t.setAcc ((adr l - 0x10000) / 4) (BitVec.ofNat 32 (x.rd l f.sb))) x.t)) f.sched
          (fun l k => if x.active.getLsbD l = true ∧ adr l < 0x10000 ∧ k = adr l / 4 then some (BitVec.ofNat 32 (x.rd l f.sb)) else none)
          x.stepped t)

/-- 11 R326 to R329, 07 R221 to R229: QSCALE gives every active lane the scale byte of the issue's block; QNT the codes, with
its flags and its outlier entries; DQNT the decoded value. -/
def Obligations.QuantisationInstructions : Prop :=
  ∀ (f : FmtR) (s : State) (x : Ix), Latched s f.sched x → x.active ≠ 0 →
    let q8 := f.ty == .q8
    let clip := modBit f.mod 3
    let ops := if clip then opsR2 f else opsR1 f
    let block := (x.block f.sa).map (fdecode .f32)
    let scale := encodeBlock q8 (if modBit f.mod 2 then none else some (modField f.mod 0 2)) none
      (if clip then some (fdecode .f32 (x.rd x.low f.sb)) else none) block
    let list := x.regsNat x.low (x.t.desc.regsFrom f.sc 2) % 2 ^ 32
    let q := qntBlock q8 (x.rd x.low f.sb % 256) x.t list (x.regsNat x.low (x.t.desc.regsFrom f.sc 2) / 2 ^ 32) (x.block f.sa)
    (x.operandTrap (x.sources ops) (x.t.desc.regsOf f.dst) = none →
      ∃ t, exec (.qscale f) s = .next t ∧
        Ends (x.withTeam (x.t.raiseFlags false scale.invalid)) f.sched (x.wr x.active f.dst fun _ => scale.scale) x.stepped t) ∧
    (x.operandTrap (x.sources (opsR2 f) ++ x.own (x.t.desc.regsFrom f.sc 2)) (x.t.desc.regsOf f.dst) = none →
      (list = 0xFFFFFFFF ∨ x.t.listCause list = none) →
      ∃ t, exec (.qnt f) s = .next t ∧
        Ends (x.withTeam ({ x.t with spad := q.1.spad }.raiseFlags q.1.full q.2)) f.sched
          (x.wr x.active f.dst fun l => qntWord q8 (modBit f.mod 4) q.1.codes l) x.stepped t) ∧
    (x.operandTrap (((x.t.desc.regsOf f.sa).map fun n => (n, dqntLanes f x.cur.issued)) ++ x.own (x.t.desc.regsOf f.sb))
        (x.t.desc.regsOf f.dst) = none →
      ∃ t, exec (.dqnt f) s = .next t ∧
        Ends x f.sched (x.wr x.active f.dst fun l =>
          roundTo .f32 (blockDecode q8 (x.rd x.low f.sb % 256) (x.dqntCode f l)) (.rm .rne) false) x.stepped t)

/-! ### Control -/

/-- 09 R255 to R258, R274, 05 R167, R172: NOP only advances, REGION stages the registers it names, YIELD makes the issued lanes
wait; EXIT ends its active lanes once the causes held for them are delivered, and then every convergence register is
evaluated again; SLEEPT makes its active lanes wait for a time or for the barrier it names. -/
def Obligations.LanesAdvanceWaitAndEnd : Prop :=
  (∀ (f : FmtR) (s : State) (x : Ix), Latched s f.sched x →
      (∃ t, exec (.nop f) s = .next t ∧ Ends x f.sched noWrite x.stepped t) ∧
      (x.beyond (x.regionRegs f) = none →
        ∃ t, exec (.region f) s = .next t ∧
          Ends { x with g := { x.g with region := if x.active = 0 then x.g.region else (x.regionRegs f).eraseDups } } f.sched noWrite
            x.stepped t) ∧
      (x.active ≠ 0 →
        ∃ t, exec (.yield f) s = .next t ∧
          Ends x f.sched noWrite
            (fun l => if x.cur.issued.getLsbD l then { x.stepped l with st := .waiting, wait := some .yield } else x.stepped l) t)) ∧
  (∀ (f : FmtR) (s : State) (x : Ix), Latched s f.sched x → x.active ≠ 0 → x.boundary true = none →
      ∃ u, Ends x f.sched noWrite
          (fun l => if x.active.getLsbD l then { x.stepped l with st := .exited, wait := none } else x.stepped l) u ∧
        exec (.exit f) s = .next (u.evalPhases x.t.id x.cur.core)) ∧
  (∀ (f : FmtR) (s : State) (x : Ix), Latched s f.sched x → x.active ≠ 0 →
      x.operandTrap (x.via f.perm (x.t.desc.regsOf f.sa) ++ x.own (x.t.desc.regsOf f.sb ++ x.t.desc.regsOf f.sc)) [] = none →
      let until_ := x.rdVia f.perm x.low f.sa
      let bar := x.rd x.low f.sb
      let named := if f.sb = .zero then none else some (bar, x.rd x.low f.sc % 16)
      (f.sb = .zero ∨ x.t.barCause bar = none) →
      ∃ u, Ends x f.sched noWrite
          (fun l => if x.active.getLsbD l then { x.stepped l with st := .waiting, wait := some (.sleep x.cur.pc.toNat until_ named) }
            else x.stepped l) u ∧
        (x.s.gtc < until_ → f.sb = .zero → exec (.sleept f) s = .next u) ∧
        (x.s.gtc < until_ → f.sb ≠ .zero → exec (.sleept f) s = .next (u.modTeam x.t.id fun t => t.markSleep bar)) ∧
        (until_ ≤ x.s.gtc → exec (.sleept f) s =
          .next (u.releaseSleep x.t.id x.cur.group x.cur.core x.active x.cur.pc.toNat until_ named))
  )

/-- 09 R252 to R254, 06 R184: a transfer whose targets pass their checks moves the active lanes to them, writes `seq` to its
link, and leaves the other issued lanes at `seq`; CALL, CALLX and RET end the region. -/
def Obligations.TransfersMoveLanes : Prop :=
  ∀ (f : FmtR) (g : FmtI),
    let moves := fun (i : Instr) (src : Option Opd) (link : Opd) (ends : Bool) (tgt : Ix → Nat → Nat) =>
      ∀ (s u : State) (x : Ix), Latched s i.sched x → x.operandTrap (x.own (x.regsOpt src)) (x.t.desc.regsOf link) = none →
        checkTargets x.s x.cur.core x.t.id.lci (tgt x) (lanesOf x.active) = ([], u) →
        let y := x.withState u
        ∃ t, exec i s = .next t ∧
          Ends { y with g := { y.g with region := if ends && x.active != 0 then [] else y.g.region } } i.sched
            (x.wr x.active link fun _ => x.cur.next.toNat)
            (fun l => if x.active.getLsbD l then { y.stepped l with pc := BitVec.ofNat 64 (tgt x l) } else y.stepped l) t
    moves (.bra g) none .zero false (fun x _ => x.relTarget g.imm) ∧
      moves (.brx f) (some f.sa) .zero false (fun x l => x.rd l f.sa) ∧
      moves (.call g) none g.dst true (fun x _ => x.relTarget g.imm) ∧
      moves (.callx f) (some f.sa) f.dst true (fun x l => x.rd l f.sa) ∧
      moves (.ret f) (some f.sa) .zero true (fun x l => x.rd l f.sa)

/-! ### Scratchpad, windows and tags -/

/-- 03 R98 to R108, 10 R300 to R302: the tag instructions take their active lanes one at a time in lane order: STAGL looks
up, STAGI inserts, STAGX removes; SWOPEN opens or closes windows of the own allocation, leaving held ones open and
counting them; SWCLAIM takes an open window that is not held, SWREL gives back the own one; where they cannot, the
predicate is 0. -/
def Obligations.TagAndWindowInstructions : Prop :=
  (∀ (f : FmtR) (s : State) (x : Ix), Latched s f.sched x → x.active ≠ 0 → x.t.tagCount ≠ 0 →
      x.operandTrap (x.sources (opsR2 f)) (x.t.desc.regsOf f.dst) = none →
      let key := fun (l : Nat) => x.rd (f.perm.from l) f.sa % 2 ^ 57
      let each := fun (go : Team → Nat → Team × Nat) =>
        (lanesOf x.active).foldl (fun (a : Team × List Wr) l => ((go a.1 l).1, a.2 ++ x.dst l f.dst (go a.1 l).2)) (x.t, [])
      let ins := each fun t l => t.tagInsert (key l) (x.rd l f.sb % 4096)
      let rem := each fun t l => t.tagRemove (key l)
      (∃ t, exec (.stagl f) s = .next t ∧ Ends x f.sched (x.wr x.active f.dst fun l => x.t.tagLookup (key l)) x.stepped t) ∧
        (∃ t, exec (.stagi f) s = .next t ∧ Ends (x.withTeam ins.1) f.sched (lastWrite ins.2) x.stepped t) ∧
        (∃ t, exec (.stagx f) s = .next t ∧ Ends (x.withTeam rem.1) f.sched (lastWrite rem.2) x.stepped t)) ∧
  (∀ (f : FmtR) (s : State) (x : Ix), Latched s f.sched x → x.active ≠ 0 →
      let a := x.rdVia f.perm x.low f.sa
      let n := x.rd x.low f.sb
      (x.operandTrap (x.via f.perm (x.t.desc.regsOf f.sa) ++ x.own (x.t.desc.regsOf f.sb)) (x.t.desc.regsOf f.dst) = none →
        (n = 0 ∨ (a + 128 * n ≤ x.t.spadSize ∧ a % 128 = 0)) → x.awaitRel .cluster = none →
        ∃ t, exec (.swopen f) s = .next t ∧
          Ends (x.withTeam (x.t.setOpen (a / 128) n (modBit f.mod 0))) f.sched
            (x.wr x.active f.dst fun _ => if modBit f.mod 0 then 0 else x.t.heldCount (a / 128) n) x.stepped t) ∧
      (∀ (o : Team) (ofs : Nat), x.operandTrap (x.via f.perm (x.t.desc.regsOf f.sa)) [] = none → x.t.desc.regsOf f.dst = [] →
        x.s.spadAt x.t true a 1 = some (o, ofs) →
        let w := o.window (128 * (ofs / 128))
        let keep := fun (held : Bool) (rank : Nat) =>
          x.withState (x.s.modTeam o.id fun u => u.setWindow (ofs / 128) { w with held := held, hrank := rank })
        let free := w.isOpen = true ∧ w.held = false
        let mine := w.held = true ∧ w.hrank = x.t.gangRank
        (free → x.s.readsDone x.t.id x.cur.group = true →
          ∃ t, exec (.swclaim f) s = .next t ∧
            Ends (keep true x.t.gangRank) f.sched (x.wr x.active f.dst fun _ => 1) (keep true x.t.gangRank).stepped t) ∧
          (¬ free → ∃ t, exec (.swclaim f) s = .next t ∧ Ends x f.sched (x.wr x.active f.dst fun _ => 0) x.stepped t) ∧
          (mine → x.awaitRel .cluster = none →
            ∃ t, exec (.swrel f) s = .next t ∧
              Ends (keep false 0) f.sched (x.wr x.active f.dst fun _ => 1) (keep false 0).stepped t) ∧
          (¬ mine → ∃ t, exec (.swrel f) s = .next t ∧ Ends x f.sched (x.wr x.active f.dst fun _ => 0) x.stepped t)))

/-- 10 R287, R288: loads from scratchpad and windows write the bytes they read, little endian and narrowed or sign-extended
by their size, to the active lanes' registers; stores write the low bytes of each active lane's registers, in lane order,
at the lane's effective address; LDFRAG and STFRAG move two 64-byte rows for each lane. Nothing else in memory, scratchpads
or registers changes. -/
def Obligations.ScratchpadLoadsAndStores : Prop :=
  (∀ (sz : LdSize) (f : FmtM) (s : State) (x : Ix), Latched s f.sched x →
      let win := f.asp == .window
      let lanes := x.laneReqs f sz.bytes
      let rows := x.fragRows (x.ea f x.low) (x.rd x.low f.sb)
      let words := (lanesOf x.active).flatMap fun l =>
        wrRegs l (x.t.desc.ldRegs sz f.dst) (loadValue sz (leNat (x.s.spadGet x.t win (x.ea f l) sz.bytes)))
      let frags := rows.zipIdx.flatMap fun p =>
        wrRegs p.1.lane (((x.t.desc.regsOf f.dst).drop (16 * (p.2 % 2))).take 16) (leNat (x.s.spadGet x.t win p.1.addr 64))
      (x.operandTrap (x.own (x.t.desc.regsOf f.sa)) (x.t.desc.ldRegs sz f.dst) = none → x.SpadReady f false false sz.bytes lanes →
        (∃ t, exec (.lds sz f) s = .next t ∧ SpadDone x f false .load lanes x.s words t) ∧
          ∃ t, exec (.ldw sz f) s = .next t ∧ SpadDone x f false .load lanes x.s words t) ∧
      (x.operandTrap (x.own (x.t.desc.regsOf f.sa ++ x.t.desc.regsOf f.sb)) (x.t.desc.regsOf f.dst) = none →
        x.fragAlign (x.ea f x.low) (x.rd x.low f.sb) = none → x.SpadReady f false false 16 rows →
        ∃ t, exec (.ldfrag f) s = .next t ∧ SpadDone x f false .load rows x.s frags t)) ∧
  (∀ (sz : StSize) (f : FmtM) (s : State) (x : Ix), Latched s f.sched x →
      let win := f.asp == .window
      let lanes := x.laneReqs f sz.bytes
      let rows := x.fragRows (x.ea f x.low) (x.rd x.low f.dst)
      let stored := (lanesOf x.active).foldl
        (fun u l => u.spadPut x.t win (x.ea f l) (x.laneData l sz.bytes (x.t.desc.stRegs sz f.sb))) x.s
      let frags := rows.zipIdx.foldl (fun u p => u.spadPut x.t win p.1.addr
        (x.laneData p.1.lane 64 (((x.t.desc.regsOf f.sb).drop (16 * (p.2 % 2))).take 16))) x.s
      (x.operandTrap (x.own (x.t.desc.regsOf f.sa ++ x.t.desc.stRegs sz f.sb)) [] = none → x.SpadReady f false true sz.bytes lanes →
        (∃ t, exec (.sts sz f) s = .next t ∧ SpadDone x f true .store lanes stored [] t) ∧
          ∃ t, exec (.stw sz f) s = .next t ∧ SpadDone x f true .store lanes stored [] t) ∧
      (x.operandTrap (x.own (x.t.desc.regsOf f.sa ++ x.t.desc.regsOf f.dst ++ x.t.desc.regsOf f.sb)) [] = none →
        x.fragAlign (x.ea f x.low) (x.rd x.low f.dst) = none → x.SpadReady f false true 16 rows →
        ∃ t, exec (.stfrag f) s = .next t ∧ SpadDone x f true .store rows frags [] t))

/-- 03 R96, 11 R324: a store of bytes to a scratchpad address changes those bytes of the owning team's allocation, which are then
not poisoned, and nothing else. -/
def Obligations.ScratchpadStoreFrame : Prop :=
  ∀ (s : State) (t o : Team) (win : Bool) (a : Int) (l : List Byte) (ofs : Nat),
    s.spadAt t win a l.length = some (o, ofs) → s.team? o.id = some o →
      ∃ u, (s.spadPut t win a l).team? o.id = some u ∧ s.spadPut t win a l = s.setTeam u ∧
        (∀ k, k < l.length → smGet 0 u.spad (ofs + k) = l.getD k 0) ∧
        (∀ k, k < ofs ∨ ofs + l.length ≤ k → smGet 0 u.spad k = smGet 0 o.spad k) ∧
        (∀ k, k < ofs ∨ ofs + l.length ≤ k → smGet false u.spadPoison k = smGet false o.spadPoison k) ∧
        (∀ k, k < l.length → smGet false u.spadPoison (ofs + k) = false) ∧
        u = { o with spad := u.spad, spadPoison := u.spadPoison }

/-- 10 R289 to R291: atomics on scratchpad take their lanes in order, each reading the old value, writing the operation's
result, and (ATOMS) giving the lane the old value; RED returns nothing. -/
def Obligations.ScratchpadAtomics : Prop :=
  ∀ (op : AtomOp) (f : FmtM) (s : State) (x : Ix), Latched s f.sched x →
    let lanes := x.laneReqs f op.bytes
    let regs := x.t.desc.atomRegs op f.sb
    let run := fun (dst : Opd) => (lanesOf x.active).foldl (fun (a : State × List Wr) l =>
      let old := leNat (a.1.spadGet x.t (f.asp == .window) (x.ea f l) op.bytes)
      (a.1.spadPut x.t (f.asp == .window) (x.ea f l) (natLe op.bytes (atomNew op old (x.regsNat l regs))), a.2 ++ x.dst l dst old))
      (x.s, [])
    x.SpadReady f true true op.bytes lanes →
      (x.operandTrap (x.own (x.t.desc.regsOf f.sa ++ regs)) (x.t.desc.regsOf f.dst) = none →
        ∃ t, exec (.atoms op f) s = .next t ∧ SpadDone x f true .atomic lanes (run f.dst).1 (run f.dst).2 t) ∧
      (x.operandTrap (x.own (x.t.desc.regsOf f.sa ++ regs)) [] = none → (f.asp = .spad ∨ f.asp = .window) →
        ∃ t, exec (.red op f) s = .next t ∧ SpadDone x f true .atomic lanes (run .zero).1 [] t)

/-! ### Barriers and convergence -/

/-- 09 R267: `bar_update` refuses a count when OVERFLOW is set, PENDING is smaller than the arrivals, or a byte count
leaves its field, and then only sets OVERFLOW; otherwise the three counts move, and when PENDING and INBOUND are both
zero the phase completes: GEN and PHASE rise by one and PENDING is EXPECT again. -/
def Obligations.BarrierUpdateRule : Prop :=
  ∀ (o n : Nat) (u w : Int), o < 2 ^ 128 →
    let r := barStep o n u w
    let refused := barOvf o = true ∨ barPending o < n ∨ ¬ countFits (barIn o + u) = true ∨ ¬ countFits (barOut o + w) = true
    let complete := barPending o = n ∧ barIn o + u = 0
    (refused → r = (none, if barOvf o then o else o + 16)) ∧
      (¬ refused → ¬ complete → r.1 = some (barPhase o * 65536 + barGen o) ∧ barPending r.2 = barPending o - n ∧
        barIn r.2 = barIn o + u ∧ barOut r.2 = barOut o + w ∧ barGen r.2 = barGen o ∧ barPhase r.2 = barPhase o ∧
        barExpect r.2 = barExpect o) ∧
      (¬ refused → complete → r.1 = some (barPhase o * 65536 + barGen o + 16) ∧ barPending r.2 = barExpect o ∧
        barIn r.2 = 0 ∧ barOut r.2 = barOut o + w ∧ barGen r.2 = (barGen o + 1) % 16 ∧
        barPhase r.2 = (barPhase o + 1) % 65536 ∧ barExpect r.2 = barExpect o)

/-- 09 R264 to R270: the barrier instructions on an object of the own scratchpad, and the posted arrival at a peer's. -/
def Obligations.BarrierInstructions : Prop :=
  ∀ (f : FmtR) (s u : State) (x : Ix), Latched s f.sched x → x.active ≠ 0 →
    x.operandTrap (x.via f.perm (x.t.desc.regsOf f.sa) ++ x.own (x.t.desc.regsOf f.sb)) (x.t.desc.regsOf f.dst) = none →
    let ofs := x.rdVia f.perm x.low f.sa
    let n := x.rd x.low f.sb
    let o := x.t.bar ofs
    let arrivals := if modBit f.mod 1 then 1 else (lanesOf x.active).length
    let old := x.t.bars.contains ofs
    let made := (if old then x.t.putBar ofs (barInitial o n false (modBit f.mod 0))
      else { x.t.putBar ofs (barInitial o n true (modBit f.mod 0)) with bars := x.t.bars ++ [ofs] }).freeWaiters ofs
    let arrived := fun (i : Instr) (units : Int) =>
      x.t.barCause ofs = none → modBit f.mod 0 = false → x.awaitRel .cluster = none →
      ∀ st, x.s.barUpdate x.t.id ofs arrivals units 0 = (u, some st) →
        ∃ t, exec i s = .next t ∧
          Ends (x.withState u) f.sched (x.wr x.active f.dst fun _ => st) (x.withState u).stepped t
    let posted := fun (i : Instr) (units : Int) =>
      modBit f.mod 0 = true → x.awaitRel .cluster = none → x.s.spadCheck x.t true false ofs 16 16 = none →
      ∀ (p : Team) (k : Nat), x.s.spadAt x.t true ofs 16 = some (p, k) → p.bars.contains k = true →
        ∃ t, exec i s = .next t ∧
          Ends { x with s := x.s.fresh.2.modTraffic fun y => { y with barUpds := y.barUpds ++ [{
            id := x.s.fresh.1, team := p.id, ofs := k, n := arrivals, u := units, sender := x.t.id, sgroup := x.cur.group }] } }
            f.sched noWrite x.stepped t
    (ofs < x.t.spadSize → ofs % 16 = 0 → n < 2048 → (old = true ∨ x.t.bars.length < x.t.desc.bars) →
      ∃ t, exec (.barinit f) s = .next t ∧
        Ends (({ x with s := if old then x.s.trace x.cur.core made x.cur.group 2 (barGen (made.bar ofs)) ofs else x.s } : Ix).withTeam made)
          f.sched noWrite ((x.withTeam made).stepped) t) ∧
      (x.t.barCause ofs = none → barSleep o = false →
        ∃ t, exec (.barinitFree f) s = .next t ∧
          Ends (x.withTeam { x.t with bars := x.t.bars.filter fun b => b != ofs }) f.sched noWrite x.stepped t) ∧
      arrived (.bararr f) 0 ∧ posted (.bararr f) 0 ∧ (n % 16 = 0 → arrived (.barexp f) (n / 16 : Nat) ∧ posted (.barexp f) (n / 16 : Nat)) ∧
      (x.t.barCause ofs = none → barOvf o = false →
        (∃ v, Ends x f.sched noWrite
            (fun l => if (x.active &&& maskWhere fun l => barWaits o (x.rd l f.sb % 16) (modBit f.mod 0)).getLsbD l then
                { x.stepped l with st := .waiting, wait := some (.barrier x.cur.pc.toNat ofs (x.rd l f.sb % 16) (modBit f.mod 0)) }
              else x.stepped l) v ∧
            exec (.barwait f) s = .next (v.modTeam x.t.id fun t => t.markSleep ofs)) ∧
          ∃ t, exec (.bartest f) s = .next t ∧
            Ends x f.sched (x.wr x.active f.dst fun l => if barWaits o (x.rd l f.sb % 16) (modBit f.mod 0) then 0 else 1) x.stepped t)

/-- 09 R271 to R273: CSIGN signs its active lanes and completes the phase when every declared lane has signed; CSIGN.decl
completes the phase and installs the masks; CWAIT holds its lanes while the phase stands. -/
def Obligations.ConvergenceInstructions : Prop :=
  ∀ (f : FmtR) (s : State) (x : Ix), Latched s f.sched x → x.active ≠ 0 →
    let k := convNum f.sa
    let c := x.t.convReg k
    let decl := x.t.declaredOf c x.cur.group
    let had := c.signed.extractLsb' (32 * x.cur.group) 32
    let signed := x.t.setConv k (c.sign x.cur.group (x.t.countable c x.cur.group x.active))
    let full := signed.convFull (signed.convReg k)
    let y := x.withState ((x.s.setTeam signed).evalPhase x.t.id x.cur.core k)
    let z := x.withState ((x.s.completePhase x.t.id x.cur.core k).modTeam x.t.id fun t =>
      t.setConv k { t.convReg k with gmask := BitVec.ofNat 32 (x.rd x.low f.sb), lmask := BitVec.ofNat 32 (x.rd x.low f.sc) })
    (x.operandTrap [] (x.t.desc.regsOf f.dst) = none → x.awaitRel .team = none → y.t.desc = x.t.desc →
      ∃ t, exec (.csign f) s = .next t ∧
        Ends y f.sched (x.wr x.active f.dst fun l =>
          csignStatus c.phase.toNat full (!decl.getLsbD l) (decl.getLsbD l && had.getLsbD l)) y.stepped t) ∧
    (x.operandTrap (x.own (x.t.desc.regsOf f.sb ++ x.t.desc.regsOf f.sc)) (x.t.desc.regsOf f.dst) = none → x.awaitRel .team = none →
      z.t.desc = x.t.desc →
      ∃ t, exec (.csignDecl f) s = .next t ∧
        Ends z f.sched (x.wr x.active f.dst fun _ => (z.t.convReg k).phase.toNat) z.stepped t) ∧
    (x.operandTrap (x.own (x.t.desc.regsOf f.sb)) [] = none →
      ∃ t, exec (.cwait f) s = .next t ∧
        Ends x f.sched noWrite
          (fun l => if (x.active &&& maskWhere fun l => c.phase.toNat == x.rd l f.sb % 65536).getLsbD l then
              { x.stepped l with st := .waiting, wait := some (.phase k (x.rd l f.sb % 65536)) }
            else x.stepped l) t)

/-! ### Register allocation, special registers -/

/-- 05 R173, R176, 09 R277, R278: REGGROW waits for the registers it asks, or does nothing when it has them; REGSHRINK
discards the registers from A' on; SRD reads a special register in every active lane; SWR writes the lane seeds, the
quantisation flags, or a trap register. -/
def Obligations.RegisterAndSpecialInstructions : Prop :=
  ∀ (f : FmtR) (g : FmtI) (s : State) (x : Ix), x.active ≠ 0 →
    let a := modField f.mod 0 9
    let asked := { x.g with grow := some (max a (x.g.grow.getD 0)) }
    let sr := Accept.srNum g.imm
    let v := x.rdVia g.perm (highLane x.active) g.sa
    let ready := Latched s g.sched x ∧ x.operandTrap (x.via g.perm (x.t.desc.regsOf g.sa)) [] = none
    (Latched s f.sched x → a ≤ x.g.alloc → ∃ t, exec (.reggrow f) s = .next t ∧ Ends x f.sched noWrite x.stepped t) ∧
      (Latched s f.sched x → x.g.alloc < a → a ≤ 256 → (x.t.setGroup x.cur.group asked).rowDemand ≤ 512 →
        ∃ u, EndsWith { x with g := { asked with growSets := asked.growSets ++ (setCtr f.sched).toList } } f.sched [] noWrite
            (fun l => if x.active.getLsbD l then { x.stepped l with st := .waiting, wait := some .grow } else x.stepped l) u ∧
          exec (.reggrow f) s = .next (u.deadlockPark x.cur.core)) ∧
      (Latched s f.sched x → x.g.alloc ≤ a → ∃ t, exec (.regshrink f) s = .next t ∧ Ends x f.sched noWrite x.stepped t) ∧
      (Latched s f.sched x → a < x.g.alloc →
        ∃ u, Ends { x with g := x.g.shrink a } f.sched noWrite x.stepped u ∧
          exec (.regshrink f) s = .next (u.unblock x.t.id.lci)) ∧
      (Latched s g.sched x → x.operandTrap [] (x.t.desc.regsOf g.dst) = none →
        ∃ t, exec (.srd g) s = .next t ∧ Ends x g.sched (x.wr x.active g.dst fun l => x.special l sr) x.stepped t) ∧
      (ready → sr = 0x21 →
        ∃ t, exec (.swr g) s = .next t ∧
          Ends x g.sched noWrite (fun l => if x.active.getLsbD l then
            { x.stepped l with seed := srFix (BitVec.ofNat 32 (x.rdVia g.perm l g.sa)) } else x.stepped l) t) ∧
      (ready → sr = 0x22 →
        ∃ t, exec (.swr g) s = .next t ∧ Ends (x.withTeam { x.t with qflags := BitVec.ofNat 32 (v % 4) }) g.sched noWrite x.stepped t) ∧
      (ready → sr ≠ 0x21 → sr ≠ 0x22 →
        ∃ t, exec (.swr g) s = .next t ∧ Ends { x with g := x.g.setTrapReg sr v } g.sched noWrite x.stepped t)

/-! ### Global and pod memory -/

/-- 10 R281 to R286, 04 R123 to R129: a load or store whose checks pass issues one access for its active lanes, by line: weak
lines may be answered from the core's own copies, all others become transactions. Lanes on pages that are not resident
are answered at once with their predicate 0. -/
def Obligations.LoadsAndStoresIssue : Prop :=
  ∀ (ls : LdSize) (ss : StSize) (f : FmtM) (s : State) (x y : Ix) (l : List LaneX), Latched s f.sched x → x.active ≠ 0 →
    f.asp ≠ .acc → x.awaitOrd f.ord f.scope (f.ord != .weak) = none → (anySc l = true → y.awaitSc f.scope = none) →
    let sync := f.ord != .weak || anySc l
    (x.operandTrap (x.own (x.t.desc.regsOf f.sa)) (x.t.desc.ldRegs ls f.dst) = none →
      x.memCheck f ls.bytes .read (badOrd f.ord) = .ok y l →
      Accesses (.ld ls f) s y f
        { dst := .load ls f.dst f.sb, isLoad := true, isStore := false, ws := y.accWrites (y.t.desc.ldRegs ls f.dst) f.sb }
        sync (anySc l) (voided l ls.bytes)
        fun u a => (byLine l ls.bytes fun _ => []).foldl (fun u g => u.loadLine a g) u) ∧
    (x.operandTrap (x.own (x.t.desc.regsOf f.sa ++ x.t.desc.stRegs ss f.sb)) [] = none →
      x.memCheck f ss.bytes .write (badOrd f.ord) = .ok y l →
      Accesses (.st ss f) s y f { dst := .store f.dst, isLoad := false, isStore := true, ws := y.accWrites [] f.dst }
        sync (anySc l) (voided l ss.bytes)
        fun u a => (byLine l ss.bytes fun n => y.laneData n ss.bytes (y.t.desc.stRegs ss f.sb)).foldl
          (fun u g => u.storeLineGrp a g) u)

/-- 01 R24, 03 R111: LD and ST in accumulator space read and write the team's accumulator elements; a poisoned element is
not delivered, and its lanes hold POISON for the next boundary. -/
def Obligations.AccumulatorSpace : Prop :=
  ∀ (ls : LdSize) (ss : StSize) (f : FmtM) (s : State) (x : Ix), Latched s f.sched x → x.active ≠ 0 → f.asp = .acc →
    x.accTrap f = none →
    let k := fun (l : Nat) => (x.ea f l).toNat / 4
    let bad := x.active &&& maskWhere fun l => smGet false x.t.accPoison (k l)
    (x.operandTrap (x.own (x.t.desc.regsOf f.sa)) (x.t.desc.ldRegs ls f.dst) = none → ls = .b32 → f.dst ≠ f.sb →
      x.t.desc.regsOf f.sb = [] →
      ∃ t, exec (.ld ls f) s = .next t ∧
        Ends { x with g := x.deferCause f.sched Cause.poison bad (4 * k (lowLane bad)) } f.sched
          (orWrite (x.wr (x.active &&& ~~~ bad) f.dst fun l => (smGet 0 x.t.acc (k l)).toNat) (x.wr x.active f.sb fun _ => 1)) x.stepped t) ∧
    (x.operandTrap (x.own (x.t.desc.regsOf f.sa ++ x.t.desc.stRegs ss f.sb)) [] = none → x.t.desc.regsOf f.dst = [] →
      ∃ t, exec (.st ss f) s = .next t ∧
        Ends (x.withTeam ((lanesOf x.active).foldl
            (fun (t : Team) l => { t with acc := smSet 0 t.acc (k l) (BitVec.ofNat 32 (x.rd l f.sb)) }) x.t)) f.sched
          (x.wr x.active f.dst fun _ => 1) x.stepped t)

/-- 10 R289 to R291: atomics on global and pod space always synchronise; ATOM returns the old value, RED its predicate
alone. -/
def Obligations.GlobalAtomicsIssue : Prop :=
  ∀ (op : AtomOp) (f : FmtM) (s : State) (x y : Ix) (l : List LaneX), Latched s f.sched x → x.active ≠ 0 →
    x.awaitOrd f.ord f.scope true = none →
    x.memCheck f op.bytes .atomic (fun c => badOrd f.ord c || c == .wo) = .ok y l → (anySc l = true → y.awaitSc f.scope = none) →
    let go := fun (dst : Opd) (u : State) (a : AccInfo) =>
      (byLine l op.bytes fun n => y.laneData n (atomOperand op) (y.t.desc.atomRegs op f.sb)).foldl
        (fun u g => u.atomicLine a g op (dst != .zero)) u
    let sp := fun (dst pred : Opd) =>
      ({ dst := .atomic op dst pred, isLoad := true, isStore := true, ws := y.accWrites (y.t.desc.regsOf dst) pred } : AccSpec)
    (x.operandTrap (x.own (x.t.desc.regsOf f.sa ++ x.t.desc.atomRegs op f.sb)) (x.t.desc.regsOf f.dst) = none →
      Accesses (.atom op f) s y f (sp f.dst (chPred f.ch)) true (anySc l) (voided l op.bytes) (go f.dst)) ∧
    (x.operandTrap (x.own (x.t.desc.regsOf f.sa ++ x.t.desc.atomRegs op f.sb)) [] = none → f.asp ≠ .spad → f.asp ≠ .window →
      Accesses (.red op f) s y f (sp .zero f.dst) true (anySc l) (voided l op.bytes) (go .zero))

/-- 04 R126, R127, R153, Table 4.4: FENCE goes on when its condition holds: no cause is held back, and for rel, acq_rel and sc
every earlier load has its data and every earlier write of the group has reached the scope. One of order acq that is wider than
a team first sends what the write-combining buffer holds of the group's stores. -/
def Obligations.FencePasses : Prop :=
  ∀ (f : FmtM) (s : State) (x : Ix), Latched s f.sched x → x.active ≠ 0 → x.boundary (f.ord != .acq) = none →
    let y := x.withState (x.s.drainGroup x.cur.core x.t.id x.cur.group)
    (f.ord ≠ .acq → x.s.relDone x.t.id x.cur.group f.scope.code.toNat x.g.ord.pend = true →
      ∃ t, exec (.fence f) s = .next t ∧ Ends x f.sched noWrite x.stepped t) ∧
    (f.ord = .acq → f.scope = .team → ∃ t, exec (.fence f) s = .next t ∧ Ends x f.sched noWrite x.stepped t) ∧
    (f.ord = .acq → f.scope ≠ .team → ∃ t, exec (.fence f) s = .next t ∧ Ends y f.sched noWrite y.stepped t)

/-- 10 R293, R294: PGPROBE writes each lane the outcome of its translation; PGREQ walks afresh, answers lanes on resident pages with
0, and makes the other lanes wait while their pages are asked for. -/
def Obligations.PageInstructions : Prop :=
  ∀ (f : FmtM) (s : State) (x : Ix), Latched s f.sched x → x.active ≠ 0 →
    x.operandTrap (x.own (x.t.desc.regsOf f.sa)) (x.t.desc.regsOf f.dst) = none →
    let at_ := (lanesOf x.active).map fun l => (l, (x.ea f l).toNat)
    let probe := x.s.xlateLanes x.cur.core x.t.id.lci (isPodM f) .read at_
    let walk := x.s.xlateWalks x.cur.core x.t.id.lci (isPodM f) (pgKind f.ch) at_
    let y := x.withState walk.2
    let waits := walk.1.filter fun z => match z.out with | .here _ _ => false | _ => true
    let waiting := maskOf (waits.map LaneX.lane)
    let ask := fun (u : State) (z : LaneX) =>
      match z.out with
      | .nonres kind a lv =>
        (match u.requestPage (dieOf x.cur.core) (u.pageVf y.t.id.lci kind a) kind a z.ea lv (pageAcc (pgKind f.ch) false) y.t.pchip
            (.lane y.t.id x.cur.group z.lane) with
         | some r => r.1.failWaiters r.2
         | none => u)
      | .remote _ pod =>
        let r := u.askFar (dieOf x.cur.core) y.t.id.lci pod (pageAcc (pgKind f.ch) false) (.lane y.t.id x.cur.group z.lane)
        if r.2 then r.1 else r.1.pageDone y.t.id x.cur.group z.lane pgLost pod
      | _ => u
    (x.rangeTrap f 4 = none →
      ∃ t, exec (.pgprobe f) s = .next t ∧
        Ends (x.withState probe.2) f.sched (lastWrite (probe.1.flatMap fun z => x.dst z.lane f.dst (probeStatus z)))
          (x.withState probe.2).stepped t) ∧
    (x.rangeTrap f 1 = none → failedTrap walk.1 = none →
      (∀ z ∈ walk.1, ∀ (kind a : Nat) (lv : Nat), z.out = .nonres kind a lv →
        (y.s.prqOf (y.s.pageVf y.t.id.lci kind a) (if kind = 0 then 0 else 1)).enabled = true) →
      ∃ u, EndsWith { y with
            s := y.s.fresh.2
            g := { y.g with lost := y.g.lost.filter fun k => !waiting.getLsbD (k / 256) } } f.sched []
          (x.wr (x.active &&& ~~~ waiting) f.dst fun _ => 0)
          (fun l => if waiting.getLsbD l then
              { y.stepped l with st := .waiting, wait := some (.page x.cur.pc.toNat (x.ea f l).toNat f.dst none) }
            else y.stepped l) u ∧
        exec (.pgreq f) s = .next (waits.foldl ask (u.addAccess {
          id := y.s.fresh.1, team := y.t.id, group := x.cur.group, pc := x.cur.pc, ctr := setCtr f.sched, dst := .store .zero,
          active := x.active, sync := false, isSc := false, isLoad := false, isStore := false, scope := .team,
          answers := [], open_ := waits.map LaneX.lane, effect := 0, followed := false })))

/-- 10 R295 to R299, 04 R132, R133: the cache maintenance instructions: PREFETCH brings lines in and completes; CFLUSH and
CINVAL write back, and in system scope reach the shared cache of the line's home; PVFL ends ownership of a range; WOCLR is sent
to every module of the pod and clears the written state when all have acknowledged it. The form of what goes to other modules is
the model's log 33. -/
def Obligations.CacheMaintenance : Prop :=
  ∀ (f : FmtM) (s : State) (x : Ix), Latched s f.sched x → x.active ≠ 0 →
    let at_ := (lanesOf x.active).map fun l => (l, (x.ea f l).toNat)
    let r := x.s.xlateLanes x.cur.core x.t.id.lci (isPodM f) .read at_
    let y := x.withState r.2
    let fetched := r.1.foldl (fun u z => x.prefetchLane f u z) r.2
    let keys := (r.1.filterMap LaneX.line?).eraseDups
    let clean := fun (inval : Bool) (u : State) (a : AccInfo) => keys.foldl (fun u k =>
      let w := u.flushKey a.core k false (some a.id) a.group
      let v := w.1.modAccess a.id fun z => { z with effect := max z.effect w.2 }
      if f.scope == .system then
        (match k with
         | .here lci mpa => v.flushBank lci mpa inval
         | .remote pod => v.askPodHome a.id a.team.lci pod (.maintain pod inval))
      else v) u
    let none_ : AccSpec := { dst := .status .zero 0, isLoad := false, isStore := true, ws := [] }
    (x.operandTrap (x.own (x.t.desc.regsOf f.sa)) [] = none → x.rangeTrap f 1 = none →
      (∃ t, exec (.prefetch f) s = .next t ∧
        Ends (x.withState fetched) f.sched noWrite (x.withState fetched).stepped t) ∧
      (failedTrap r.1 = none →
        Accesses (.cflush f) s y f none_ false false [] (clean false) ∧ Accesses (.cinval f) s y f none_ false false [] (clean true))) ∧
    (x.operandTrap (x.own (x.t.desc.regsOf f.sa ++ x.t.desc.regsOf f.sb)) (x.t.desc.regsOf f.dst) = none →
      ∀ (v : Ix) (l : List LaneX),
      let spans := fun (u : State) => l.filterMap (u.pageSpan (x.ea f x.low).toNat (x.rd x.low f.sb))
      (x.rangeCheck f (fun _ => false) = .ok v l →
        Accesses (.pvfl f) s v f {
            dst := .status f.dst (BitVec.ofNat 32 (skippedPages l)), isLoad := false, isStore := true,
            ws := v.accWrites (v.t.desc.regsOf f.dst) .zero } false false []
          fun u a => (spans u).foldl (fun u p =>
            let w := u.endSpan a.core a.team a.group a.id p
            w.1.modAccess a.id fun z => { z with effect := max z.effect w.2 }) u) ∧
      (x.rangeCheck f (fun c => c != .wo) = .ok v l →
        Accesses (.woclr f) s v f {
            dst := .woclr f.dst (skippedPages l) ((spans v.s).map fun p => match p.home with
              | .here lci m => (lci, m * 8192 + p.len)
              | .remote q => (2 ^ 16, q * 8192 + p.len))
            isLoad := false, isStore := true,
            ws := v.accWrites (v.t.desc.regsOf f.dst) .zero } false false []
          fun u a => (spans v.s).foldl (fun u p => u.broadcastClear a.id a.team.lci p) u))

/-- 12 R356, 02 R63: STM and LDX walk their addresses afresh and issue one access for every member of the multicast set they
name. -/
def Obligations.MulticastIssues : Prop :=
  ∀ (sz : StSize) (op : LdxOp) (f : FmtM) (s : State) (x : Ix), Latched s f.sched x → x.active ≠ 0 →
    x.awaitOrd f.ord f.scope (f.ord != .weak) = none →
    let mem := fun (n : Nat) => match x.s.chip? x.t.id.lci with | some c => c.multicast n | none => []
    let at_ := fun (k : AccKind) => x.freshWalks f k
    let one := fun (k : AccKind) => (lanesOf x.active).map fun l =>
      ({ lane := l, ea := (x.ea f l).toNat, out := (at_ k).s.stageOne (dieOf x.cur.core) x.t.id.lci (x.ea f l).toNat k } : LaneX)
    let per := fun (k : AccKind) (n : Nat) => (mem n).zipIdx.map fun p => (p.2, p.1, (one k).map ((at_ k).atMember k p.1))
    let pv := fun (c : Cls) => c == .pv
    let runs := fun (i : Instr) (bytes n : Nat) (kind : TxnKind) (k : AccKind) (data : Nat → List Byte) (sp : Nat → AccSpec) =>
      mem n ≠ [] → x.rangeTrap f bytes = none → failedTrap (one k) = none → classTrap (one k) pv = none →
      classTrap ((per k n).flatMap fun p => p.2.2) pv = none →
      (at_ k).footTrap (k == .write) bytes (fun l => (x.ea f l).toNat) = none →
      (anySc (one k) = true → (at_ k).awaitSc f.scope = none) →
      let sync := f.ord != .weak || anySc (one k)
      Accesses i s (at_ k) f (sp (mem n).length) sync (anySc (one k))
        ((per k n).flatMap fun p => (at_ k).memberAns p.1 p.2.1 bytes (one k) p.2.2)
        fun u a => (per k n).foldl (fun u p =>
          u.memberLines { a with lease := 0, install := false } p.1 kind (byLine p.2.2 bytes data)) u
    (x.operandTrap (x.own (x.t.desc.regsOf f.sa ++ x.t.desc.stRegs sz f.sb ++ x.t.desc.regsOf f.dst)) (x.t.desc.regsOf f.dst) = none →
      runs (.stm sz f) sz.bytes (x.rd x.low f.dst % 256) .store .write (fun l => x.laneData l sz.bytes (x.t.desc.stRegs sz f.sb))
        fun n => { dst := .stm f.dst n, isLoad := false, isStore := true, ws := x.accWrites (x.t.desc.regsOf f.dst) .zero }) ∧
    (x.operandTrap (x.own (x.t.desc.regsOf f.sa ++ x.t.desc.regsOf f.sb)) (x.t.desc.regsOf f.dst) = none →
      runs (.ldx op f) 4 (x.rd x.low f.sb % 256) .load .read (fun _ => [])
        fun n => { dst := .ldx op f.dst (chPred f.ch) n, isLoad := true, isStore := false,
                   ws := x.accWrites (x.t.desc.regsOf f.dst) (chPred f.ch) })

/-! ### Scratchpad moves -/

/-- 03 R105 to R108, Table 3.8, 10 R304, 09 R276, 04 R149: SMOVE that passes its checks protects its source range by an
OUTBOUND entry and posts the transfer; LAUNCH, once its implied release of device scope holds and its record can be
reached, posts the launch, and the queue answers later. -/
def Obligations.SmoveAndLaunchPost : Prop :=
  (∀ (f : FmtR) (s : State) (x : Ix), Latched s f.sched x → x.active ≠ 0 →
      x.operandTrap (x.own (x.t.desc.regsOf f.sa ++ x.t.desc.regsOf f.sb ++ x.t.desc.regsOf f.sc)) (x.t.desc.regsOf f.dst) = none →
      let a := x.rd x.low f.sa
      let b := x.rd x.low f.sb
      let c := x.rd x.low f.sc
      let len := bits (c / 2 ^ 32) 12 12
      x.smoveTrap a b c = none →
      ∃ core t, exec (.smove f) s = .next t ∧
        EndsWith (Ix.withTeam { x with s := x.s.fresh.2.modTraffic fun y => { y with smoves := y.smoves ++ [{
            id := x.s.fresh.1, src := x.t.id, group := x.cur.group, dst := { x.t.id with index := c % 2 ^ 32 }, core := core,
            a := a % 2 ^ 32, b := b % 2 ^ 32, len := len, sbar := smoveBar (a / 2 ^ 32),
            rbar := smoveBar (b / 2 ^ 32), accepted := false, ctr := setCtr f.sched, stDst := f.dst, active := x.active }] } }
          { x.t with ranges := x.t.ranges ++ [{ state := 3, base := a % 2 ^ 32 / 128, len := len, mv := some x.s.fresh.1 }] })
          f.sched [] noWrite x.stepped t) ∧
  (∀ (f : FmtR) (s : State) (x y : Ix) (l : List LaneX), Latched s f.sched x → x.active ≠ 0 →
      x.operandTrap (x.via f.perm (x.t.desc.regsOf f.sa) ++ x.own (x.t.desc.regsOf f.sb)) (x.t.desc.regsOf f.dst) = none →
      x.boundary true = none → x.awaitRel .device = none → x.launchCheck (x.rdVia f.perm x.low f.sa) = .ok y l →
      ∃ t, exec (.launch f) s = .next t ∧
        EndsWith { y with s := y.s.fresh.2.modTraffic fun z => { z with launches := z.launches ++ [{
          id := y.s.fresh.1, team := y.t.id, group := y.cur.group, lq := y.rd y.low f.sb, va := x.rdVia f.perm x.low f.sa, priv := y.t.desc.priv,
          dst := f.dst, active := y.active, ctr := setCtr f.sched }] } } f.sched [] noWrite y.stepped t)

/-- 03 R107, Table 3.8, 10 R305, 09 R269: an accepted transfer counts OUTBOUND at its sender's barrier, a refused one leaves; its
units are read, with their count at the sender's barrier, before they land, with theirs at the receiver's, while both entries
stand; its end does what is left of this and ends the entries; a posted arrival is applied in its sender's order. When the units
move is the model's log 35. -/
def Obligations.SmoveEvents : Prop :=
  ∀ (n : Nat) (s : State) (m : Smove) (b : BarUpd),
    (s.smove? n = some m → m.accepted = false → s.smoveAnswer m ≠ 0 →
      exec (.smoveAcceptance n) s = .next
        (((s.smoveStatus m (s.smoveAnswer m)).modTeam m.src fun t => { t with ranges := t.ranges.filter fun r => r.mv != some n }).modTraffic
          fun x => { x with smoves := x.smoves.filter fun k => k.id != n })) ∧
    (s.smove? n = some m → m.accepted = false → s.smoveAnswer m = 0 →
      ∃ u, u = ((s.smoveStatus m 0).modTeam m.dst fun t => { t with ranges := acceptRanges t.ranges m }) ∧
        exec (.smoveAcceptance n) s = .next ((u.modTraffic fun x => { x with
          smoves := x.smoves.map fun k => if k.id == n then { k with accepted := true } else k }).countAt m.src m.sbar 0 (8 * m.len : Nat))) ∧
    (s.smove? n = some m → m.accepted = true →
      let units : Int := (8 * m.len : Nat)
      ∀ (t u : Team) (data : List Byte), s.team? m.src = some t → data = t.spadRead m.a (128 * m.len) →
      t.spadBad m.a (128 * m.len) = false → m.bytes = [] → m.marks = [] → m.landed = 0 → 0 < m.len →
      let got := { m with bytes := data }
      let read := (s.putSmove got).countAt m.src m.sbar 0 (-units)
      let put := read.putSmove { got with landed := m.len }
      read.smove? n = some got → put.team? m.dst = some u →
      let landed := (put.modTeam m.dst fun v => v.spadWrite m.b data).watchAccess u .store 2 m.b (128 * m.len)
      exec (.smoveEnd n) s = .next (((((landed.countAt m.dst m.rbar (-units) 0).modTeam m.src fun v => { v with
        ranges := addRevoked (v.ranges.filter fun r => !(r.mv == some n && r.state == 3)) (m.a / 128) m.len }).modTeam m.dst fun v => { v with
        ranges := v.ranges.filter fun r => !(r.mv == some n && r.state == 2) }).modTraffic fun x => { x with
          smoves := x.smoves.filter fun k => k.id != n }))) ∧
    (∀ (k : Nat) (land : Bool) (t : Team) (r : List Turn), s.smove? n = some m → m.accepted = true → s.team? m.src = some t →
      t.spadBad (m.a + 128 * m.got) (128 * k) = false → m.got + k ≤ m.len →
      s.agenda = (if land then Turn.smoveLand n k else Turn.smoveRead n k) :: r →
      let u := ({ s with agenda := r } : State).clearHeld
      step s = .next (if land then u.smovePush m k
        else (u.putSmove { m with bytes := m.bytes ++ t.spadRead (m.a + 128 * m.got) (128 * k) }).countAt m.src m.sbar 0
          (-(8 * k : Nat))).settle) ∧
    (s.traffic.barUpds.find? (fun k => k.id == n) = some b →
      (∀ v ∈ s.traffic.barUpds, v.team = b.team → v.sender = b.sender → v.sgroup = b.sgroup → b.id ≤ v.id) →
      ∀ t, s.team? b.team = some t → t.bars.contains b.ofs = true →
      exec (.windowBarrierUpdate n) s = .next ((((s.modTraffic fun x => { x with
        barUpds := x.barUpds.filter fun v => v.id != n }).watchAccess t .atomic 1 b.ofs 16).barUpdate b.team b.ofs b.n b.u 0).1))

/-! ### Matrix -/

/-- 11 R307: an MMA or MMAQ signs its group's lanes on the convergence register and joins the contribution of its group;
the last signature completes the phase. -/
def Obligations.MatrixContributions : Prop :=
  ∀ (f : FmtR) (quant : Bool) (s : State) (x : Ix), Latched s f.sched x →
    let i := if quant then Instr.mmaq f else Instr.mma f
    let regs := x.t.desc.regsOf f.sa ++ x.t.desc.regsOf f.sb ++ (if quant then x.t.desc.regsFrom f.sc 4 else [])
    let k := modField f.mod 0 3
    let c := x.t.convReg k
    let m := x.t.countable c x.cur.group x.active
    let old := c.contribs.find? fun d => d.group == x.cur.group
    let done := { f.sched with set := BitVec.ofNat 3 (modField f.mod 8 3) }
    let raised := x.g.bump (setCtr f.sched)
    let joins := fun (c : Conv) (y : Ix) =>
      ∃ u, EndsWith { y with t := x.t.setConv k c, g := raised } done [] noWrite x.stepped u ∧
        exec i s = .next (u.evalPhase x.t.id x.cur.core k)
    x.tileTrap f.dst = none → x.nameTrap (regs.map fun n => (n, 0xFFFFFFFF)) [] = none →
      (old = none → m = 0 →
        ∃ t, exec i s = .next t ∧ EndsWith { x with g := raised } done ((setCtr f.sched).toList ++ (doneCtr f).toList) noWrite x.stepped t) ∧
      (old = none → m ≠ 0 →
        joins { c.sign x.cur.group m with contribs := putContrib c.contribs {
          group := x.cur.group, quant := quant, f := f, pc := x.cur.pc.toNat, guard := x.s.fresh.1, sets := (setCtr f.sched).toList,
          dones := (doneCtr f).toList } } { x with s := x.s.fresh.2 }) ∧
      (∀ d, old = some d → d.quant = quant → sameFields d.f f = true →
        joins { c.sign x.cur.group m with contribs := putContrib c.contribs (d.join (setCtr f.sched) (doneCtr f)) } x)

/-- 11 R320 to R325, 07 R219: the tile operations post one request each when their checks pass and a table entry is free; a read
that rounds stochastically steps its lanes' generators at once (the model's log 84). -/
def Obligations.TileOperationsPost : Prop :=
  ∀ (f : FmtR) (s : State) (x : Ix), Latched s f.sched x → x.active ≠ 0 → x.tableFull = false →
    let d := x.t.desc
    let ofs := x.rd x.low f.sa
    let pitch := x.rd x.low f.sb
    let n := 64 * elBytes f.ty
    let rows := (List.range 64).map fun k => (ofs + k * pitch, n)
    let par := fun (k : Nat) => x.reg x.low ((d.regsFrom f.sb 4).getD k 0)
    let entries := (List.range (par 2)).map fun j => (par 0 + 8 + 8 * (par 1 + j), 8)
    (x.tileTrap f.dst = none →
      (x.nameTrap [] [] = none → PostsOp (.mzero f) s x f (.mzero (d.tileOf f.dst)) false []) ∧
      (x.nameTrap (x.own (d.regsOf f.sa ++ d.regsOf f.sb)) [] = none → x.t.runOut rows = none → ofs % 16 = 0 → pitch % 16 = 0 → n ≤ pitch →
        x.t.runCause false rows = none → PostsOp (.mlda f) s x f (.mlda (d.tileOf f.dst) f.ty ofs pitch) false []) ∧
      (x.nameTrap (x.own (d.regsOf f.sa)) [] = none →
        PostsOp (.mwra f) s x f (.mwra (d.tileOf f.dst) ((d.regsOf f.sa).headD 0) f x.active) false (d.regsOf f.sa)) ∧
      (x.nameTrap (((mxoutRegs d f).map fun n => (n, 0xFFFFFFFF)) ++ x.own (d.regsFrom f.sb 4)) [] = none → x.t.listCause (par 0) = none →
        0 < par 2 → par 2 ≤ 64 → x.t.runOut entries = none → x.t.runCause false entries = none →
        PostsOp (.mxout f) s x f (.mxout (d.tileOf f.dst) ((d.regsOf f.sa).headD 0) f (par 0) (par 1) (par 2) (par 3 % 65536)
          (par 3 / 65536)) true (mxoutRegs d f))) ∧
    (x.tileTrap f.sa = none → x.nameTrap [] (d.regsOf f.dst) = none →
      PostsAcc (.mrda f) s (x.srStepped f (lanesOf x.active) (2 * (64 / elBytes f.ty))) f
        (.mrda (d.tileOf f.sa) ((d.regsOf f.dst).headD 0) f x.active (x.srSeeds (lanesOf x.active))) (.store .zero) true false false
        .device [])

/-- 11 R323, R325, 07 R219: MDRAIN and MDRAIN.tq to the own scratchpad or to global memory post one request each when their checks
pass, with the translations of the pages they have checked; one that rounds stochastically steps its lane's generator at once
(the model's log 84). -/
def Obligations.DrainsPost : Prop :=
  ∀ (f : FmtR) (tq : Bool) (s : State) (x y : Ix) (sc void : Bool) (pages : List (Nat × Tlb)), Latched s f.sched x →
    x.active ≠ 0 → y.tableFull = false →
    let gl := modBit f.mod 0
    let pars := x.t.desc.regsFrom f.sb (if tq then 8 else 1)
    let par := fun (k : Nat) => x.reg x.low (pars.getD k 0)
    let base := x.rd x.low f.sa
    let runs := drainRuns f tq base par
    x.tileTrap f.sc = none → x.nameTrap (x.own (x.t.desc.regsOf f.sa ++ pars)) [] = none →
    (gl = true → ∀ r ∈ runs, r.1 + r.2 ≤ 2 ^ 57) → (gl = false → x.t.runOut runs = none) → drainOdd f tq base par = none →
    (tq = true → modBit f.mod 6 = true → x.t.listCause (par 4) = none) → x.drainReach gl runs = .ok y sc void pages →
    (sc = true → y.awaitSc .device = none) →
    PostsAcc (if tq then .mdrainTq f else .mdrain f) s (y.srStepped f [x.low] 4096) f
      (.mdrain (y.t.desc.tileOf f.sc) tq f base (pars.map fun n => BitVec.ofNat 32 (x.reg x.low n)) (y.g.lane x.low).seed pages)
      (.drain f.dst) false true sc (if gl then .device else .team)
      (if void then [{ lane := x.low, data := [], valid := false, cause := none, member := none }] else [])

/-- 11 R308, R309: a grant takes a waiting request off the table; its application performs its passes in order, or its
operation; a drain's end is its access's. -/
def Obligations.MatrixEvents : Prop :=
  ∀ (k : Nat) (s : State) (r : MxReq) (t : Team),
    ((s.cluster k).granted = none → s.pickReq (s.cluster k) = some r → s.team? r.team = some t →
      ∃ u, exec (.matrixGrant k) s = .next u ∧ ((u.cluster k).granted.map MxReq.id) = some r.id ∧
        (∀ q ∈ (u.cluster k).table, q.id ≠ r.id) ∧ u.mem = s.mem ∧ u.traffic = s.traffic) ∧
    ((s.cluster k).granted = some r → s.team? r.team = some t → r.op = none →
      ∃ u, exec (.matrixRequestApplied k) s = .next u ∧ (u.cluster k).granted = none ∧ u.mem = s.mem ∧
        u.team? r.team = some (r.passes.foldl (fun (t : Team) c =>
          t.modGroup c.group fun g => c.dones.foldl (fun g j => g.due (some j)) g)
          ((r.passes.zip r.frags).foldl (fun t p => t.applyPass p.1 p.2) t))) ∧
    (∀ (c : Nat) (d : Drain), s.clusters.findSome? (fun c => (c.2.drains.find? fun d => d.id == k).map fun d => (c.1, d)) = some (c, d) →
      d.isGlobal = false → s.team? d.team = some t →
      exec (.mdrainWritesDone k) s = .next ((((s.modCluster c fun c => { c with drains := c.drains.filter fun e => e.id != d.id }).setTeam
        (t.drainIn d.writes).1).modAccess d.acc fun a => { a with
          answers := if (t.drainIn d.writes).2.isSome then
              a.answers ++ [{ lane := 0, data := [], valid := false, cause := (t.drainIn d.writes).2, member := none }]
            else a.answers }).endPart d.acc d.id))

/-! ### Traps and service calls -/

/-- 14 R369, R372, 09 R259: a trap that a handler takes writes the trap registers, enters handler mode, empties the region and
moves the lanes it names to TRAPV, and changes nothing else of the group; in handler mode only lanes of sr.tlanes issue. A
trap without a TRAPV, or in handler mode, stops the team. TRAP.sys takes it at once,
and TRAP.bkpt does so unless a debugger is attached, which stops the team. -/
def Obligations.TrapEntry : Prop :=
  (∀ (g : Group) (tr : Trap) (pc trapv : DWord) (defer : Bool),
    let e := g.enter tr pc defer trapv
    e.trap.handler = true ∧ e.trap.tcause = BitVec.ofNat 32 (tr.cause + if defer then 256 else 0) ∧ e.trap.tpc = pc ∧
      e.trap.tlanes = tr.lanes ∧ e.trap.taddr = BitVec.ofNat 64 tr.addr ∧ e.region = [] ∧
      (∀ l, l < 32 → e.lane l = if tr.lanes.getLsbD l then { g.lane l with pc := trapv } else g.lane l) ∧
      e = { g with lanes := e.lanes, trap := e.trap, region := e.region }) ∧
  (∀ (g : Group) (l : Nat), g.trap.handler = true → g.issuedMask.getLsbD l = true → g.trap.tlanes.getLsbD l = true) ∧
  (∀ (f : FmtI) (s u : State) (x : Ix), Latched s f.sched x → x.active ≠ 0 →
    let code := f.imm.toNat % 65536
    let tr := fun (cause : Nat) => ({ cause := cause, lanes := x.active, addr := code } : Trap)
    let handled := x.t.desc.trapv ≠ 0 ∧ x.g.trap.handler = false
    let at_ := fun (cause : Nat) => x.s.trace x.cur.core x.t x.cur.group 1 cause x.cur.pc.toNat
    let taken := fun (i : Instr) (cause : Nat) =>
      (handled → (at_ cause).checkTarget x.cur.core x.t.id.lci x.t.desc.trapv.toNat = .ok u →
        exec i s = .next (u.modGroup x.t.id x.cur.group fun g => g.enter (tr cause) x.cur.pc false x.t.desc.trapv)) ∧
      (¬ handled → exec i s = .next ((at_ cause).stopTeam x.t.id x.cur.group cause x.cur.pc.toNat code))
    taken (.trapSys f) Cause.svc ∧ (x.s.attached x.t.id.lci = false → taken (.trapBkpt f) Cause.bkpt) ∧
      (x.s.attached x.t.id.lci = true → ∃ t u, exec (.trapBkpt f) s = .next t ∧
        t = (x.withState u).hold ∧ u = (x.s.trigger x.t.id 2 x.cur.pc.toNat (some x.cur.group) 0 0).modTeam x.t.id fun t =>
          { t with dbg := { t.dbg with bkpts := x.cur.group :: t.dbg.bkpts.filter fun g => g != x.cur.group } }))

/-- 09 R260, R262, 14 R371: TRAP.svc posts one record for each active lane in lane order, and its lanes wait; RTT leaves handler
mode and resumes the lanes of sr.tlanes at its target. -/
def Obligations.ServiceCallAndReturn : Prop :=
  (∀ (f : FmtI) (s : State) (x : Ix), Latched s f.sched x → x.active ≠ 0 →
    x.operandTrap (x.own (x.t.desc.regsFrom f.sa 4)) [] = none →
    ∀ c, x.s.chip? x.t.id.lci = some c → c.svc.reqOn = true →
    ∃ u, Ends x f.sched noWrite x.stepped u ∧
      ∀ v b, (lanesOf x.active).foldl (x.postLane (f.imm.toNat % 65536) (dNum f.sa)) (u, x.s.svcClear x.t.id.lci, []) = (v, b, []) →
        exec (.trapSvc f) s = .next v) ∧
  (∀ (f : FmtR) (s u : State) (x : Ix), Latched s f.sched x → x.active ≠ 0 → x.g.trap.handler = true →
    let tgt := x.rttTarget (modBit f.mod 0)
    (if x.g.trap.tpcWritten then x.s.checkTarget x.cur.core x.t.id.lci tgt = .ok u else u = x.s) →
    let y := x.withState u
    ∃ t, exec (.rtt f) s = .next t ∧
      Ends { y with g := { y.g with trap := { y.g.trap with handler := false }, region := [] } } f.sched noWrite
        (fun l => if y.g.trap.tlanes.getLsbD l then { y.stepped l with pc := BitVec.ofNat 64 tgt } else y.stepped l) t)

/-- 05 R165: a register operand at or beyond the group's allocation is REG_BOUND for every issued lane, with the register-space
address of the first such name, before anything else of the instruction. -/
def Obligations.NamesBeyondAllocationTrap : Prop :=
  ∀ (f : FmtR) (s : State) (x : Ix) (n : Nat), Latched s f.sched x →
    let trapped := x.s.takeTrap x.t.id x.cur.group x.cur.core { cause := Cause.regBound, lanes := x.cur.issued, addr := 4 * n }
      x.cur.pc false
    let names := fun (o : Opds) => x.t.desc.regsOf o.dst ++ (x.sources o).map (·.1)
    (x.beyond (names (opsR2 f)) = some n → exec (.iadd f) s = .next trapped ∧ exec (.fadd f) s = .next trapped ∧
      exec (.shl f) s = .next trapped) ∧
      (x.beyond (names (opsR1 f)) = some n → exec (.mov f) s = .next trapped ∧ exec (.rcp f) s = .next trapped ∧
        exec (.rget f) s = .next trapped ∧ exec (.vote f) s = .next trapped) ∧
      (∀ m, x.beyond (names (opsR3 f)) = some m → min x.g.alloc 256 ≤ m ∧ m ∈ names (opsR3 f))

/-! ### Engines and messages -/

/-- 12 R330 to R335, R340, R352, 04 R149: TCOPY, TGATHER and FSEND that pass their checks and whose implied fence holds post their job
to the channel of their core, and DST takes its promise. -/
def Obligations.EngineInstructionsPost : Prop :=
  ∀ (f : FmtX) (s : State) (x : Ix) (b : Box), Latched s f.r.sched x → x.active ≠ 0 →
    x.operandTrap (x.own (x.regsX f)) (x.t.desc.regsOf f.r.dst) = none →
    x.s.queued (dieOf x.cur.core) (coreChan x.cur.core) < 16 → x.boundary true = none →
    let dir := if f.r.mod.getLsbD 0 then 1 else 0
    let plan := fun (kind : JobKind) (rows prioAt : Nat) (out arr : Bool) =>
      ({ kind := kind, dir := if out then 1 else dir, box := b, rows := rows, prio := bits f.r.mod.toNat prioAt 2, arr := arr } : JobPlan)
    let fence := fun (p : JobPlan) => x.awaitRel (if x.planFar p then .pod else .device) = none
    let rows := x.indices f.r.sb
    let copy := plan .copy b.rowCount 2 false (f.r.mod.getLsbD 1)
    let gather := plan (.gather rows) rows.length 2 false (f.r.mod.getLsbD 1)
    let v := x.rd x.low f.r.sa
    (x.resolve f.shape true = .inr b → x.boxTrap b b.rowCount (decide (dir = 0)) = none → fence copy → PostsJob (.tcopy f) s x f copy false) ∧
      (x.resolve f.shape false = .inr b → gatherBad b rows = none → x.boxTrap b rows.length (decide (dir = 0)) = none → fence gather →
        PostsJob (.tgather f) s x f gather false) ∧
      (∀ p, x.sendPlace v = .inr p → x.resolve f.shape true = .inr b → x.boxTrap b b.rowCount false = none →
        b.rowCount * b.rowBytes ≤ 2 ^ 26 → x.awaitRel .pod = none →
        PostsJob (.fsend f) s x f
          (plan (.send (bits v 12 12) p (BitVec.ofNat 32 (x.rd x.low f.r.sb)) (f.r.mod.getLsbD 2)) b.rowCount 0 true false) true)

/-- 12 R343, R346, R347: TCHAIN starts the list at its address on an idle walker and answers 0, or answers 1; TSTAT reads the channel's
word; TCANCEL counts and cancels what its mode selects. -/
def Obligations.ChannelInstructions : Prop :=
  ∀ (f : FmtR) (s : State) (x : Ix) (ch : Nat), Latched s f.sched x → x.active ≠ 0 →
    x.operandTrap (x.own (x.t.desc.regsOf f.sa ++ x.t.desc.regsOf f.sb)) (x.t.desc.regsOf f.dst) = none → x.chanOf f.sb = .inr ch →
    let va := x.rd x.low f.sa
    let die := dieOf x.cur.core
    let mode := bits f.mod.toNat 0 2
    let sel := x.s.cancelled mode die ch x.t.id
    (va % 128 = 0 → x.boundary true = none → x.awaitRel .device = none →
      ∃ u, Ends x f.sched (x.wr x.active f.dst fun _ => if (x.s.channel die ch).walk.isSome then 1 else 0) x.stepped u ∧
        exec (.tchain f) s = .next (if (x.s.channel die ch).walk.isSome then u else u.modChannel die ch fun c =>
          { c with walk := if va = 0 then none else some va, walkTeam := if va = 0 then none else some x.t.id })) ∧
    (∃ u, Ends x f.sched (x.wr x.active f.dst fun _ => x.s.tstat die ch x.t.id) x.stepped u ∧
      exec (.tstat f) s = .next (if f.mod.getLsbD 0 then u.modChannel die ch fun c => { c with lcause := 0 } else u)) ∧
    (∃ u, EndsWith { x with s := x.s.fresh.2 } f.sched [] noWrite x.stepped u ∧
      let v := (u.addAccess {
        id := x.s.fresh.1, team := x.t.id, group := x.cur.group, pc := x.cur.pc, ctr := setCtr f.sched,
        dst := .status f.dst (BitVec.ofNat 32 (if mode = 2 then sel.2.length else sel.1.length)), active := x.active,
        sync := false, isSc := false, isLoad := false, isStore := false, scope := .team, answers := [], open_ := sel.1 ++ sel.2,
        effect := 0, followed := false }).cancel sel.1 sel.2
      exec (.tcancel f) s = .next (if mode = 1 then v.modChannel die ch fun c => { c with walk := none, walkTeam := none } else v))

/-- 12 R348, R353, R355, 09 R264: COLL reads its card and posts it, or answers 2 for a card that breaks its table and 1 for a full unit,
and traps on a barrier of the card that is not there; FPOST
posts a buffer, or answers 1 or 2; FLOGPOP frees the entry taken before and gives the next one's address. -/
def Obligations.CollectiveAndMessageInstructions : Prop :=
  ∀ (f : FmtR) (s : State) (x : Ix), Latched s f.sched x → x.active ≠ 0 →
    let va := x.rd x.low f.sa
    let arg := fun (k : Nat) => x.reg x.low ((x.t.desc.regsFrom f.sb 4).getD k 0)
    let bar := if arg 2 = 0xFFFFFFFF then none else some (arg 2)
    (x.operandTrap (x.own (x.t.desc.regsOf f.sa)) (x.t.desc.regsOf f.dst) = none → va < 2 ^ 57 → va % 128 = 0 →
      x.boundary true = none → x.awaitRel .pod = none →
      ∀ l v, x.s.hwRead x.t.id.lci x.cardOwner 0 va 128 = .bytes l v → (x.withState v).t.desc = x.t.desc →
      let y := x.withState v
      let ends := fun (z : Ix) (st : Nat) (u : State) => Ends z f.sched (z.wr x.active f.dst fun _ => st) z.stepped u
      let card := cardOf v.fresh.1 (dieOf x.cur.core) (coreChan x.cur.core) x.t.id.lci x.t.pchip x.t.id none va (leNat l)
      let odd := card.counted.findSome? fun o => (x.t.barCause o).map fun k => (k, o)
      (cardOk (leNat l) = false → ∃ t, exec (.coll f) s = .next t ∧ ends y 2 t) ∧
        (cardOk (leNat l) = true → ∀ e, odd = some e → exec (.coll f) s = .next (y.trapActive e.1 e.2)) ∧
        (cardOk (leNat l) = true → odd = none → v.cardsFull (dieOf x.cur.core) = true →
          ∃ t, exec (.coll f) s = .next t ∧ ends y 1 t) ∧
        (cardOk (leNat l) = true → odd = none → v.cardsFull (dieOf x.cur.core) = false →
          (x.withState v.fresh.2).t.desc = x.t.desc →
          ∃ u, ends (y.withState v.fresh.2) 0 u ∧ exec (.coll f) s = .next (u.postCard card))) ∧
    (x.operandTrap (x.own (x.t.desc.regsOf f.sa ++ x.t.desc.regsFrom f.sb 4)) (x.t.desc.regsOf f.dst) = none →
      va % 64 = 0 → arg 1 % 64 = 0 → 128 ≤ arg 1 → arg 1 ≤ 2 ^ 26 + 64 → (∀ o, bar = some o → x.t.barCause o = none) →
      ∀ c, x.s.chip? x.t.id.lci = some c →
      let st := if 63 < arg 0 then 2 else if 64 ≤ (smGet [] c.posts (arg 0)).length then 1 else 0
      ∃ u, Ends x f.sched (x.wr x.active f.dst fun _ => st) x.stepped u ∧
        exec (.fpost f) s = .next (if st = 0 then u.postBuffer x.t.id.lci (arg 0)
          { va := va, cap := arg 1, bar := bar, filter := BitVec.ofNat 32 (arg 3), team := x.t.id } else u)) ∧
    (x.operandTrap (x.own (x.t.desc.regsOf f.sa)) (x.t.desc.regsOf f.dst) = none → va ≤ 63 →
      (x.s.rxLog x.t.id.lci va).enabled = true →
      ∃ u, Ends x f.sched (x.wr x.active f.dst fun _ => (x.s.popLog x.t.id.lci va (f.mod.getLsbD 0)).2) x.stepped u ∧
        exec (.flogpop f) s = .next ((u.setLog x.t.id.lci va (x.s.popLog x.t.id.lci va (f.mod.getLsbD 0)).1).placeWaiting x.t.id.lci va))

/-! ### Firmware commands -/

/-- 18 Table 18.5, 15 R391 to R396, 02 R73 to R75, 13 R366: commands about one chip, each where its checks pass: VC_CREATE adds it, VC_DESTROY
removes it, VC_QOS changes its guarantees, MAP and SHOOT start a shootdown, PAGE_REPLY answers a request, EVENT_ARM arms a
ring, PLACE_LOAD replaces its place table. A command that only the PF may give changes nothing for another function. -/
def Obligations.ChipCommands : Prop :=
  ∀ (h : CmdHdr) (s u : State) (lci : BitVec 8) (c : Chip),
    let n := lci.toNat
    let here := fun (i : Instr) => Commanded s h i u ∧ h.fn = .pf ∧ u.chip? n = some c ∧ u.chipBusy n = false ∧ c.ident.incoming = false
    (∀ (chw : BitVec 8) (pchip gid : BitVec 16) (inc : Bool) (s2 qos : DWord) (b : List Byte),
      let i := Instr.vcCreate h lci chw pchip gid inc s2 qos
      let id : ChipId := { gid := gid.toNat, pchip := pchip.toNat, chw := chw.toNat, incoming := inc, tdi := 0 }
      let q := Qos.init.ofBlock b 0xFFFF
      (Commanded s h i u → h.fn ≠ .pf → Answers i s h u stDenied 0) ∧
      (Commanded s h i u → h.fn = .pf → u.chip? n = none → u.guestBusy gid.toNat = false → u.identOk id = true →
        s2CtxOk s2.toNat = true → u.issuerRead h.fn qos.toNat 64 = .bytes b → q.ok = true →
        (∀ y, bindOf b 0xFFFF = some y → u.bindOk n b y = true) → u.sumsFit n q = true → q.minb ≤ u.freeBanks.length →
        q.mind ≤ u.freeChannels.length → Answers i s h (u.addChip n id s2 q (bindOf b 0xFFFF)) stOk (u.incOf n))) ∧
    (here (.vcDestroy h lci) → c.locked = false → Answers (.vcDestroy h lci) s h (u.removeChip n).resumeGuaranteed stOk 0) ∧
    (here (.vcDestroy h lci) → c.locked = true → Answers (.vcDestroy h lci) s h u stLocked 0) ∧
    (∀ (qos : DWord) (b : List Byte), here (.vcQos h lci qos) → u.issuerRead h.fn qos.toNat 64 = .bytes b →
      let q := c.nextMin.ofBlock b (packetNat b 60 4)
      q.ok = true → (q.minb ≠ 0 ∨ c.res.banks = []) → bindOf b (packetNat b 60 4) = none → q.minb = c.qos.minb → q.flb = c.qos.flb → u.sumsFit n q = true →
      q.minb - c.res.banks.length ≤ u.freeBanks.length → q.mind - c.res.channels.length ≤ u.freeChannels.length →
      Answers (.vcQos h lci qos) s h ((u.applyQos n c q none).refitBanks n c.res.banks.length) stOk 0) ∧
    (∀ (ctx : BitVec 128), here (.map h 1 lci ctx) → s1CtxOk c.ident ctx.toNat = true →
      u.stripeBaseKept c ctx.toNat = true →
      AnswersLater (.map h 1 lci ctx) s h (u.startShoot n 1 true none 0 0 h (some ctx))) ∧
    (∀ (stage : BitVec 8) (all : Bool) (cls : BitVec 8) (first count : DWord), here (.shoot h lci stage all cls first count) →
      (stage = 1 ∨ stage = 2) →
      AnswersLater (.shoot h lci stage all cls first count) s h (u.startShoot n stage.toNat all
        (if cls.getLsbD 2 then some (Cls.ofCode (cls.toNat % 4)) else none) first.toNat count.toNat h none)) ∧
    (∀ (queue status : BitVec 8) (reqid inc : BitVec 16), here (.pageReply h lci queue status reqid inc) → queue.toNat ≤ 1 →
      status.toNat ≤ 1 → Answers (.pageReply h lci queue status reqid inc) s h
        (u.pageReply n queue.toNat reqid.toNat inc.toNat (status == 0)) stOk 0) ∧
    (here (.eventArm h (lci.setWidth 16)) → Answers (.eventArm h (lci.setWidth 16)) s h (u.armRing (.vf lci)) stOk 0) ∧
    (∀ (table : DWord) (b : List Byte), here (.placeLoad h lci table) → c.locked = false → c.res.resident = false →
      u.issuerRead h.fn table.toNat 12352 = .bytes b →
      let l := (List.range 3088).map fun k => (k, packetNat b (4 * k) 4)
      (∀ p ∈ l, u.placeOk p.2 = true) → Answers (.placeLoad h lci table) s h ((u.modChip n fun c => { c with
        places := (l.filter fun p => p.2 != 0).map fun p => (p.1, BitVec.ofNat 32 p.2) }).migrated n) stOk 0)

/-- 18 R458 to R465, 15 R405 to R411, 13 R360: commands of a queue, a function or a guest, each where its checks pass: NOP, the version
commands, ATTEST, COUNTER_ACQ of a free bank, ROUTE_LOAD, pausing, resuming, checkpoint, restore and migration, and the
launch packet. -/
def Obligations.GuestCommands : Prop :=
  ∀ (h : CmdHdr) (s u : State) (gid : BitVec 16),
    let g := gid.toNat
    let pf := fun (i : Instr) => Commanded s h i u ∧ h.fn = .pf ∧ u.guestBusy g = false
    let later := fun (v : State) (b : Background) => v.modHub fun x => { x with background := x.background ++ [b] }
    (s.nopQueue h = .cmd → Commanded s h (.nopCmd h) u → Answers (.nopCmd h) s h u stOk 0) ∧
    (Commanded s h (.getver h) u → Answers (.getver h) s h u stOk 0x010101010101) ∧
    (∀ iface, Commanded s h (.setver h iface 1) u → iface.toNat ≤ 2 → s.hub.seenCmd.contains (Fn.num h.fn) = false →
      Answers (.setver h iface 1) s h (u.modHub fun x => { x with versions := smSet 0 x.versions (4 * Fn.num h.fn + iface.toNat) 1 }) stOk 0) ∧
    (∀ nonce out, Commanded s h (.attest h nonce out) u →
      let l := u.evidence nonce
      u.issuerBlock h.fn (l.length / 4096 + 2) out.toNat l.length = none →
      Answers (.attest h nonce out) s h ({ u with free := u.free + 2 }.issuerWrite h.fn out.toNat l) stOk l.length) ∧
    (∀ die bank, let i := Instr.counterAcq h 0 0 die bank 0xFFFF
      Commanded s h i u → h.fn = .pf → die.toNat < 16 → bank.toNat < 8 → u.onDie h.fn die.toNat = true →
      ∀ who, acquire h.fn 0 (smGet CtrBank.init u.mod.banks (8 * die.toNat + bank.toNat)).holder = some who →
      let b : CtrBank := { CtrBank.init with holder := who, chip := none }
      Answers i s h (u.modMod fun m => { m with banks := smSet CtrBank.init m.banks (8 * die.toNat + bank.toNat) b }) stOk 0) ∧
    (∀ kind sel src first count b, let i := Instr.routeLoad h gid kind sel src first count
      let shape := routeShape kind.toNat
      let l := (List.range count.toNat).map fun k => packetNat b (shape.1 * k) shape.1
      pf i → (u.guest g).paused = true → kind.toNat < 2 → u.routeSelOk g kind.toNat sel.toNat = true →
      first.toNat + count.toNat ≤ shape.2 → u.issuerRead h.fn src.toNat (count.toNat * shape.1) = .bytes b →
      entriesOk kind.toNat l = true →
      let v := u.loadRoutes g kind.toNat sel.toNat first.toNat l
      Answers i s h (if kind = 1 then v.liftPeers sel.toNat else v) stOk 0) ∧
    (pf (.guestPause h gid) → AnswersLater (.guestPause h gid) s h (later (u.pauseGuest g) (.pause h g))) ∧
    (pf (.guestResume h gid) → Answers (.guestResume h gid) s h ((u.unpauseGuest g).resumeChips g) stOk 0) ∧
    (∀ dest ranges rt, let i := Instr.ckpt h gid false dest ranges rt
      pf i → (u.guest g).paused = true → (u.guest g).pauseDone = true → (u.runList h.fn runListMax dest.toNat).isSome = true →
      AnswersLater i s h (later ((u.guestChips g).foldl (fun v k => v.suspend k 0 true) u) (.ckpt h g false dest.toNat ranges.toNat))) ∧
    (∀ src l, let i := Instr.restore h gid src
      let images := u.imagesAt g (firstRun (some l))
      pf i → u.runList h.fn runListMax src.toNat = some l → images ≠ [] → (∀ k ∈ images, (u.imageChip k).isSome = true) →
      AnswersLater i s h (later (images.foldl (fun v k =>
        match v.imageChip k with
        | some c => if c.2.res.suspended.isSome then v else v.suspend c.1 0 true
        | none => v) u) (.restore h g (firstRun (some l))))) ∧
    (∀ (lci : BitVec 8) (target : BitVec 16) (route : DWord) (c : Chip) (b0 b : List Byte) (l : List (Nat × DWord)),
      let i := Instr.vcMigrate h lci target route
      let t := target.toNat
      Commanded s h i u → h.fn = .pf → u.chip? lci.toNat = some c → u.chipBusy lci.toNat = false → c.ident.incoming = false →
      c.locked = false → t ≠ u.hub.position → (t < 16 ∨ (2 ^ 15 ≤ t ∧ t - 2 ^ 15 < 4096)) →
      u.issuerRead h.fn route.toNat 8 = .bytes b0 → leNat b0 ≤ 2 ^ 16 →
      u.issuerRead h.fn (route.toNat + 8) (16 * leNat b0) = .bytes b → routeBlock b (leNat b0) = some l →
      (∀ m ∈ u.podModules c.ident.gid t, ∃ r ∈ l, r.1 = m) →
      AnswersLater i s h (later (u.suspend lci.toNat 0 false) (.migrate h lci.toNat t l))) ∧
    (∀ (lq : BitVec 8) (rec : BitVec 512) (b : List Byte) (d : QDesc) (lci handle a : Nat) (k : Cls) (v : State),
      s.front h.fn (.launch lq) = .packet b → s.queue? h.fn (.launch lq) = some d → s.launchChip h.fn lq.toNat = some lci →
      s.hub.power ≠ .p2 → byteAt b 0 = 1 → cmdHdr h.fn d.head b = h → packetNat b 16 64 = rec.toNat → s.cplaAt h = .at_ a k → h.fn = .pf →
      s.accept lci lq.toNat true rec.toNat true (2 ^ 43 + 257 * lq.toNat + Fn.num h.fn) = .ok handle v →
      exec (.launchPacket h lq rec) s =
        .next (((v.pastPacket h.fn (.launch lq) b).finishCmd h stOk handle).pollQueue h.fn (.launch lq)))

/-! ### Debug, registers of a function, power -/

/-- 17 R439 to R449: the debug control's holder stops, resumes and steps teams, detaches, and writes registers of a stopped team and
watchpoints; a write by any other function changes nothing. -/
def Obligations.DebugWrites : Prop :=
  ∀ (fn : Fn) (team : TeamId) (g : BitVec 5) (s : State) (c : Chip) (t : Team), s.chip? team.lci = some c →
    let holds := c.dbg.holder = some fn
    let stopped := holds ∧ s.team? team = some t ∧ t.ended = false ∧ t.dbg.state = 2
    let done := s.dbgDone team 0
    (¬ holds → exec (.dbgcmdStop fn team) s = .next s ∧ exec (.dbgcmdResume fn team) s = .next s ∧
      exec (.dbgcmdResumeNext fn team) s = .next s ∧ exec (.dbgcmdStep fn team g) s = .next s) ∧
    (∀ core k, holds → s.team? team = some t → t.ended = false → t.place = .resident core k →
      exec (.dbgcmdStop fn team) s = .next (done.trigger team 1 0 none 0 0)) ∧
    (stopped → exec (.dbgcmdResume fn team) s = .next (done.liftStop team) ∧
      exec (.dbgcmdResumeNext fn team) s = .next ((done.pastBkpts team).liftStop team)) ∧
    (stopped → (t.group g.toNat).readyMask ≠ 0 →
      exec (.dbgcmdStep fn team g) s = .next ((done.freeDump team).modTeam team fun t =>
        { t.modGroup g.toNat (fun g => { g with stepping := true, stopped := false, skid := 0, eligibleAt := s.gtc }) with
          dbg := { t.dbg with state := 3, slot := none, hits := 0 } })) ∧
    (∀ lci : BitVec 8, lci.toNat = team.lci → holds → exec (.dbgcmdDetach fn lci) s = .next (s.detach team.lci)) ∧
    (∀ w d, stopped → g.toNat < t.desc.groupCount →
      exec (.registerWindowWrite fn team g w d) s = .next (s.setTeam (t.windowWrite g.toNat w d))) ∧
    (∀ (lci : BitVec 8) (lcore : BitVec 11) (wp : BitVec 2) (v : BitVec 128) (core : Nat), lci.toNat = team.lci → holds →
      c.place placeCore 0 lcore.toNat = some core →
      exec (.watchpointWrite fn lci lcore wp v) s = .next (s.modCore core fun k => { k with
        watch := (wp.toNat, Watch.ofBits team.lci v.toNat) :: k.watch.filter fun w => w.1 != wp.toNat }))

/-- 18 R455 to R457, 14 R374, 17 R451, 18 R463, R472, 15 R409: writes of a queue's tail or descriptor, of ARM, RTAIL, a counter select
and the register page; the power events; a TDISP message, and a function's reset. -/
def Obligations.RegisterAndPowerEvents : Prop :=
  ∀ (fn : Fn) (s : State),
    (∀ q tail d, s.queue? fn q = some d →
      exec (.queueTailWrite fn q tail) s = .next ((s.setQueue fn q { d with tail := tail.toNat }).pollQueue fn q)) ∧
    (∀ q base size erra d, s.queue? .pf q = some d →
      exec (.queueDescriptorReset .pf q base size erra) s = .next (s.setQueue .pf q { d with
        base := base.toNat, size := size.toNat, erra := erra.toNat, head := d.tail,
        state := if 6 ≤ size.toNat ∧ size.toNat ≤ 16 then 1 else 0 })) ∧
    exec (.armWrite fn) s = .next (s.armRing fn) ∧
    (∀ (lci : BitVec 8) (rtail : Word) c, s.chip? lci.toNat = some c →
      (c.svc.repOn = false ∨ ringUsed rtail.toNat c.svc.rhead ≤ 2 ^ c.svc.rsize) →
      exec (.rtailWrite lci rtail) s = .next (s.modChip lci.toNat fun c => { c with svc := { c.svc with rtail := rtail.toNat, halted := false } })) ∧
    (∀ (lci : BitVec 8) c a k, s.chip? lci.toNat = some c → c.replies = true →
      s.reach lci.toNat (ringAddr c.svc.rbase c.svc.rsize 32 c.svc.rhead) false = .at_ a k →
      s.peekBad lci.toNat a 32 = false →
      exec (.serviceReply lci) s = .next ((s.modChip lci.toNat fun c => { c with
        svc := { c.svc with rhead := (c.svc.rhead + 1) % 2 ^ 32 } }).replyRecord lci.toNat c (s.peek lci.toNat a 32 k))) ∧
    (∀ (bank : BitVec 7) (ctr : BitVec 4) (sel : BitVec 16),
      let b := smGet CtrBank.init s.mod.banks bank.toNat
      b.holder = some fn → sel.toNat ≤ 0xF →
      exec (.counterSelectWrite fn bank ctr sel) s = .next (s.modMod fun m => { m with
        banks := smSet CtrBank.init m.banks bank.toNat { b with sel := smSet 0 b.sel ctr.toNat sel.toNat } })) ∧
    (∀ off data, s.fwReady = true → fn = .pf →
      let v := (((data.zipIdx).foldl (fun (v : State) p => v.regByte fn (off.toNat + p.2) p.1) s).regDone fn off.toNat data.length).badDbgcmd
        fn off.toNat data
      exec (.registerWrite fn off data) s = .next (if off.toNat ≤ 0x89 ∧ 0x89 < off.toNat + data.length ∧
        (data.getD (0x89 - off.toNat) 0).getLsbD 0 = true then v.armRing fn else v)) ∧
    (∀ cl ch, s.hub.power = .off →
      exec (.powerGood true cl ch) s = .next (ch.foldl (fun v k => if k < 1024 then v.retireChannel k else v)
        (cl.foldl (fun v k => v.retireCluster k) { (s.modHub fun h => { h with power := .p0 }) with written := [] })) ∧
      exec (.powerGood false cl ch) s = .next (s.modHub fun h => { h with power := .heldInReset })) ∧
    (∀ w, exec (.powerLimitWindow w) s = .next (s.modHub fun h => { h with throttled := decide (10000 < w) })) ∧
    exec .powerOff s = .next s.powerLost ∧
    (s.fwReady = true → exec (.powerCommand .p1) s = .next (s.modHub fun h => { h with power := .p1 })) ∧
    (∀ (lci : BitVec 8) c, s.chip? lci.toNat = some c → c.ident.tdi = 0 →
      exec (.tdispMessage lci .lock) s = .next (s.setTdi lci.toNat 1)) ∧
    exec (.functionReset .pf) s = .next (s.modHub fun h => { h with
      seenCmd := h.seenCmd.filter fun n => n != Fn.num .pf, versions := h.versions.filter fun v => v.1 / 4 != Fn.num .pf })

/-! ### Scheduling -/

/-- 13 R359 to R368, 05 R172 to R175, 06 R197, 14 R379 to R381: a slot takes the first claim of its core; a due drop lowers its counter; the
dispatcher seats a waiting unit that fits; the oldest request for registers is granted when it fits; sleepers whose time
has come go on; teams park, wake and end. -/
def Obligations.SchedulingEvents : Prop :=
  ∀ (s : State) (id : TeamId) (t : Team) (k : Nat), s.team? id = some t →
    (∀ core slot c r, s.slotFree core slot = true → (s.claims core).mergeSort Claim.before = c :: r →
      let u := s.modGroup c.id c.group fun g => { g with run := some { core := core, slot := slot, count := 0, pcs := [] } }
      ∀ v, u.team? c.id = some v →
      exec (.issueSlotPick core slot) s = .next (u.trace core v c.group 0 (lanesOf (v.group c.group).issuedMask).length
        ((v.group c.group).minPc (v.group c.group).readyMask))) ∧
    (∀ j, j ∈ (t.group k).ord.drops →
      ∃ u v, exec (.scoreboardDecrement id k j) s = .next u ∧ u.team? id = some v ∧
        smGet 0 (v.group k).ord.sb j = smGet 0 (t.group k).ord.sb j - 1 ∧ (v.group k).ord.drops = (t.group k).ord.drops.erase j ∧
        (∀ i, i ≠ j → smGet 0 (v.group k).ord.sb i = smGet 0 (t.group k).ord.sb i) ∧ u.mem = s.mem ∧ u.traffic = s.traffic) ∧
    (∀ core p, s.grantable core = some p → exec (.reggrowGrant core) s = .next (s.modGroup p.1 p.2 Group.granted)) ∧
    (∀ core, t.core? = some core → (t.group k).sleepsDue s.gtc = [] → exec (.sleepWake id k) s = .next s) ∧
    (∀ core q lanes, t.core? = some core → (t.group k).sleepsDue s.gtc = [q] →
      lanes = maskWhere (fun l => ((t.group k).lane l).wait == some (Wait.sleep q.1 q.2.1 q.2.2) && ((t.group k).lane l).st == .waiting) →
      exec (.sleepWake id k) s = .next (s.releaseSleep id k core lanes q.1 q.2.1 q.2.2)) ∧
    (t.leave = 0 → s.parkEligible t = true →
      (∀ u ∈ s.gangOf t.gangKey, u.ended = false → u.core?.isNone = true ∨ s.parkEligible u = true) →
      exec (.parkThresholdExpiry id) s = .next (s.setLeave t.gangKey 1)) ∧
    (∀ core c, t.core? = some core → t.leave ≠ 0 → t.ended = false → s.gangMayLeave (s.gangOf t.gangKey) = true →
      s.chip? t.id.lci = some c → (t.leave ≠ 1 ∨ s.parkedCount t.id.lci + ((s.gangOf t.gangKey).filter fun u => !u.ended).length ≤ c.qos.save) →
      exec (.teamPark id) s = .next ((s.gangLeaves (s.gangOf t.gangKey) t.leave).deadlockPark core)) ∧
    (t.place = .parked → t.ended = false → t.wakeMet s.gtc = true → exec (.teamWake id) s = .next (s.queueResume t.gangKey)) ∧
    (∀ core, t.core? = some core → t.ended = false → t.stopping = false → t.allExited = true → s.mayLeave t = true →
      exec (.teamEnd id) s = .next (s.endTeam t core)) ∧
    (∀ (lci : BitVec 8) c key p, s.chip? lci.toNat = some c → c.dispatches = true →
      c.disp.nextResume = some key → s.fitUnit c (s.gangOf key) = some p →
      exec (.dispatchPlacement lci) s = .next ((s.modChip lci.toNat fun c => { c with
        disp := { c.disp with resume := c.disp.resume.filter fun k => k != key, rr := p.2 }
        res := { c.res with saveFull := false, everRan := true } }).seatUnit p.1 false)) ∧
    (∀ (lci lq : BitVec 8) q c l v h w, s.traffic.launches.find? (fun q => q.team.lci == lci.toNat && q.lq % 2 ^ 32 == lq.toNat) = some q →
      s.chip? q.team.lci = some c → (c.lqueue? q.lq false).isSome = true → s.hwRead q.team.lci q.id 0 q.va 64 = .bytes l v →
      v.accept q.team.lci q.lq false (leNat l) q.priv q.id = .ok h w →
      exec (.launchAcceptance lci lq) s = .next (w.launchAnswer q (2 ^ 31 + h)))

/-! ### Memory events -/

/-- 02 R55 to R60, R75, 03 R81, R90, 04 R123 to R127, 10 R283 to R286: a walk fills the core's TLB; a bank performs a ready
transaction; an access whose parts are all answered lands its registers; leases are swept; old write-combined lines drain;
dies acknowledge a shootdown, and one that does not in time ends it. An access that ends frees its group's wait for it,
raises the pending times of a store, and lets its counter drop. -/
def Obligations.MemoryEvents : Prop :=
  (∀ (s : State) (n : Nat),
      (∀ (lci : BitVec 8) (va : DWord) (t : Tlb) (a : Nat), (∃ u ∈ s.residents n, u.id.lci = lci.toNat) →
        (s.walkOn (dieOf n) lci.toNat false va.toNat .read).1 = .here t a →
        ∃ u, exec (.translationWalk n lci va 0) s = .next u ∧ t ∈ (u.core n).dtlb ∧ t ∈ (u.core n).stlb ∧
          (∀ v ∈ (u.core n).dtlb ++ (u.core n).itlb ++ (u.core n).stlb, v.covers lci.toNat false va.toNat = true → v = t) ∧
          u.mem = s.mem ∧ u.teams = s.teams ∧ u.traffic = s.traffic) ∧
      (∀ t, s.readyTxn n = some t → t.kind ≠ .load → exec (.storeAccept n) s = .next (s.serveTxn t)) ∧
      (∀ t, s.readyTxn n = some t → t.kind = .load → exec (.readService n) s = .next (s.serveTxn t)) ∧
      (∀ a t, s.traffic.accesses.find? (fun a => a.id == n) = some a → a.open_ = [] → s.team? a.team = some t → a.isClear = false →
        (∀ d k p, a.dst ≠ .woclr d k p) → a.cause = none →
        exec (.accessAnswer n) s = .next ((s.modTraffic fun x => { x with accesses := x.accesses.filter fun b => b.id != a.id }).landGroup a.team
          a.group fun g => g.ended a t.desc a.effect)) ∧
      (∀ die bank, exec (.leaseSweep die bank) s = .next (s.sweepBank die.toNat bank.toNat)) ∧
      (∀ (pchip : BitVec 10) (line : BitVec 41) w,
        (s.core n).wcb.filter (fun w => w.pchip == pchip.toNat && w.line == line.toNat && decide (w.since + 2000 ≤ s.gtc)) = [w] →
        exec (.wcbAgeExpiry n pchip line) s = .next (s.drainEntry n w)) ∧
      (∀ (die : BitVec 4) sh r x, s.hub.shoots = sh :: r → sh.seq = n →
        (s.shootStep sh die.toNat).hub.shoots.find? (fun x => x.seq == n) = some x →
        let u := s.shootStep sh die.toNat
        let v := if x.moved then u else u.askTransition x
        exec (.shootDieAck n die) s = .next (if u.shootAcked x then (if v.shootHeard n then v.endShoot x stOk else v) else u)) ∧
      (∀ (die : BitVec 4) sh r, s.hub.shoots = sh :: r → sh.seq = n → sh.start + 1000000 ≤ s.gtc → die.toNat ∉ sh.acked → die.toNat ∉ s.hub.retiredDies →
        exec (.shootTimeout n die) s = .next (((s.endShoot sh stTimeout).postPf 0x0024 n die.toNat).retireDie die.toNat))) ∧
  (∀ (g : Group) (a : Access) (d : Desc) (eff : Nat),
      let h := g.ended a d eff
      Hold.answer a.id ∉ h.ord.holds ∧ (∀ k ∈ g.ord.holds, k ≠ Hold.answer a.id → k ∈ h.ord.holds) ∧
        h.ord.drops = g.ord.drops ++ a.ctr.toList ∧ h.ord.sb = g.ord.sb ∧
        (a.isStore = true → ∀ k ∈ raisedScopes (a.isSc || a.isClear), eff ≤ smGet 0 h.ord.pend k) ∧
        (a.isStore = false → h.ord.pend = g.ord.pend) ∧
        (∀ l, l < 32 → (h.lane l).pc = (g.lane l).pc ∧ (h.lane l).st = (g.lane l).st))

/-! ### Engine events -/

/-- 12 R334 to R351, Tables 12.5 and 12.8: a channel's first job starts, rows move, a job ends with its outcome; a chain's next
record is taken or faults; a collective card starts, counts its chunks and ends. -/
def Obligations.EngineEvents : Prop :=
  ∀ (s : State) (n k : Nat) (die : BitVec 4) (ch : BitVec 5),
    (∀ j, ((s.chanJobs die.toNat ch.toNat).find? fun j => !j.started && j.outcome == 0) = some j → j.held = false → s.chipRuns j.lci = true →
      s.depCount die.toNat < 256 → j.kind = .copy → exec (.jobStart die ch) s = .next (s.enterUnit j)) ∧
    (∀ j, s.job? n = some j → s.mayRow j k = true → j.kind = .copy →
      let r := (s.walkAhead j k).rowPull j k
      exec (.boxRow n k) s = .next (if r.1 then (if j.dir = 0 then r.2.rowIn j k else r.2.rowOut j k).rowMoved j k else r.2)) ∧
    (∀ j, s.job? n = some j → s.jobOver j = true → j.record = none →
      let o := if j.outcome = 0 then 1 else j.outcome
      exec (.jobEnd n) s = .next (((s.jobArrives j).modJob n fun x => { x with outcome := o }).jobGone { j with outcome := o } 0)) ∧
    (∀ va t, (s.channel die.toNat ch.toNat).walk = some va → (s.channel die.toNat ch.toNat).walkTeam = some t →
      s.chipRuns t.lci = true → s.queued die.toNat ch.toNat < 16 →
      (va % 128 ≠ 0 → exec (.chainRecordRead die ch) s = .next (s.walkFault die.toNat ch.toNat Cause.misaligned)) ∧
      (∀ l v, va % 128 = 0 → s.hwRead t.lci (walkOwner die.toNat ch.toNat) 0 va 128 = .bytes l v →
        exec (.chainRecordRead die ch) s = .next (v.takeRecord die.toNat ch.toNat t (v.pchipOf t.lci) va (leNat l)))) ∧
    (∀ c h l v q m, s.card? n = some c → s.chip? c.lci = some h → c.started = false → c.outcome = 0 → c.held = false →
      h.res.resident = true → s.cardTurn c = true → s.depCount c.die < 256 →
      s.loadRun (c.job c.id) 0 (2 * c.nmem) (RowPart.mk c.memb 0 (2 * c.nmem) false).parts = .done v l q →
      (v.dropFetches c.id 0).resolveMembers h (memberFields l c.nmem) = .inr m →
      exec (.collCardStart n) s = .next ((v.dropFetches c.id 0).joinCard c m)) ∧
    (∀ c p, s.card? n = some c → k ∈ c.chunks → c.held = false → s.chipRuns c.lci = true →
      c.counting.find? (fun p => p.1 == k) = some p → p.2 ≤ s.gtc →
      exec (.collChunkLanding n k) s = .next (s.chunkCount c k)) ∧
    (∀ c, s.card? n = some c → c.begun = [] → c.counting = [] → c.held = false → c.effect ≤ s.gtc → c.outcome ≠ 0 → c.skip = true →
      exec (.collCardEnd n) s = .next (s.cardGone c c.outcome 0))

/-! ### The fabric -/

/-- 16 R413 to R418, R434 to R437, 15 R412: acknowledgements, resends, training and keys of a link; peers and time; a dropped store's
event. -/
def Obligations.LinkEvents : Prop :=
  ∀ (s : State) (port : BitVec 4),
    let p := (s.die port.toNat).port
    (∀ lseq, exec (.linkAck port lseq) s = .next (s.modPort port.toNat fun p => { p with unacked := ackUpTo p.unacked lseq, resends := 0 })) ∧
    (p.up = true → p.unacked ≠ [] → p.resends < 16 →
      exec (.resendTimeout port) s = .next { (s.modPort port.toNat fun x => { x with resends := x.resends + 1 }) with
        outbox := p.unacked.reverse ++ s.outbox }) ∧
    (p.up = true → p.unacked ≠ [] → 16 ≤ p.resends → exec (.resendTimeout port) s = .next (s.linkDown port.toNat)) ∧
    (∀ lo hi, p.up = false → lo ≤ 1 → 1 ≤ hi → exec (.linkTraining port lo hi) s =
      .next (s.modPort port.toNat fun p => { p with up := true, version := 1, unacked := [], resends := 0 })) ∧
    (∀ lo hi, p.up = false → (1 < lo ∨ hi < 1) → exec (.linkTraining port lo hi) s = .next (s.postPf 0x0046 port.toNat hi)) ∧
    (∀ (src dst : BitVec 10) (gid : BitVec 16),
      let key := linkKey gid.toNat src.toNat dst.toNat
      2 ^ 31 ≤ smGet 0 s.mod.keys key / 2 →
      exec (.linkRekey src dst gid) s = .next (s.modMod fun m => { m with keys := smSet 0 m.keys key ((smGet 0 s.mod.keys key + 1) % 2) })) ∧
    (∀ peer, exec (.heartbeatLoss peer) s = .next (s.isolatePeer peer 1 true)) ∧
    (∀ (q : BitVec 5) (o : Int), s.portPeers q.toNat = [] →
      exec (.timeSyncExchange q o) s = .next { s with gtc := s.gtc + min 2 (-o).toNat }) ∧
    (∀ o : Int, 30 < o.natAbs → exec (.timeLost o) s =
      .next (s.knownPeers.foldl (fun v i => v.isolatePeer i 0 false) (s.postPf 0x0047 (addr64 o) 0))) ∧
    (∀ (lci : BitVec 8) q, s.mod.dropped.find? (fun q => q.1 == lci.toNat) = some q →
      exec (.storeDropped lci) s = .next ((s.modMod fun m => { m with dropped := m.dropped.filter fun q => q.1 != lci.toNat }).postEvent
        lci.toNat 0x0042 q.2.1 q.2.2))

/-- 16 R416 to R434, 02 R67, 12 R356: requests that another module's chip sends are served at their home here: loads, stores and
atomics at their bank, page requests, message requests and data; answers that come back to this module are given to their
transaction or sender, and an error to what it fails. How a copy's request and the stores that serve its tokens are told from others
is the model's log 56. -/
def Obligations.FabricPackets : Prop :=
  (∀ (s : State) (port : BitVec 5) (p : Packet) (lci : Nat),
      let c := pktCtl p
      (Delivered s port p ptLoad lci → Served (.loadPacket port p) s port p lci (s.serveLoad port.toNat lci p)) ∧
      (Delivered s port p ptStore lci → Served (.storePacket port p) s port p lci (if beatGet c 240 1 = 1 then
        (s.serveStore port.toNat lci p).namedIn lci p.src.toNat (beatGet c 224 16) ((List.range 128).filter fun b => c.getLsbD b).length
        else s.serveStore port.toNat lci p)) ∧
      (Delivered s port p ptAtomic lci → Served (.atomic port p) s port p lci (s.serveAtomic port.toNat lci p)) ∧
      (Delivered s port p ptPreq lci → beatGet c 0 8 = 0 → Served (.preq port p) s port p lci (s.servePreq port.toNat lci p)) ∧
      (∀ i k v, Delivered s port p ptMsgReq lci → beatGet c 89 1 = 0 → s.chipHome (s.gidOf lci) p.src.toNat = .peer i k →
        s.arriveMsg (portDie port.toNat) lci p.src.toNat (beatGet c 64 12) p.msgid.toNat (beatGet c 0 32) (beatGet c 80 2)
          (BitVec.ofNat 32 (beatGet c 32 32)) (beatGet c 88 1 == 1) i = .taken v →
        Served (.msgReq port p) s port p lci v) ∧
      (Delivered s port p ptMsgReq lci → beatGet c 89 1 = 1 → s.grantsFull (portDie port.toNat) = false →
        Served (.msgReq port p) s port p lci (s.enterPull (portDie port.toNat) lci p.src.toNat p.msgid.toNat (beatGet c 0 32)
          (beatGet c 80 2) [] fun _ => .named)) ∧
      (∀ m, Delivered s port p ptMsgData lci → s.dataReq port.toNat lci p = some m →
        let r := s.dataIn m p.addr.toNat ((dataOf p).take (m.len - p.addr.toNat))
        Served (.msgData port p) s port p lci (if r.2 then r.1.touchMsg m.id else r.1))) ∧
  (∀ (s : State) (port : BitVec 5) (p : Packet) (lci : Nat),
      let c := pktCtl p
      (∀ t, Delivered s port p ptLoadRsp lci → s.answeredTxn lci p = some t → Served (.loadRsp port p) s port p lci (s.loadAnswered t p)) ∧
      (∀ t, Delivered s port p ptStoreAck lci → s.answeredWcb p = none → s.answeredTxn lci p = some t →
        Served (.storeAck port p) s port p lci ((s.storeTold t (beatGet c 64 32 != 0) (beatGet c 0 64 + 40)).answerTxn t (wordAnswers t.lanes (beatGet c 64 32) (beatGet c 96 8) t.pod [])
          (if beatGet c 64 32 = 0 then 0 else beatGet c 0 64 + 40))) ∧
      (∀ t, Delivered s port p ptAtomicRsp lci → s.answeredTxn lci p = some t →
        Served (.atomicRsp port p) s port p lci (s.atomicAnswered t p)) ∧
      (Delivered s port p ptToken lci → Served (.token port p) s port p lci
        (s.tokenIn lci p.src.toNat (beatGet c 160 12) p.msgid.toNat (beatGet c 0 16) (beatGet c 32 32) (beatGet c 64 32) (beatGet c 96 64))) ∧
      (Delivered s port p ptDefer lci → Served (.defer port p) s port p lci
        (s.deferMsg lci p.src.toNat (beatGet c 32 12) (beatGet c 0 16) (beatGet c 16 16))) ∧
      (Delivered s port p ptResume lci → Served (.resume port p) s port p lci
        (s.resumeMsg lci p.src.toNat (beatGet c 32 12) (beatGet c 0 16))) ∧
      (∀ x, Delivered s port p ptNak lci → s.traffic.sends.find? (fun x => x.lci == lci && x.pchip == p.src.toNat &&
          x.queue == beatGet c 32 12 && x.msgid == p.msgid.toNat) = some x →
        Served (.nak port p) s port p lci (s.sendNak x (beatGet c 0 8))) ∧
      (∀ t, Delivered s port p ptError lci → s.answeredWcb p = none → s.answeredTxn lci p = some t →
        Served (.error port p) s port p lci ((if t.kind == .store then s.storeTold t false 0 else s).loseTxn t lci (beatGet c 0 8))))

/-- 16 R426 to R432, 15 R395 to R410, 13 R359, R361, 17 R442, 18 R466, R467: the grant scheduler and its timers; the ends of background
commands; slices, drains, hints, retirements and dumps. -/
def Obligations.TimersAndBackground : Prop :=
  ∀ (s : State) (n : Nat) (die : BitVec 4),
    (∀ d m, d = die.toNat → (s.traffic.msgs.filter fun m => m.die == d) = [m] → (s.traffic.sends.filter fun x => x.die == d) = [] →
      s.msgFinish m.id = s → s.refuseLogged m = s → (s.traffic.tokens.filter fun k => k.die == d).length < 1024 →
      s.nextGrant d (Config.freeNat s.free) = some m →
      exec (.tokenIssue die) s = .next ({ s with free := s.free + 1 }.grant m)) ∧
    (∀ k m, s.traffic.tokens.find? (fun k => k.die == die.toNat && k.num == n) = some k → s.tokenReq k = some m →
      (s.guest (s.gidOf m.lci)).paused = false → k.expiry ≤ s.gtc → exec (.tokenExpiry die n) s = .next (s.voidToken k)) ∧
    (∀ m t, s.msg? n = some m → m.orphAt = some t → m.die = die.toNat → t ≤ s.gtc → s.orphanRuns m = true →
      exec (.orphanTimeout die n) s = .next (s.orphan m)) ∧
    (∀ x t y, s.send? n = some x → x.nakUntil = some t → t ≤ s.gtc → (s.guest (s.gidOf x.lci)).paused = false →
      (s.modSend n fun y => { y with nakUntil := none, sentTo := 0 }).send? n = some y →
      exec (.nakRetry n) s = .next (((s.modSend n fun y => { y with nakUntil := none, sentTo := 0 }).sendReq y).pumpSend n)) ∧
    (∀ (gid : BitVec 16) h r, s.podUnacked gid.toNat = false → s.hub.background = .pause h gid.toNat :: r →
      exec (.guestPauseComplete gid) s = .next ((((s.endBackground (.pause h gid.toNat)).setGuest gid.toNat
        { s.guest gid.toNat with pauseDone := true }).finishCmd h stOk 0).pollQueue h.fn .cmd)) ∧
    (∀ (gid : BitVec 16) h narrow dest ranges r, s.allLeft gid.toNat = true → s.hub.background = .ckpt h gid.toNat narrow dest ranges :: r →
      exec (.checkpointComplete gid) s = .next (s.finishCkpt h gid.toNat narrow dest ranges)) ∧
    (∀ (lci : BitVec 8) c h target l r, s.chip? lci.toNat = some c → s.hub.background = .migrate h lci.toNat target l :: r →
      exec (.migrationComplete lci) s = .next (s.migrateOut h lci.toNat target l c)) ∧
    exec .sliceBoundary s = .next ((s.chips.map Prod.fst).foldl (fun v k => v.chipBoundary k) s).nextSlice ∧
    (∀ (lci : BitVec 8) c t, s.chip? lci.toNat = some c → c.res.drainAt = some t → s.gtc < t → s.outEmpty lci.toNat c.res.out = true →
      exec (.drainBoundExpiry lci) s = .next (s.vacate lci.toNat)) ∧
    (∀ (cg : Word) start c, c ∈ s.chips → cg ≠ 0 → c.2.qos.cgroup = cg.toNat → s.gtc ≤ start + c.2.qos.slice →
      exec (.coschedHint cg start) s = .next (s.modMod fun m => { m with hints := m.hints ++ [(cg.toNat, start)] })) ∧
    (∀ ch : BitVec 6, exec (.channelRetirement die ch) s = .next (s.retireChannel (die.toNat * 64 + ch.toNat))) ∧
    exec (.clusterRetirement n) s = .next (s.retireCluster n) ∧
    (∀ (id : TeamId) t, s.team? id = some t → t.dbg.state = 1 → t.core? = none →
      let v := { t with dbg := { t.dbg with state := 2, stopT := s.gtc, slot := none, mark := false } }
      exec (.stopDump id) s = .next (((s.setTeam (v.mapGroups fun g => { g with stopped := true, stepping := false, run := none })).modChip id.lci
        fun c => { c with dbg := { c.dbg with pending := c.dbg.pending ++ [(id, v.dumpHead)] } }).flushDumps id.lci))

/-! ### Completion -/

/-- 03 R105, 10 R304, 09 R276, 12 R351, 14 R385: SMOVE that passes the checks of R304 posts its transfer behind an OUTBOUND entry; LAUNCH
whose release holds and whose record's page is reached posts its launch; a card whose work is done, or that has failed, writes
its status where it owns its memory and goes; at a drain bound the teams still on the clusters are pre-empted, and a chip with
no team left on them leaves them. -/
def Obligations.MovesLaunchesCardEndsAndDrainsComplete : Prop :=
  (∀ (f : FmtR) (s : State) (x : Ix) (ch : Chip) (core : Nat), Latched s f.sched x → x.active ≠ 0 →
      x.operandTrap (x.own (x.t.desc.regsOf f.sa ++ x.t.desc.regsOf f.sb ++ x.t.desc.regsOf f.sc)) (x.t.desc.regsOf f.dst) = none →
      let a := x.rd x.low f.sa
      let b := x.rd x.low f.sb
      let c := x.rd x.low f.sc
      let ofs := a % 2 ^ 32
      let len := bits (c / 2 ^ 32) 12 12
      1 ≤ len → len ≤ 2560 → bits (c / 2 ^ 32) 24 8 = 0 → ofs % 128 = 0 → b % 2 ^ 32 % 128 = 0 →
      (∀ o, smoveBar (a / 2 ^ 32) = some o → o ∈ x.t.bars) → ofs + 128 * len ≤ x.t.spadSize → x.t.rightsOk ofs (128 * len) = true →
      x.s.rangesUsed x.cur.core < 64 → x.s.chip? x.t.id.lci = some ch →
      ch.place placeCore x.cur.core (bits (c / 2 ^ 32) 0 12) = some core →
      let m : Smove := {
        id := x.s.fresh.1, src := x.t.id, group := x.cur.group, dst := { x.t.id with index := c % 2 ^ 32 }, core := core, a := ofs,
        b := b % 2 ^ 32, len := len, sbar := smoveBar (a / 2 ^ 32), rbar := smoveBar (b / 2 ^ 32), accepted := false,
        ctr := setCtr f.sched, stDst := f.dst, active := x.active }
      ∃ t, exec (.smove f) s = .next t ∧ t.traffic.smoves = x.s.traffic.smoves ++ [m] ∧
        EndsWith (Ix.withTeam { x with s := x.s.fresh.2.modTraffic fun y => { y with smoves := y.smoves ++ [m] } }
          { x.t with ranges := x.t.ranges ++ [{ state := 3, base := ofs / 128, len := len, mv := some m.id }] })
          f.sched [] noWrite x.stepped t) ∧
  (∀ (f : FmtR) (s : State) (x : Ix), Latched s f.sched x → x.active ≠ 0 →
      x.operandTrap (x.via f.perm (x.t.desc.regsOf f.sa) ++ x.own (x.t.desc.regsOf f.sb)) (x.t.desc.regsOf f.dst) = none →
      let va := x.rdVia f.perm x.low f.sa
      let r := x.s.xlateLanes x.cur.core x.t.id.lci false .read [(x.low, va)]
      let y := x.withState r.2
      x.boundary true = none → x.awaitRel .device = none → va < 2 ^ 57 → va % 64 = 0 → failedTrap r.1 = none →
      let q : LaunchReq := {
        id := y.s.fresh.1, team := y.t.id, group := y.cur.group, lq := y.rd y.low f.sb, va := va, priv := y.t.desc.priv,
        dst := f.dst, active := y.active, ctr := setCtr f.sched }
      ∃ t, exec (.launch f) s = .next t ∧ t.traffic.launches = y.s.traffic.launches ++ [q] ∧
        EndsWith { y with s := y.s.fresh.2.modTraffic fun z => { z with launches := z.launches ++ [q] } } f.sched [] noWrite
          y.stepped t) ∧
  (∀ (n : Nat) (s : State) (c : Card), s.card? n = some c → c.begun = [] → c.counting = [] → c.held = false → c.effect ≤ s.gtc →
      (c.outcome ≠ 0 ∨ (c.started = true ∧ c.chunks = [] ∧ ∀ x ∈ s.matched c, x.chunks = [] ∨ x.outcome ≠ 0)) →
      let o := if c.outcome = 0 then 1 else c.outcome
      (c.skip = true → exec (.collCardEnd n) s = .next (s.cardGone c o 0)) ∧
      (c.skip = false → ∀ v l t, (s.modCard n fun x => { x with outcome := o }).endRecord (c.job c.id) endKey c.va 64
          (16 * c.dt + 2 * c.op) (statusWord s.gtc o c.cause c.qsat) = .done v l t →
        exec (.collCardEnd n) s = .next (v.cardGone c o t))) ∧
  (∀ (lci : BitVec 8) (s : State) (c : Chip) (t : Nat), s.chip? lci.toNat = some c → c.res.drainAt = some t →
      let u := (s.teamsOn lci.toNat c.res.out).foldl (fun (s : State) v => if v.ended then s else
        match v.place with
        | .parkedInPlace _ _ => s.modTeam v.id fun v => { v with place := .parked }
        | _ => if v.leave = 2 then s else s.setLeave v.gangKey 2) s
      let w := if t ≤ s.gtc then u else s
      exec (.drainBoundExpiry lci) s = .next (if w.outEmpty lci.toNat c.res.out then w.vacate lci.toNat else w))
end

