-- ==== Sys2Proof/Laws/Maps.lean ====
section
/-! SUPPORT. Laws of the sparse maps, of bytes in them, and of lane masks. -/

namespace Sys2Proof.Machine

variable {α : Type}

@[simp] theorem smGet_nil (d : α) (b : Nat) : smGet d [] b = d := rfl

theorem smGet_smErase (d : α) (m : SMap α) (a b : Nat) :
    smGet d (smErase m a) b = if a = b then d else smGet d m b := by
  induction m with
  | nil => simp [smErase]
  | cons p r ih =>
    obtain ⟨k, v⟩ := p
    simp only [smErase] at ih ⊢
    by_cases hk : k = a
    · subst hk
      simp only [bne_self_eq_false, Bool.false_eq_true, not_false_eq_true, List.filter_cons_of_neg, ih, smGet]
      split <;> simp_all
    · simp only [bne_iff_ne, ne_eq, hk, not_false_eq_true, List.filter_cons_of_pos, smGet, ih]
      split
      · rename_i hb
        rw [if_neg (fun h => hk (hb.trans h.symm))]
      · rfl

theorem smGet_smIns_ne (d : α) (m : SMap α) (a b : Nat) (v : α) (h : a ≠ b) :
    smGet d (smIns m a v) b = smGet d m b := by
  induction m with
  | nil => simp [smIns, smGet, h]
  | cons p r ih =>
    obtain ⟨k, w⟩ := p
    simp only [smIns]
    split
    · simp [smGet, h]
    · simp [smGet, ih]

theorem smGet_smIns_self (d : α) (m : SMap α) (a : Nat) (v : α) (h : ∀ p ∈ m, p.1 ≠ a) :
    smGet d (smIns m a v) a = v := by
  induction m with
  | nil => simp [smIns, smGet]
  | cons p r ih =>
    obtain ⟨k, w⟩ := p
    have hk : k ≠ a := h (k, w) (by simp)
    simp only [smIns]
    split
    · simp [smGet]
    · simp [smGet, hk, ih fun p hp => h p (by simp [hp])]

/-- A map after one value is set. -/
@[simp] theorem smGet_smSet [DecidableEq α] (d : α) (m : SMap α) (a b : Nat) (v : α) :
    smGet d (smSet d m a v) b = if a = b then v else smGet d m b := by
  unfold smSet
  split
  · rename_i hv
    rw [smGet_smErase, hv]
  · by_cases h : a = b
    · subst h
      rw [smGet_smIns_self]
      · simp
      · intro p hp
        simp only [smErase, List.mem_filter, bne_iff_ne, ne_eq] at hp
        exact hp.2
    · rw [smGet_smIns_ne _ _ _ _ _ h, smGet_smErase, if_neg h, if_neg h]

theorem smGet_smSet_self [DecidableEq α] (d : α) (m : SMap α) (a : Nat) (v : α) : smGet d (smSet d m a v) a = v := by
  simp

/-! ### Bytes -/

@[simp] theorem natLe_length (n x : Nat) : (natLe n x).length = n := by
  induction n generalizing x with
  | zero => rfl
  | succ n ih => simp [natLe, ih]

theorem leNat_natLe (n x : Nat) : leNat (natLe n x) = x % 256 ^ n := by
  induction n generalizing x with
  | zero => simp [natLe, leNat, Nat.mod_one]
  | succ n ih =>
    simp only [natLe, leNat, ih, BitVec.toNat_ofNat]
    rw [show 256 ^ (n + 1) = 256 * 256 ^ n from by rw [Nat.pow_succ, Nat.mul_comm], Nat.mod_mul]

/-- A byte of a map after bytes have been written. -/
theorem smGet_smWrite (d : Byte) (m : SMap Byte) (a : Nat) (l : List Byte) (b : Nat) :
    smGet d (smWrite d m a l) b = if h : a ≤ b ∧ b < a + l.length then l[b - a]'(by omega) else smGet d m b := by
  induction l generalizing m a with
  | nil =>
    have : ¬ (a ≤ b ∧ b < a + ([] : List Byte).length) := by simp
    rw [dif_neg this]
    rfl
  | cons x r ih =>
    rw [smWrite, ih]
    by_cases h1 : a + 1 ≤ b ∧ b < a + 1 + r.length
    · rw [dif_pos h1, dif_pos ⟨by omega, by simp; omega⟩]
      have : b - a = (b - (a + 1)) + 1 := by omega
      simp [this]
    · rw [dif_neg h1, smGet_smSet]
      by_cases h2 : a = b
      · subst h2
        simp
      · have : ¬ (a ≤ b ∧ b < a + (x :: r).length) := by simp; omega
        rw [if_neg h2, dif_neg this]

/-! ### The canonical form of memory -/

/-- Keys strictly rise and no entry is the default. -/
def Canon [DecidableEq α] (d : α) (m : SMap α) : Prop :=
  m.Pairwise (fun p q => p.1 < q.1) ∧ ∀ p ∈ m, p.2 ≠ d

theorem memWf_iff (m : List Host.Cell) : memWf m = true ↔ Canon memDefault m := by
  induction m with
  | nil => simp [memWf, Canon]
  | cons c r ih =>
    cases r with
    | nil => simp [memWf, Canon]
    | cons e r =>
      simp only [memWf, Bool.and_eq_true, bne_iff_ne, ne_eq, decide_eq_true_eq, ih, Canon]
      constructor
      · rintro ⟨⟨h1, h2⟩, h3, h4⟩
        refine ⟨List.pairwise_cons.2 ⟨?_, h3⟩, ?_⟩
        · intro p hp
          rcases List.mem_cons.1 hp with rfl | hp
          · exact h2
          · exact Nat.lt_trans h2 ((List.pairwise_cons.1 h3).1 p hp)
        · intro p hp
          rcases List.mem_cons.1 hp with rfl | hp
          · exact h1
          · exact h4 p hp
      · rintro ⟨h1, h2⟩
        have := List.pairwise_cons.1 h1
        exact ⟨⟨h2 c (by simp), this.1 e (by simp)⟩, this.2, fun p hp => h2 p (List.mem_cons_of_mem _ hp)⟩

theorem canon_erase [DecidableEq α] {d : α} {m : SMap α} (h : Canon d m) (a : Nat) : Canon d (smErase m a) :=
  ⟨h.1.filter _, fun p hp => h.2 p (List.mem_of_mem_filter hp)⟩

theorem mem_smIns {m : SMap α} {a : Nat} {v : α} {p : Nat × α} (h : p ∈ smIns m a v) : p = (a, v) ∨ p ∈ m := by
  induction m with
  | nil => simpa [smIns] using h
  | cons q r ih =>
    obtain ⟨k, w⟩ := q
    simp only [smIns] at h
    split at h
    · simpa using h
    · rcases List.mem_cons.1 h with h | h
      · exact .inr (by simp [h])
      · rcases ih h with h | h
        · exact .inl h
        · exact .inr (List.mem_cons_of_mem _ h)

theorem canon_ins [DecidableEq α] {d : α} {m : SMap α} (h : Canon d m) (a : Nat) (v : α) (hv : v ≠ d)
    (ha : ∀ p ∈ m, p.1 ≠ a) : Canon d (smIns m a v) := by
  induction m with
  | nil => simp [smIns, Canon, hv]
  | cons q r ih =>
    obtain ⟨k, w⟩ := q
    have h1 := List.pairwise_cons.1 h.1
    have hk : k ≠ a := ha (k, w) (by simp)
    simp only [smIns]
    split
    · rename_i hlt
      refine ⟨List.pairwise_cons.2 ⟨?_, h.1⟩, ?_⟩
      · intro p hp
        rcases List.mem_cons.1 hp with rfl | hp
        · exact hlt
        · exact Nat.lt_trans hlt (h1.1 p hp)
      · intro p hp
        rcases List.mem_cons.1 hp with rfl | hp
        · exact hv
        · exact h.2 p hp
    · rename_i hge
      have hr := ih ⟨h1.2, fun p hp => h.2 p (List.mem_cons_of_mem _ hp)⟩ fun p hp => ha p (List.mem_cons_of_mem _ hp)
      refine ⟨List.pairwise_cons.2 ⟨?_, hr.1⟩, ?_⟩
      · intro p hp
        rcases mem_smIns hp with rfl | hp
        · simp only; omega
        · exact h1.1 p hp
      · intro p hp
        rcases List.mem_cons.1 hp with rfl | hp
        · exact h.2 _ (by simp)
        · exact hr.2 p hp

/-- Setting a value keeps the canonical form. -/
theorem canon_smSet [DecidableEq α] {d : α} {m : SMap α} (h : Canon d m) (a : Nat) (v : α) : Canon d (smSet d m a v) := by
  unfold smSet
  split
  · exact canon_erase h a
  · rename_i hv
    refine canon_ins (canon_erase h a) a v hv ?_
    intro p hp
    simp only [smErase, List.mem_filter, bne_iff_ne, ne_eq] at hp
    exact hp.2

/-- Writing bytes keeps the canonical form. -/
theorem canon_smWrite {d : Byte} {m : SMap Byte} (h : Canon d m) (a : Nat) (l : List Byte) : Canon d (smWrite d m a l) := by
  induction l generalizing m a with
  | nil => exact h
  | cons b r ih => exact ih (canon_smSet h a b) (a + 1)

theorem canon_filter [DecidableEq α] {d : α} {m : SMap α} (h : Canon d m) (q : Nat × α → Bool) : Canon d (m.filter q) :=
  ⟨h.1.filter _, fun p hp => h.2 p (List.mem_of_mem_filter hp)⟩

end Sys2Proof.Machine
end

