-- ==== Sys2Proof/Laws/State.lean ====
section
/-! SUPPORT. One lemma for each field of the state that an update leaves, and what the updates make of the one they change. -/

namespace Sys2Proof.Machine

variable (s : State)

@[simp] theorem State.setTeam_gtc (t : Team) : (s.setTeam t).gtc = s.gtc := rfl
@[simp] theorem State.setTeam_hub (t : Team) : (s.setTeam t).hub = s.hub := rfl
@[simp] theorem State.setTeam_chips (t : Team) : (s.setTeam t).chips = s.chips := rfl
@[simp] theorem State.setTeam_cores (t : Team) : (s.setTeam t).cores = s.cores := rfl
@[simp] theorem State.setTeam_clusters (t : Team) : (s.setTeam t).clusters = s.clusters := rfl
@[simp] theorem State.setTeam_dies (t : Team) : (s.setTeam t).dies = s.dies := rfl
@[simp] theorem State.setTeam_mod (t : Team) : (s.setTeam t).mod = s.mod := rfl
@[simp] theorem State.setTeam_mem (t : Team) : (s.setTeam t).mem = s.mem := rfl
@[simp] theorem State.setTeam_poison (t : Team) : (s.setTeam t).poison = s.poison := rfl
@[simp] theorem State.setTeam_written (t : Team) : (s.setTeam t).written = s.written := rfl
@[simp] theorem State.setTeam_traffic (t : Team) : (s.setTeam t).traffic = s.traffic := rfl
@[simp] theorem State.setTeam_irqs (t : Team) : (s.setTeam t).irqs = s.irqs := rfl
@[simp] theorem State.setTeam_outbox (t : Team) : (s.setTeam t).outbox = s.outbox := rfl
@[simp] theorem State.setTeam_agenda (t : Team) : (s.setTeam t).agenda = s.agenda := rfl
@[simp] theorem State.setTeam_free (t : Team) : (s.setTeam t).free = s.free := rfl
@[simp] theorem State.setTeam_ids (t : Team) : (s.setTeam t).ids = s.ids := rfl
@[simp] theorem State.setTeam_cur (t : Team) : (s.setTeam t).cur = s.cur := rfl

@[simp] theorem State.modTeam_gtc (i : TeamId) (f : Team → Team) : (s.modTeam i f).gtc = s.gtc := by unfold State.modTeam; split <;> rfl
@[simp] theorem State.modTeam_hub (i : TeamId) (f : Team → Team) : (s.modTeam i f).hub = s.hub := by unfold State.modTeam; split <;> rfl
@[simp] theorem State.modTeam_chips (i : TeamId) (f : Team → Team) : (s.modTeam i f).chips = s.chips := by unfold State.modTeam; split <;> rfl
@[simp] theorem State.modTeam_cores (i : TeamId) (f : Team → Team) : (s.modTeam i f).cores = s.cores := by unfold State.modTeam; split <;> rfl
@[simp] theorem State.modTeam_clusters (i : TeamId) (f : Team → Team) : (s.modTeam i f).clusters = s.clusters := by unfold State.modTeam; split <;> rfl
@[simp] theorem State.modTeam_dies (i : TeamId) (f : Team → Team) : (s.modTeam i f).dies = s.dies := by unfold State.modTeam; split <;> rfl
@[simp] theorem State.modTeam_mod (i : TeamId) (f : Team → Team) : (s.modTeam i f).mod = s.mod := by unfold State.modTeam; split <;> rfl
@[simp] theorem State.modTeam_mem (i : TeamId) (f : Team → Team) : (s.modTeam i f).mem = s.mem := by unfold State.modTeam; split <;> rfl
@[simp] theorem State.modTeam_poison (i : TeamId) (f : Team → Team) : (s.modTeam i f).poison = s.poison := by unfold State.modTeam; split <;> rfl
@[simp] theorem State.modTeam_written (i : TeamId) (f : Team → Team) : (s.modTeam i f).written = s.written := by unfold State.modTeam; split <;> rfl
@[simp] theorem State.modTeam_traffic (i : TeamId) (f : Team → Team) : (s.modTeam i f).traffic = s.traffic := by unfold State.modTeam; split <;> rfl
@[simp] theorem State.modTeam_irqs (i : TeamId) (f : Team → Team) : (s.modTeam i f).irqs = s.irqs := by unfold State.modTeam; split <;> rfl
@[simp] theorem State.modTeam_outbox (i : TeamId) (f : Team → Team) : (s.modTeam i f).outbox = s.outbox := by unfold State.modTeam; split <;> rfl
@[simp] theorem State.modTeam_agenda (i : TeamId) (f : Team → Team) : (s.modTeam i f).agenda = s.agenda := by unfold State.modTeam; split <;> rfl
@[simp] theorem State.modTeam_free (i : TeamId) (f : Team → Team) : (s.modTeam i f).free = s.free := by unfold State.modTeam; split <;> rfl
@[simp] theorem State.modTeam_ids (i : TeamId) (f : Team → Team) : (s.modTeam i f).ids = s.ids := by unfold State.modTeam; split <;> rfl
@[simp] theorem State.modTeam_cur (i : TeamId) (f : Team → Team) : (s.modTeam i f).cur = s.cur := by unfold State.modTeam; split <;> rfl

@[simp] theorem State.modGroup_gtc (i : TeamId) (n : Nat) (f : Group → Group) : (s.modGroup i n f).gtc = s.gtc := State.modTeam_gtc s i _
@[simp] theorem State.modGroup_hub (i : TeamId) (n : Nat) (f : Group → Group) : (s.modGroup i n f).hub = s.hub := State.modTeam_hub s i _
@[simp] theorem State.modGroup_chips (i : TeamId) (n : Nat) (f : Group → Group) : (s.modGroup i n f).chips = s.chips := State.modTeam_chips s i _
@[simp] theorem State.modGroup_cores (i : TeamId) (n : Nat) (f : Group → Group) : (s.modGroup i n f).cores = s.cores := State.modTeam_cores s i _
@[simp] theorem State.modGroup_clusters (i : TeamId) (n : Nat) (f : Group → Group) : (s.modGroup i n f).clusters = s.clusters := State.modTeam_clusters s i _
@[simp] theorem State.modGroup_dies (i : TeamId) (n : Nat) (f : Group → Group) : (s.modGroup i n f).dies = s.dies := State.modTeam_dies s i _
@[simp] theorem State.modGroup_mod (i : TeamId) (n : Nat) (f : Group → Group) : (s.modGroup i n f).mod = s.mod := State.modTeam_mod s i _
@[simp] theorem State.modGroup_mem (i : TeamId) (n : Nat) (f : Group → Group) : (s.modGroup i n f).mem = s.mem := State.modTeam_mem s i _
@[simp] theorem State.modGroup_poison (i : TeamId) (n : Nat) (f : Group → Group) : (s.modGroup i n f).poison = s.poison := State.modTeam_poison s i _
@[simp] theorem State.modGroup_written (i : TeamId) (n : Nat) (f : Group → Group) : (s.modGroup i n f).written = s.written := State.modTeam_written s i _
@[simp] theorem State.modGroup_traffic (i : TeamId) (n : Nat) (f : Group → Group) : (s.modGroup i n f).traffic = s.traffic := State.modTeam_traffic s i _
@[simp] theorem State.modGroup_irqs (i : TeamId) (n : Nat) (f : Group → Group) : (s.modGroup i n f).irqs = s.irqs := State.modTeam_irqs s i _
@[simp] theorem State.modGroup_outbox (i : TeamId) (n : Nat) (f : Group → Group) : (s.modGroup i n f).outbox = s.outbox := State.modTeam_outbox s i _
@[simp] theorem State.modGroup_agenda (i : TeamId) (n : Nat) (f : Group → Group) : (s.modGroup i n f).agenda = s.agenda := State.modTeam_agenda s i _
@[simp] theorem State.modGroup_free (i : TeamId) (n : Nat) (f : Group → Group) : (s.modGroup i n f).free = s.free := State.modTeam_free s i _
@[simp] theorem State.modGroup_ids (i : TeamId) (n : Nat) (f : Group → Group) : (s.modGroup i n f).ids = s.ids := State.modTeam_ids s i _
@[simp] theorem State.modGroup_cur (i : TeamId) (n : Nat) (f : Group → Group) : (s.modGroup i n f).cur = s.cur := State.modTeam_cur s i _

@[simp] theorem State.setChip_gtc (n : Nat) (c : Chip) : (s.setChip n c).gtc = s.gtc := rfl
@[simp] theorem State.setChip_hub (n : Nat) (c : Chip) : (s.setChip n c).hub = s.hub := rfl
@[simp] theorem State.setChip_teams (n : Nat) (c : Chip) : (s.setChip n c).teams = s.teams := rfl
@[simp] theorem State.setChip_cores (n : Nat) (c : Chip) : (s.setChip n c).cores = s.cores := rfl
@[simp] theorem State.setChip_clusters (n : Nat) (c : Chip) : (s.setChip n c).clusters = s.clusters := rfl
@[simp] theorem State.setChip_dies (n : Nat) (c : Chip) : (s.setChip n c).dies = s.dies := rfl
@[simp] theorem State.setChip_mod (n : Nat) (c : Chip) : (s.setChip n c).mod = s.mod := rfl
@[simp] theorem State.setChip_mem (n : Nat) (c : Chip) : (s.setChip n c).mem = s.mem := rfl
@[simp] theorem State.setChip_poison (n : Nat) (c : Chip) : (s.setChip n c).poison = s.poison := rfl
@[simp] theorem State.setChip_written (n : Nat) (c : Chip) : (s.setChip n c).written = s.written := rfl
@[simp] theorem State.setChip_traffic (n : Nat) (c : Chip) : (s.setChip n c).traffic = s.traffic := rfl
@[simp] theorem State.setChip_irqs (n : Nat) (c : Chip) : (s.setChip n c).irqs = s.irqs := rfl
@[simp] theorem State.setChip_outbox (n : Nat) (c : Chip) : (s.setChip n c).outbox = s.outbox := rfl
@[simp] theorem State.setChip_agenda (n : Nat) (c : Chip) : (s.setChip n c).agenda = s.agenda := rfl
@[simp] theorem State.setChip_free (n : Nat) (c : Chip) : (s.setChip n c).free = s.free := rfl
@[simp] theorem State.setChip_ids (n : Nat) (c : Chip) : (s.setChip n c).ids = s.ids := rfl
@[simp] theorem State.setChip_cur (n : Nat) (c : Chip) : (s.setChip n c).cur = s.cur := rfl

@[simp] theorem State.modChip_gtc (n : Nat) (f : Chip → Chip) : (s.modChip n f).gtc = s.gtc := by unfold State.modChip; split <;> rfl
@[simp] theorem State.modChip_hub (n : Nat) (f : Chip → Chip) : (s.modChip n f).hub = s.hub := by unfold State.modChip; split <;> rfl
@[simp] theorem State.modChip_teams (n : Nat) (f : Chip → Chip) : (s.modChip n f).teams = s.teams := by unfold State.modChip; split <;> rfl
@[simp] theorem State.modChip_cores (n : Nat) (f : Chip → Chip) : (s.modChip n f).cores = s.cores := by unfold State.modChip; split <;> rfl
@[simp] theorem State.modChip_clusters (n : Nat) (f : Chip → Chip) : (s.modChip n f).clusters = s.clusters := by unfold State.modChip; split <;> rfl
@[simp] theorem State.modChip_dies (n : Nat) (f : Chip → Chip) : (s.modChip n f).dies = s.dies := by unfold State.modChip; split <;> rfl
@[simp] theorem State.modChip_mod (n : Nat) (f : Chip → Chip) : (s.modChip n f).mod = s.mod := by unfold State.modChip; split <;> rfl
@[simp] theorem State.modChip_mem (n : Nat) (f : Chip → Chip) : (s.modChip n f).mem = s.mem := by unfold State.modChip; split <;> rfl
@[simp] theorem State.modChip_poison (n : Nat) (f : Chip → Chip) : (s.modChip n f).poison = s.poison := by unfold State.modChip; split <;> rfl
@[simp] theorem State.modChip_written (n : Nat) (f : Chip → Chip) : (s.modChip n f).written = s.written := by unfold State.modChip; split <;> rfl
@[simp] theorem State.modChip_traffic (n : Nat) (f : Chip → Chip) : (s.modChip n f).traffic = s.traffic := by unfold State.modChip; split <;> rfl
@[simp] theorem State.modChip_irqs (n : Nat) (f : Chip → Chip) : (s.modChip n f).irqs = s.irqs := by unfold State.modChip; split <;> rfl
@[simp] theorem State.modChip_outbox (n : Nat) (f : Chip → Chip) : (s.modChip n f).outbox = s.outbox := by unfold State.modChip; split <;> rfl
@[simp] theorem State.modChip_agenda (n : Nat) (f : Chip → Chip) : (s.modChip n f).agenda = s.agenda := by unfold State.modChip; split <;> rfl
@[simp] theorem State.modChip_free (n : Nat) (f : Chip → Chip) : (s.modChip n f).free = s.free := by unfold State.modChip; split <;> rfl
@[simp] theorem State.modChip_ids (n : Nat) (f : Chip → Chip) : (s.modChip n f).ids = s.ids := by unfold State.modChip; split <;> rfl
@[simp] theorem State.modChip_cur (n : Nat) (f : Chip → Chip) : (s.modChip n f).cur = s.cur := by unfold State.modChip; split <;> rfl

@[simp] theorem State.setCore_gtc (n : Nat) (c : Core) : (s.setCore n c).gtc = s.gtc := rfl
@[simp] theorem State.setCore_hub (n : Nat) (c : Core) : (s.setCore n c).hub = s.hub := rfl
@[simp] theorem State.setCore_chips (n : Nat) (c : Core) : (s.setCore n c).chips = s.chips := rfl
@[simp] theorem State.setCore_teams (n : Nat) (c : Core) : (s.setCore n c).teams = s.teams := rfl
@[simp] theorem State.setCore_clusters (n : Nat) (c : Core) : (s.setCore n c).clusters = s.clusters := rfl
@[simp] theorem State.setCore_dies (n : Nat) (c : Core) : (s.setCore n c).dies = s.dies := rfl
@[simp] theorem State.setCore_mod (n : Nat) (c : Core) : (s.setCore n c).mod = s.mod := rfl
@[simp] theorem State.setCore_mem (n : Nat) (c : Core) : (s.setCore n c).mem = s.mem := rfl
@[simp] theorem State.setCore_poison (n : Nat) (c : Core) : (s.setCore n c).poison = s.poison := rfl
@[simp] theorem State.setCore_written (n : Nat) (c : Core) : (s.setCore n c).written = s.written := rfl
@[simp] theorem State.setCore_traffic (n : Nat) (c : Core) : (s.setCore n c).traffic = s.traffic := rfl
@[simp] theorem State.setCore_irqs (n : Nat) (c : Core) : (s.setCore n c).irqs = s.irqs := rfl
@[simp] theorem State.setCore_outbox (n : Nat) (c : Core) : (s.setCore n c).outbox = s.outbox := rfl
@[simp] theorem State.setCore_agenda (n : Nat) (c : Core) : (s.setCore n c).agenda = s.agenda := rfl
@[simp] theorem State.setCore_free (n : Nat) (c : Core) : (s.setCore n c).free = s.free := rfl
@[simp] theorem State.setCore_ids (n : Nat) (c : Core) : (s.setCore n c).ids = s.ids := rfl
@[simp] theorem State.setCore_cur (n : Nat) (c : Core) : (s.setCore n c).cur = s.cur := rfl

@[simp] theorem State.modCore_gtc (n : Nat) (f : Core → Core) : (s.modCore n f).gtc = s.gtc := rfl
@[simp] theorem State.modCore_hub (n : Nat) (f : Core → Core) : (s.modCore n f).hub = s.hub := rfl
@[simp] theorem State.modCore_chips (n : Nat) (f : Core → Core) : (s.modCore n f).chips = s.chips := rfl
@[simp] theorem State.modCore_teams (n : Nat) (f : Core → Core) : (s.modCore n f).teams = s.teams := rfl
@[simp] theorem State.modCore_clusters (n : Nat) (f : Core → Core) : (s.modCore n f).clusters = s.clusters := rfl
@[simp] theorem State.modCore_dies (n : Nat) (f : Core → Core) : (s.modCore n f).dies = s.dies := rfl
@[simp] theorem State.modCore_mod (n : Nat) (f : Core → Core) : (s.modCore n f).mod = s.mod := rfl
@[simp] theorem State.modCore_mem (n : Nat) (f : Core → Core) : (s.modCore n f).mem = s.mem := rfl
@[simp] theorem State.modCore_poison (n : Nat) (f : Core → Core) : (s.modCore n f).poison = s.poison := rfl
@[simp] theorem State.modCore_written (n : Nat) (f : Core → Core) : (s.modCore n f).written = s.written := rfl
@[simp] theorem State.modCore_traffic (n : Nat) (f : Core → Core) : (s.modCore n f).traffic = s.traffic := rfl
@[simp] theorem State.modCore_irqs (n : Nat) (f : Core → Core) : (s.modCore n f).irqs = s.irqs := rfl
@[simp] theorem State.modCore_outbox (n : Nat) (f : Core → Core) : (s.modCore n f).outbox = s.outbox := rfl
@[simp] theorem State.modCore_agenda (n : Nat) (f : Core → Core) : (s.modCore n f).agenda = s.agenda := rfl
@[simp] theorem State.modCore_free (n : Nat) (f : Core → Core) : (s.modCore n f).free = s.free := rfl
@[simp] theorem State.modCore_ids (n : Nat) (f : Core → Core) : (s.modCore n f).ids = s.ids := rfl
@[simp] theorem State.modCore_cur (n : Nat) (f : Core → Core) : (s.modCore n f).cur = s.cur := rfl

@[simp] theorem State.setDie_gtc (n : Nat) (c : Die) : (s.setDie n c).gtc = s.gtc := rfl
@[simp] theorem State.setDie_hub (n : Nat) (c : Die) : (s.setDie n c).hub = s.hub := rfl
@[simp] theorem State.setDie_chips (n : Nat) (c : Die) : (s.setDie n c).chips = s.chips := rfl
@[simp] theorem State.setDie_teams (n : Nat) (c : Die) : (s.setDie n c).teams = s.teams := rfl
@[simp] theorem State.setDie_cores (n : Nat) (c : Die) : (s.setDie n c).cores = s.cores := rfl
@[simp] theorem State.setDie_clusters (n : Nat) (c : Die) : (s.setDie n c).clusters = s.clusters := rfl
@[simp] theorem State.setDie_mod (n : Nat) (c : Die) : (s.setDie n c).mod = s.mod := rfl
@[simp] theorem State.setDie_mem (n : Nat) (c : Die) : (s.setDie n c).mem = s.mem := rfl
@[simp] theorem State.setDie_poison (n : Nat) (c : Die) : (s.setDie n c).poison = s.poison := rfl
@[simp] theorem State.setDie_written (n : Nat) (c : Die) : (s.setDie n c).written = s.written := rfl
@[simp] theorem State.setDie_traffic (n : Nat) (c : Die) : (s.setDie n c).traffic = s.traffic := rfl
@[simp] theorem State.setDie_irqs (n : Nat) (c : Die) : (s.setDie n c).irqs = s.irqs := rfl
@[simp] theorem State.setDie_outbox (n : Nat) (c : Die) : (s.setDie n c).outbox = s.outbox := rfl
@[simp] theorem State.setDie_agenda (n : Nat) (c : Die) : (s.setDie n c).agenda = s.agenda := rfl
@[simp] theorem State.setDie_free (n : Nat) (c : Die) : (s.setDie n c).free = s.free := rfl
@[simp] theorem State.setDie_ids (n : Nat) (c : Die) : (s.setDie n c).ids = s.ids := rfl
@[simp] theorem State.setDie_cur (n : Nat) (c : Die) : (s.setDie n c).cur = s.cur := rfl

@[simp] theorem State.modDie_gtc (n : Nat) (f : Die → Die) : (s.modDie n f).gtc = s.gtc := rfl
@[simp] theorem State.modDie_hub (n : Nat) (f : Die → Die) : (s.modDie n f).hub = s.hub := rfl
@[simp] theorem State.modDie_chips (n : Nat) (f : Die → Die) : (s.modDie n f).chips = s.chips := rfl
@[simp] theorem State.modDie_teams (n : Nat) (f : Die → Die) : (s.modDie n f).teams = s.teams := rfl
@[simp] theorem State.modDie_cores (n : Nat) (f : Die → Die) : (s.modDie n f).cores = s.cores := rfl
@[simp] theorem State.modDie_clusters (n : Nat) (f : Die → Die) : (s.modDie n f).clusters = s.clusters := rfl
@[simp] theorem State.modDie_mod (n : Nat) (f : Die → Die) : (s.modDie n f).mod = s.mod := rfl
@[simp] theorem State.modDie_mem (n : Nat) (f : Die → Die) : (s.modDie n f).mem = s.mem := rfl
@[simp] theorem State.modDie_poison (n : Nat) (f : Die → Die) : (s.modDie n f).poison = s.poison := rfl
@[simp] theorem State.modDie_written (n : Nat) (f : Die → Die) : (s.modDie n f).written = s.written := rfl
@[simp] theorem State.modDie_traffic (n : Nat) (f : Die → Die) : (s.modDie n f).traffic = s.traffic := rfl
@[simp] theorem State.modDie_irqs (n : Nat) (f : Die → Die) : (s.modDie n f).irqs = s.irqs := rfl
@[simp] theorem State.modDie_outbox (n : Nat) (f : Die → Die) : (s.modDie n f).outbox = s.outbox := rfl
@[simp] theorem State.modDie_agenda (n : Nat) (f : Die → Die) : (s.modDie n f).agenda = s.agenda := rfl
@[simp] theorem State.modDie_free (n : Nat) (f : Die → Die) : (s.modDie n f).free = s.free := rfl
@[simp] theorem State.modDie_ids (n : Nat) (f : Die → Die) : (s.modDie n f).ids = s.ids := rfl
@[simp] theorem State.modDie_cur (n : Nat) (f : Die → Die) : (s.modDie n f).cur = s.cur := rfl

@[simp] theorem State.modCluster_gtc (n : Nat) (f : Cluster → Cluster) : (s.modCluster n f).gtc = s.gtc := rfl
@[simp] theorem State.modCluster_hub (n : Nat) (f : Cluster → Cluster) : (s.modCluster n f).hub = s.hub := rfl
@[simp] theorem State.modCluster_chips (n : Nat) (f : Cluster → Cluster) : (s.modCluster n f).chips = s.chips := rfl
@[simp] theorem State.modCluster_teams (n : Nat) (f : Cluster → Cluster) : (s.modCluster n f).teams = s.teams := rfl
@[simp] theorem State.modCluster_cores (n : Nat) (f : Cluster → Cluster) : (s.modCluster n f).cores = s.cores := rfl
@[simp] theorem State.modCluster_dies (n : Nat) (f : Cluster → Cluster) : (s.modCluster n f).dies = s.dies := rfl
@[simp] theorem State.modCluster_mod (n : Nat) (f : Cluster → Cluster) : (s.modCluster n f).mod = s.mod := rfl
@[simp] theorem State.modCluster_mem (n : Nat) (f : Cluster → Cluster) : (s.modCluster n f).mem = s.mem := rfl
@[simp] theorem State.modCluster_poison (n : Nat) (f : Cluster → Cluster) : (s.modCluster n f).poison = s.poison := rfl
@[simp] theorem State.modCluster_written (n : Nat) (f : Cluster → Cluster) : (s.modCluster n f).written = s.written := rfl
@[simp] theorem State.modCluster_traffic (n : Nat) (f : Cluster → Cluster) : (s.modCluster n f).traffic = s.traffic := rfl
@[simp] theorem State.modCluster_irqs (n : Nat) (f : Cluster → Cluster) : (s.modCluster n f).irqs = s.irqs := rfl
@[simp] theorem State.modCluster_outbox (n : Nat) (f : Cluster → Cluster) : (s.modCluster n f).outbox = s.outbox := rfl
@[simp] theorem State.modCluster_agenda (n : Nat) (f : Cluster → Cluster) : (s.modCluster n f).agenda = s.agenda := rfl
@[simp] theorem State.modCluster_free (n : Nat) (f : Cluster → Cluster) : (s.modCluster n f).free = s.free := rfl
@[simp] theorem State.modCluster_ids (n : Nat) (f : Cluster → Cluster) : (s.modCluster n f).ids = s.ids := rfl
@[simp] theorem State.modCluster_cur (n : Nat) (f : Cluster → Cluster) : (s.modCluster n f).cur = s.cur := rfl

@[simp] theorem State.setGuest_gtc (n : Nat) (g : Guest) : (s.setGuest n g).gtc = s.gtc := rfl
@[simp] theorem State.setGuest_hub (n : Nat) (g : Guest) : (s.setGuest n g).hub = s.hub := rfl
@[simp] theorem State.setGuest_chips (n : Nat) (g : Guest) : (s.setGuest n g).chips = s.chips := rfl
@[simp] theorem State.setGuest_teams (n : Nat) (g : Guest) : (s.setGuest n g).teams = s.teams := rfl
@[simp] theorem State.setGuest_cores (n : Nat) (g : Guest) : (s.setGuest n g).cores = s.cores := rfl
@[simp] theorem State.setGuest_clusters (n : Nat) (g : Guest) : (s.setGuest n g).clusters = s.clusters := rfl
@[simp] theorem State.setGuest_dies (n : Nat) (g : Guest) : (s.setGuest n g).dies = s.dies := rfl
@[simp] theorem State.setGuest_mem (n : Nat) (g : Guest) : (s.setGuest n g).mem = s.mem := rfl
@[simp] theorem State.setGuest_poison (n : Nat) (g : Guest) : (s.setGuest n g).poison = s.poison := rfl
@[simp] theorem State.setGuest_written (n : Nat) (g : Guest) : (s.setGuest n g).written = s.written := rfl
@[simp] theorem State.setGuest_traffic (n : Nat) (g : Guest) : (s.setGuest n g).traffic = s.traffic := rfl
@[simp] theorem State.setGuest_irqs (n : Nat) (g : Guest) : (s.setGuest n g).irqs = s.irqs := rfl
@[simp] theorem State.setGuest_outbox (n : Nat) (g : Guest) : (s.setGuest n g).outbox = s.outbox := rfl
@[simp] theorem State.setGuest_agenda (n : Nat) (g : Guest) : (s.setGuest n g).agenda = s.agenda := rfl
@[simp] theorem State.setGuest_free (n : Nat) (g : Guest) : (s.setGuest n g).free = s.free := rfl
@[simp] theorem State.setGuest_ids (n : Nat) (g : Guest) : (s.setGuest n g).ids = s.ids := rfl
@[simp] theorem State.setGuest_cur (n : Nat) (g : Guest) : (s.setGuest n g).cur = s.cur := rfl

@[simp] theorem State.modTraffic_gtc (f : Traffic → Traffic) : (s.modTraffic f).gtc = s.gtc := rfl
@[simp] theorem State.modTraffic_hub (f : Traffic → Traffic) : (s.modTraffic f).hub = s.hub := rfl
@[simp] theorem State.modTraffic_chips (f : Traffic → Traffic) : (s.modTraffic f).chips = s.chips := rfl
@[simp] theorem State.modTraffic_teams (f : Traffic → Traffic) : (s.modTraffic f).teams = s.teams := rfl
@[simp] theorem State.modTraffic_cores (f : Traffic → Traffic) : (s.modTraffic f).cores = s.cores := rfl
@[simp] theorem State.modTraffic_clusters (f : Traffic → Traffic) : (s.modTraffic f).clusters = s.clusters := rfl
@[simp] theorem State.modTraffic_dies (f : Traffic → Traffic) : (s.modTraffic f).dies = s.dies := rfl
@[simp] theorem State.modTraffic_mod (f : Traffic → Traffic) : (s.modTraffic f).mod = s.mod := rfl
@[simp] theorem State.modTraffic_mem (f : Traffic → Traffic) : (s.modTraffic f).mem = s.mem := rfl
@[simp] theorem State.modTraffic_poison (f : Traffic → Traffic) : (s.modTraffic f).poison = s.poison := rfl
@[simp] theorem State.modTraffic_written (f : Traffic → Traffic) : (s.modTraffic f).written = s.written := rfl
@[simp] theorem State.modTraffic_irqs (f : Traffic → Traffic) : (s.modTraffic f).irqs = s.irqs := rfl
@[simp] theorem State.modTraffic_outbox (f : Traffic → Traffic) : (s.modTraffic f).outbox = s.outbox := rfl
@[simp] theorem State.modTraffic_agenda (f : Traffic → Traffic) : (s.modTraffic f).agenda = s.agenda := rfl
@[simp] theorem State.modTraffic_free (f : Traffic → Traffic) : (s.modTraffic f).free = s.free := rfl
@[simp] theorem State.modTraffic_ids (f : Traffic → Traffic) : (s.modTraffic f).ids = s.ids := rfl
@[simp] theorem State.modTraffic_cur (f : Traffic → Traffic) : (s.modTraffic f).cur = s.cur := rfl

@[simp] theorem State.modHub_gtc (f : Hub → Hub) : (s.modHub f).gtc = s.gtc := rfl
@[simp] theorem State.modHub_chips (f : Hub → Hub) : (s.modHub f).chips = s.chips := rfl
@[simp] theorem State.modHub_teams (f : Hub → Hub) : (s.modHub f).teams = s.teams := rfl
@[simp] theorem State.modHub_cores (f : Hub → Hub) : (s.modHub f).cores = s.cores := rfl
@[simp] theorem State.modHub_clusters (f : Hub → Hub) : (s.modHub f).clusters = s.clusters := rfl
@[simp] theorem State.modHub_dies (f : Hub → Hub) : (s.modHub f).dies = s.dies := rfl
@[simp] theorem State.modHub_mod (f : Hub → Hub) : (s.modHub f).mod = s.mod := rfl
@[simp] theorem State.modHub_mem (f : Hub → Hub) : (s.modHub f).mem = s.mem := rfl
@[simp] theorem State.modHub_poison (f : Hub → Hub) : (s.modHub f).poison = s.poison := rfl
@[simp] theorem State.modHub_written (f : Hub → Hub) : (s.modHub f).written = s.written := rfl
@[simp] theorem State.modHub_traffic (f : Hub → Hub) : (s.modHub f).traffic = s.traffic := rfl
@[simp] theorem State.modHub_irqs (f : Hub → Hub) : (s.modHub f).irqs = s.irqs := rfl
@[simp] theorem State.modHub_outbox (f : Hub → Hub) : (s.modHub f).outbox = s.outbox := rfl
@[simp] theorem State.modHub_agenda (f : Hub → Hub) : (s.modHub f).agenda = s.agenda := rfl
@[simp] theorem State.modHub_free (f : Hub → Hub) : (s.modHub f).free = s.free := rfl
@[simp] theorem State.modHub_ids (f : Hub → Hub) : (s.modHub f).ids = s.ids := rfl
@[simp] theorem State.modHub_cur (f : Hub → Hub) : (s.modHub f).cur = s.cur := rfl

@[simp] theorem State.modMod_gtc (f : Module → Module) : (s.modMod f).gtc = s.gtc := rfl
@[simp] theorem State.modMod_hub (f : Module → Module) : (s.modMod f).hub = s.hub := rfl
@[simp] theorem State.modMod_chips (f : Module → Module) : (s.modMod f).chips = s.chips := rfl
@[simp] theorem State.modMod_teams (f : Module → Module) : (s.modMod f).teams = s.teams := rfl
@[simp] theorem State.modMod_cores (f : Module → Module) : (s.modMod f).cores = s.cores := rfl
@[simp] theorem State.modMod_clusters (f : Module → Module) : (s.modMod f).clusters = s.clusters := rfl
@[simp] theorem State.modMod_dies (f : Module → Module) : (s.modMod f).dies = s.dies := rfl
@[simp] theorem State.modMod_mem (f : Module → Module) : (s.modMod f).mem = s.mem := rfl
@[simp] theorem State.modMod_poison (f : Module → Module) : (s.modMod f).poison = s.poison := rfl
@[simp] theorem State.modMod_written (f : Module → Module) : (s.modMod f).written = s.written := rfl
@[simp] theorem State.modMod_traffic (f : Module → Module) : (s.modMod f).traffic = s.traffic := rfl
@[simp] theorem State.modMod_irqs (f : Module → Module) : (s.modMod f).irqs = s.irqs := rfl
@[simp] theorem State.modMod_outbox (f : Module → Module) : (s.modMod f).outbox = s.outbox := rfl
@[simp] theorem State.modMod_agenda (f : Module → Module) : (s.modMod f).agenda = s.agenda := rfl
@[simp] theorem State.modMod_free (f : Module → Module) : (s.modMod f).free = s.free := rfl
@[simp] theorem State.modMod_ids (f : Module → Module) : (s.modMod f).ids = s.ids := rfl
@[simp] theorem State.modMod_cur (f : Module → Module) : (s.modMod f).cur = s.cur := rfl

/-- A team that is found has the identity it was sought by. -/
theorem State.team?_id {s : State} {id : TeamId} {t : Team} (h : s.team? id = some t) : t.id = id := by
  have := List.find?_some h
  simpa using this

/-- The teams after one has been replaced. -/
theorem State.team?_setTeam (s : State) (t : Team) (id : TeamId) :
    (s.setTeam t).team? id = if id = t.id then (s.team? t.id).map fun _ => t else s.team? id := by
  unfold State.team? State.setTeam
  simp only
  induction s.teams with
  | nil => simp
  | cons u r ih =>
    simp only [List.map_cons, List.find?_cons]
    by_cases hu : u.id = t.id
    · simp only [hu, ↓reduceIte, decide_true]
      by_cases hi : id = t.id
      · subst hi
        simp
      · have : t.id ≠ id := fun h => hi h.symm
        simp only [this, decide_false, hi, ↓reduceIte] at ih ⊢
        exact ih
    · simp only [hu, ↓reduceIte, decide_false]
      by_cases hi : u.id = id
      · have : id ≠ t.id := fun h => hu (hi.trans h)
        simp [hi, this]
      · simp only [hi, decide_false]
        exact ih

/-- The chip after one has been replaced. -/
theorem State.chip?_setChip (s : State) (n k : Nat) (c : Chip) :
    (s.setChip n c).chip? k = if k = n then (s.chip? n).map fun _ => c else s.chip? k := by
  unfold State.chip? State.setChip
  simp only
  induction s.chips with
  | nil => simp
  | cons u r ih =>
    simp only [List.map_cons, List.find?_cons]
    by_cases hu : u.1 = n
    · simp only [hu, ↓reduceIte, decide_true]
      by_cases hi : k = n
      · subst hi
        simp
      · have : n ≠ k := fun h => hi h.symm
        simp only [this, decide_false, hi, ↓reduceIte] at ih ⊢
        exact ih
    · simp only [hu, ↓reduceIte, decide_false]
      by_cases hi : u.1 = k
      · have : k ≠ n := fun h => hu (hi.trans h)
        simp [hi, this]
      · simp only [hi, decide_false]
        exact ih

/-- A core after one has been replaced. -/
@[simp] theorem State.core_setCore (s : State) (n k : Nat) (c : Core) :
    (s.setCore n c).core k = if n = k then c else s.core k := by simp [State.core, State.setCore]

/-- A die after one has been replaced. -/
@[simp] theorem State.die_setDie (s : State) (n k : Nat) (c : Die) :
    (s.setDie n c).die k = if n = k then c else s.die k := by simp [State.die, State.setDie]

/-- A cluster after a change. -/
@[simp] theorem State.cluster_modCluster (s : State) (n k : Nat) (f : Cluster → Cluster) :
    (s.modCluster n f).cluster k = if n = k then f (s.cluster n) else s.cluster k := by
  simp [State.cluster, State.modCluster]

/-- A group of a team after one has been replaced. -/
@[simp] theorem Team.group_setGroup (t : Team) (n k : Nat) (g : Group) :
    (t.setGroup n g).group k = if n = k then g else t.group k := by simp [Team.group, Team.setGroup]

@[simp] theorem Team.setGroup_id (t : Team) (n : Nat) (g : Group) : (t.setGroup n g).id = t.id := rfl

end Sys2Proof.Machine
end

