-- ==== Sys2Proof/Laws/Groups.lean ====
section
/-! SUPPORT. Laws of lanes, registers, predicates and counters of a group: what `Group.write`, `Ix.advance` and `Ix.finish`
can do. -/

namespace Sys2Proof.Machine

/-! ### Lane masks -/

theorem mem_lanesOf (m : Mask) (l : Nat) : l ∈ lanesOf m ↔ l < 32 ∧ m.getLsbD l = true := by
  simp [lanesOf]

theorem lanesOf_nodup (m : Mask) : (lanesOf m).Nodup := by
  simpa [lanesOf] using List.Nodup.filter _ List.nodup_range

/-! ### Lanes -/

@[simp] theorem Group.lane_setLane (g : Group) (l k : Nat) (x : Lane) :
    (g.setLane l x).lane k = if l = k then x else g.lane k := by simp [Group.lane, Group.setLane]

@[simp] theorem Group.setLane_regs (g : Group) (l : Nat) (x : Lane) : (g.setLane l x).regs = g.regs := rfl
@[simp] theorem Group.setLane_ord (g : Group) (l : Nat) (x : Lane) : (g.setLane l x).ord = g.ord := rfl

@[simp] theorem Group.lane_modLane (g : Group) (l k : Nat) (f : Lane → Lane) :
    (g.modLane l f).lane k = if l = k then f (g.lane l) else g.lane k := by simp [Group.modLane]

/-- A group changed in its lanes alone. -/
theorem Group.modLane_eq (g : Group) (l : Nat) (f : Lane → Lane) :
    g.modLane l f = { g with lanes := (g.modLane l f).lanes } := rfl

theorem Group.foldl_modLane (l : List Nat) (g : Group) (f : Nat → Lane → Lane) (k : Nat) (hn : l.Nodup) :
    (l.foldl (fun g i => g.modLane i (f i)) g).lane k = if k ∈ l then f k (g.lane k) else g.lane k := by
  induction l generalizing g with
  | nil => simp
  | cons a r ih =>
    have := List.nodup_cons.1 hn
    rw [List.foldl_cons, ih _ this.2]
    by_cases hk : k = a
    · subst hk
      simp [this.1]
    · have : a ≠ k := fun h => hk h.symm
      simp [hk, this]

theorem Group.foldl_modLane_eq (l : List Nat) (g : Group) (f : Nat → Lane → Lane) :
    l.foldl (fun g i => g.modLane i (f i)) g = { g with lanes := (l.foldl (fun g i => g.modLane i (f i)) g).lanes } := by
  induction l generalizing g with
  | nil => rfl
  | cons a r ih => rw [List.foldl_cons, ih]; rfl

/-- Lanes of a mask after a change of each. -/
theorem Group.lane_modLanes (g : Group) (m : Mask) (f : Nat → Lane → Lane) (k : Nat) (h : k < 32) :
    (g.modLanes m f).lane k = if m.getLsbD k then f k (g.lane k) else g.lane k := by
  rw [Group.modLanes, Group.foldl_modLane _ _ _ _ (lanesOf_nodup m)]
  simp [mem_lanesOf, h]

theorem Group.modLanes_eq (g : Group) (m : Mask) (f : Nat → Lane → Lane) :
    g.modLanes m f = { g with lanes := (g.modLanes m f).lanes } := Group.foldl_modLane_eq _ _ _

/-! ### Keys -/

/-- What a key keeps of a value: a register all of it, a predicate whether it is nonzero. -/
def kept (k : Nat) (v : Word) : Word := if k < 256 then v else if v = 0 then 0 else 1

/-- A group changed in its registers, predicates and register errors alone. -/
theorem Group.setKey_eq (g : Group) (l k : Nat) (v : Word) :
    g.setKey l k v = { g with lanes := (g.setKey l k v).lanes, regs := (g.setKey l k v).regs, bad := (g.setKey l k v).bad } := by
  unfold Group.setKey
  split
  · rfl
  · split <;> rfl

/-- A lane after a key of a lane has been set: only predicates may differ. -/
theorem Group.lane_setKey (g : Group) (l k : Nat) (v : Word) (i : Nat) :
    ∃ p, (g.setKey l k v).lane i = { g.lane i with preds := p } := by
  unfold Group.setKey
  split
  · exact ⟨(g.lane i).preds, rfl⟩
  · split
    · rw [Group.lane_modLane]
      split
      · rename_i h
        subst h
        exact ⟨_, rfl⟩
      · exact ⟨(g.lane i).preds, rfl⟩
    · exact ⟨(g.lane i).preds, rfl⟩

theorem preds_set (p : BitVec 7) (b : Bool) (i j : Nat) (hi : i < 7) (hj : j < 7) :
    (if b then p &&& ~~~ BitVec.ofNat 7 (2 ^ i) else p ||| BitVec.ofNat 7 (2 ^ i)).getLsbD j =
      if i = j then !b else p.getLsbD j := by
  have h : ∀ (p : BitVec 7) (b : Bool) (i j : Fin 7),
      (if b then p &&& ~~~ BitVec.ofNat 7 (2 ^ i.val) else p ||| BitVec.ofNat 7 (2 ^ i.val)).getLsbD j.val =
        if i.val = j.val then !b else p.getLsbD j.val := by decide +kernel
  exact h p b ⟨i, hi⟩ ⟨j, hj⟩

/-- A key after one has been set. -/
theorem Group.key_setKey (g : Group) (l k : Nat) (v : Word) (i j : Nat) (hk : k < 263) (hj : j < 263) :
    (g.setKey l k v).key i j = if l = i ∧ k = j then kept k v else g.key i j := by
  by_cases h1 : k < 256
  · simp only [Group.setKey, h1, ↓reduceIte, Group.key, kept]
    by_cases h2 : j < 256
    · simp only [h2, ↓reduceIte, smGet_smSet]
      have : (256 * l + k = 256 * i + j) ↔ (l = i ∧ k = j) := by omega
      simp [this]
    · have : ¬ (l = i ∧ k = j) := by omega
      simp only [h2, ↓reduceIte, this]
      rfl
  · have h3 : ¬ k < 256 := h1
    simp only [Group.setKey, h1, ↓reduceIte, hk, Group.key, kept]
    by_cases h2 : j < 256
    · have : ¬ (l = i ∧ k = j) := by omega
      simp only [h2, ↓reduceIte, this]
      rfl
    · simp only [h2, ↓reduceIte, Group.lane_modLane]
      by_cases hl : l = i
      · subst hl
        simp only [↓reduceIte, true_and]
        have := preds_set (g.lane l).preds (decide (v = 0)) (k - 256) (j - 256) (by omega) (by omega)
        simp only [decide_eq_true_eq] at this
        rw [this]
        have hkj : (k - 256 = j - 256) ↔ (k = j) := by omega
        by_cases hv : v = 0 <;> by_cases hkj2 : k = j <;> simp [hkj, hkj2, hv]
      · simp [hl]

theorem Group.key_foldl_ne (ws : List Wr) (g : Group) (i j : Nat) (hj : j < 263) (hk : ∀ w ∈ ws, w.key < 263)
    (h : ∀ w ∈ ws, ¬ (w.lane = i ∧ w.key = j)) :
    (ws.foldl (fun g w => g.setKey w.lane w.key w.val) g).key i j = g.key i j := by
  induction ws generalizing g with
  | nil => rfl
  | cons w r ih =>
    rw [List.foldl_cons, ih _ (fun w hw => hk w (List.mem_cons_of_mem _ hw)) (fun w hw => h w (List.mem_cons_of_mem _ hw)),
      Group.key_setKey _ _ _ _ _ _ (hk w (by simp)) hj]
    simp [h w (by simp)]

theorem Group.key_foldl_mem (ws : List Wr) (g : Group) (i j : Nat) (v : Word) (hj : j < 263) (hk : ∀ w ∈ ws, w.key < 263)
    (h : ∀ w ∈ ws, w.lane = i → w.key = j → w.val = v) (hm : ∃ w ∈ ws, w.lane = i ∧ w.key = j) :
    (ws.foldl (fun g w => g.setKey w.lane w.key w.val) g).key i j = kept j v := by
  induction ws generalizing g with
  | nil => simp at hm
  | cons w r ih =>
    rw [List.foldl_cons]
    have hk' : ∀ w ∈ r, w.key < 263 := fun w hw => hk w (List.mem_cons_of_mem _ hw)
    by_cases hr : ∃ w ∈ r, w.lane = i ∧ w.key = j
    · exact ih _ hk' (fun w hw => h w (List.mem_cons_of_mem _ hw)) hr
    · have hw : w.lane = i ∧ w.key = j := by
        obtain ⟨u, hu, h2⟩ := hm
        rcases List.mem_cons.1 hu with rfl | hu
        · exact h2
        · exact absurd ⟨u, hu, h2⟩ hr
      rw [Group.key_foldl_ne r _ i j hj hk' (fun w hw h2 => hr ⟨w, hw, h2⟩),
        Group.key_setKey _ _ _ _ _ _ (hk w (by simp)) hj, if_pos hw, h w (by simp) hw.1 hw.2, hw.2]

theorem Group.foldl_setKey_eq (ws : List Wr) (g : Group) :
    ws.foldl (fun g w => g.setKey w.lane w.key w.val) g =
      { g with
        lanes := (ws.foldl (fun g w => g.setKey w.lane w.key w.val) g).lanes
        regs := (ws.foldl (fun g w => g.setKey w.lane w.key w.val) g).regs
        bad := (ws.foldl (fun g w => g.setKey w.lane w.key w.val) g).bad } := by
  induction ws generalizing g with
  | nil => rfl
  | cons w r ih =>
    rw [List.foldl_cons, ih (g.setKey w.lane w.key w.val)]
    generalize r.foldl (fun g w => g.setKey w.lane w.key w.val) (g.setKey w.lane w.key w.val) = h
    rw [Group.setKey_eq g w.lane w.key w.val]

theorem Group.lane_foldl_setKey (ws : List Wr) (g : Group) (i : Nat) :
    ∃ p, (ws.foldl (fun g w => g.setKey w.lane w.key w.val) g).lane i = { g.lane i with preds := p } := by
  induction ws generalizing g with
  | nil => exact ⟨(g.lane i).preds, rfl⟩
  | cons w r ih =>
    obtain ⟨p, hp⟩ := ih (g.setKey w.lane w.key w.val)
    obtain ⟨q, hq⟩ := Group.lane_setKey g w.lane w.key w.val i
    exact ⟨p, by rw [List.foldl_cons, hp, hq]⟩

end Sys2Proof.Machine
end

