-- ==== Sys2Proof/Laws/Finish.lean ====
section
/-! SUPPORT. What completing a register instruction can do, said once: `Ix.finish`, `Ix.alu`, `Ix.aluSr`. -/

namespace Sys2Proof.Machine

/-- The latch decides what `issue` runs. -/
theorem issue_latched {s : State} {sc : Sched} {x : Ix} (h : Latched s sc x) (k : Ix → State) : issue s sc k = .next (k x) := by
  unfold Latched State.latched at h
  unfold issue
  cases hc : s.cur with
  | none => simp [hc] at h
  | some c =>
    simp only [hc, Option.map_eq_some_iff] at h
    obtain ⟨t, ht, h⟩ := h
    simp only [ht, h]

/-- Names that pass the operand checks are below 256. -/
theorem names_lt {x : Ix} {srcs : List (Nat × Mask)} {dsts : List Nat} (h : x.operandTrap srcs dsts = none) :
    ∀ n ∈ dsts, n < 256 := by
  intro n hn
  by_contra hge
  have hb : x.beyond (dsts ++ srcs.map (·.1)) ≠ none := by
    simp only [Ix.beyond, ne_eq, List.find?_eq_none, not_forall, decide_eq_true_eq]
    exact ⟨n, List.mem_append_left _ hn, by simp; omega⟩
  unfold Ix.operandTrap Ix.nameTrap at h
  cases hx : x.beyond (dsts ++ srcs.map (·.1)) with
  | none => exact hb hx
  | some m => simp [hx] at h

theorem keysOf_lt {d : Desc} {o : Opd} (h : ∀ n ∈ d.regsOf o, n < 256) : ∀ k ∈ d.keysOf o, k < 263 := by
  intro k hk
  cases o with
  | v n => have := h k (by simpa [Desc.keysOf, Desc.regsOf] using hk); omega
  | d n => have := h k (by simpa [Desc.keysOf, Desc.regsOf] using hk); omega
  | p n =>
    simp only [Desc.keysOf] at hk
    split at hk
    · simp at hk
    · rename_i h7
      simp only [List.mem_singleton] at hk
      have : n.toNat ≠ 7 := fun h => h7 (BitVec.eq_of_toNat_eq h)
      have := n.isLt
      simp [predKey] at hk
      omega
  | t n => simp [Desc.keysOf] at hk
  | a n => simp [Desc.keysOf] at hk
  | zero => simp [Desc.keysOf] at hk
  | c n => simp [Desc.keysOf] at hk

/-- The writes of a lane's destination are of that lane and name its keys. -/
theorem mem_dst {x : Ix} {l : Nat} {o : Opd} {v : Nat} {w : Wr} (h : w ∈ x.dst l o v) : w.lane = l ∧ w.key ∈ x.t.desc.keysOf o := by
  cases o with
  | v n => simp only [Ix.dst, List.mem_singleton] at h; subst h; simp [Desc.keysOf]
  | d n => simp only [Ix.dst, List.mem_cons, List.not_mem_nil, or_false] at h; rcases h with rfl | rfl <;> simp [Desc.keysOf]
  | p n =>
    simp only [Ix.dst] at h
    split at h
    · simp at h
    · rename_i h7
      simp only [List.mem_singleton] at h
      subst h
      simp only [Desc.keysOf, if_neg h7, List.mem_singleton, and_self]
  | t n => simp [Ix.dst] at h
  | a n => simp [Ix.dst] at h
  | zero => simp [Ix.dst] at h
  | c n => simp [Ix.dst] at h

theorem mem_lane_writes {x : Ix} {o : Opd} {val : Nat → Nat} {w : Wr}
    (h : w ∈ (lanesOf x.active).flatMap fun l => x.dst l o (val l)) :
    w.lane < 32 ∧ x.active.getLsbD w.lane = true ∧ w ∈ x.dst w.lane o (val w.lane) := by
  obtain ⟨l, hl, hw⟩ := List.mem_flatMap.1 h
  have := (mem_dst hw).1
  have h2 := (mem_lanesOf _ _).1 hl
  subst this
  exact ⟨h2.1, h2.2, hw⟩

/-- Keys depend on registers and lanes alone. -/
theorem Group.key_congr {g h : Group} (hr : g.regs = h.regs) (hl : g.lanes = h.lanes) (l k : Nat) : g.key l k = h.key l k := by
  unfold Group.key Group.lane
  rw [hr, hl]

/-- The group that `write`, `bump`, `due` and the advance of the PCs leave. -/
theorem finish_group (y : Ix) (sc : Sched) (lat : Option Nat) (ws : List Wr) :
    ∃ g : Group, y.finish sc lat ws = y.put g ∧
      (∀ l k, (∀ w ∈ ws, w.key < 263) → k < 263 → (∀ w ∈ ws, ¬ (w.lane = l ∧ w.key = k)) → g.key l k = y.g.key l k) ∧
      (∀ l k v, (∀ w ∈ ws, w.key < 263) → k < 263 → (∀ w ∈ ws, w.lane = l → w.key = k → w.val = v) →
        (∃ w ∈ ws, w.lane = l ∧ w.key = k) → g.key l k = kept k v) ∧
      (∀ l, l < 32 → ∃ p, g.lane l =
        { y.g.lane l with pc := if y.cur.issued.getLsbD l then y.cur.next else (y.g.lane l).pc, preds := p }) ∧
      g.ord.sb = (y.g.bump (setCtr sc)).ord.sb ∧ g.ord.drops = y.g.ord.drops ++ (setCtr sc).toList ∧
      g = { y.g with
        lanes := g.lanes
        regs := g.regs
        bad := g.bad
        guards := g.guards
        ord := { y.g.ord with sb := g.ord.sb, drops := g.ord.drops, flights := g.ord.flights } } := by
  refine ⟨_, rfl, ?_⟩
  set g0 := y.g with hg0
  set gg : List FragGuard := g0.guards.map fun fg => ws.foldl (fun fg w => fg.note g0 w) fg with hgg
  set g2 := ws.foldl (fun g w => g.setKey w.lane w.key w.val) { g0 with guards := gg } with hg2
  have e2 : g2 = { g0 with lanes := g2.lanes, regs := g2.regs, bad := g2.bad, guards := gg } := by
    rw [hg2]; exact Group.foldl_setKey_eq ws _
  set fl := g0.newFlights ws (y.cover sc lat) none y.cur.first ++ dropLanes (liveFlights g2.ord.flights g2.ord.dclk) ws with hfl
  have hw : g0.write ws (y.cover sc lat) y.cur.first = { g2 with ord := { g2.ord with flights := fl } } := rfl
  rw [hw]
  set g3 : Group := { g2 with ord := { g2.ord with flights := fl } } with hg3
  set g4 := (g3.bump (setCtr sc)).due (setCtr sc) with hg4
  have hlanes : g4.lanes = g2.lanes := by rw [hg4, hg3]; cases setCtr sc <;> rfl
  have hregs : g4.regs = g2.regs := by rw [hg4, hg3]; cases setCtr sc <;> rfl
  have hbad : g4.bad = g2.bad := by rw [hg4, hg3]; cases setCtr sc <;> rfl
  have hord : g2.ord = g0.ord := by rw [e2]
  have key4 : ∀ l k, g4.key l k = g2.key l k := by
    exact fun l k => Group.key_congr hregs hlanes l k
  have eA := Group.modLanes_eq g4 y.cur.issued fun _ l => { l with pc := y.cur.next }
  have lA := fun l (h : l < 32) => Group.lane_modLanes g4 y.cur.issued (fun _ l => { l with pc := y.cur.next }) l h
  change (∀ l k, _ → _ → _ → (g4.modLanes y.cur.issued fun _ l => { l with pc := y.cur.next }).key l k = _) ∧ _
  unfold Ix.advance
  set g5 := g4.modLanes y.cur.issued fun _ l => { l with pc := y.cur.next } with hg5
  have key5 : ∀ l k, g5.key l k = g4.key l k := by
    intro l k
    simp only [Group.key]
    have hr : g5.regs = g4.regs := by rw [eA]
    rw [hr]
    split
    · rfl
    · have : (g5.lane l).preds = (g4.lane l).preds := by
        by_cases h : l < 32
        · rw [lA l h]; split <;> rfl
        · have : g5.lane l = g4.lane l := by
            rw [hg5, Group.modLanes, Group.foldl_modLane _ _ _ _ (lanesOf_nodup _), if_neg]
            intro hm
            exact h ((mem_lanesOf _ _).1 hm).1
          rw [this]
      rw [this]
  have key0 : ∀ l k, g5.key l k = (ws.foldl (fun (g : Group) w => g.setKey w.lane w.key w.val) { g0 with guards := gg }).key l k := by
    intro l k; rw [key5, key4]
  refine ⟨?_, ?_, ?_, ?_, ?_, ?_⟩
  · intro l k h1 h2 h3
    rw [key0, Group.key_foldl_ne ws _ l k h2 h1 h3]; rfl
  · intro l k v h1 h2 h3 h4
    rw [key0, Group.key_foldl_mem ws _ l k v h2 h1 h3 h4]
  · intro l hl
    obtain ⟨p, hp⟩ := Group.lane_foldl_setKey ws { g0 with guards := gg } l
    have h4 : g4.lane l = { g0.lane l with preds := p } := by
      have : g4.lane l = g2.lane l := by unfold Group.lane; rw [hlanes]
      rw [this, hg2, hp]; rfl
    refine ⟨p, ?_⟩
    rw [lA l hl, h4]
    split <;> rfl
  · have : g5.ord = g4.ord := by rw [eA]
    rw [this, hg4, hg3]
    cases setCtr sc <;> simp [Group.bump, Group.due, hord]
  · have : g5.ord = g4.ord := by rw [eA]
    rw [this, hg4, hg3]
    cases setCtr sc <;> simp [Group.bump, Group.due, hord]
  · have h4 : g4 = { g0 with
        lanes := g4.lanes, regs := g4.regs, bad := g4.bad, guards := g4.guards,
        ord := { g0.ord with sb := g4.ord.sb, drops := g4.ord.drops, flights := g4.ord.flights } } := by
      rw [hg4, hg3, e2]
      cases setCtr sc <;> rfl
    rw [eA]
    conv_lhs => rw [h4]

/-- Keys of a group that differs in its generators alone. -/
theorem key_seeds {g h : Group} {seed : Nat → Word} (he : h = { g with lanes := h.lanes })
    (hl : ∀ l, l < 32 → h.lane l = { g.lane l with seed := seed l }) (l k : Nat) (h32 : l < 32) : h.key l k = g.key l k := by
  have hr : h.regs = g.regs := by rw [he]
  unfold Group.key
  rw [hr, hl l h32]

/-- What `finish` leaves when every active lane writes one destination: `h` is the group with its generators stepped. -/
theorem finish_lanes (x : Ix) (h : Group) (sc : Sched) (lat : Option Nat) (o : Opd) (val : Nat → Nat) (seed : Nat → Word)
    (hn : ∀ n ∈ x.t.desc.regsOf o, n < 256) (he : h = { x.g with lanes := h.lanes })
    (hl : ∀ l, l < 32 → h.lane l = { x.g.lane l with seed := seed l }) :
    LaneResult x sc o val seed (({ x with g := h } : Ix).finish sc lat ((lanesOf x.active).flatMap fun l => x.dst l o (val l))) := by
  obtain ⟨g, h1, hne, hval, hlane, hsb, hdr, heq⟩ := finish_group { x with g := h } sc lat ((lanesOf x.active).flatMap fun l => x.dst l o (val l))
  have hk : ∀ w ∈ (lanesOf x.active).flatMap fun l => x.dst l o (val l), w.key < 263 := fun w hw =>
    keysOf_lt hn _ (mem_dst (mem_lane_writes hw).2.2).2
  have hkey := fun l k (h32 : l < 32) => key_seeds he hl l k h32
  refine ⟨g, h1, ?_, ?_, ?_, ?_, ?_, ?_, ?_⟩
  · intro l h32 hact
    have hmem : ∀ w ∈ x.dst l o (val l), w ∈ (lanesOf x.active).flatMap fun l => x.dst l o (val l) := fun w hw =>
      List.mem_flatMap.2 ⟨l, (mem_lanesOf _ _).2 ⟨h32, hact⟩, hw⟩
    cases o with
    | v n =>
      have hlt : x.t.desc.vwv / 4 + n.toNat < 256 := hn _ (by simp [Desc.regsOf])
      have := hval l (x.t.desc.vwv / 4 + n.toNat) (BitVec.ofNat 32 (val l)) hk (by omega)
        (fun w hw hwl _ => by
          have := (mem_lane_writes hw).2.2
          rw [hwl] at this
          simp only [Ix.dst, List.mem_singleton] at this
          rw [this])
        ⟨_, hmem _ (by simp [Ix.dst]; rfl), by simp, by simp⟩
      simpa [Group.holds, kept, hlt] using this
    | d n =>
      have hlt : x.t.desc.vwv / 4 + 2 * n.toNat + 1 < 256 := hn _ (by simp [Desc.regsOf])
      have a := hval l (x.t.desc.vwv / 4 + 2 * n.toNat) (BitVec.ofNat 32 (val l)) hk (by omega)
        (fun w hw hwl hwk => by
          have := (mem_lane_writes hw).2.2
          rw [hwl] at this
          simp only [Ix.dst, List.mem_cons, List.not_mem_nil, or_false] at this
          rcases this with h | h
          · rw [h]
          · rw [h] at hwk; simp at hwk)
        ⟨_, hmem { lane := l, key := x.t.desc.vwv / 4 + 2 * n.toNat, val := BitVec.ofNat 32 (val l) } (by simp [Ix.dst]),
          by simp, by simp⟩
      have b := hval l (x.t.desc.vwv / 4 + 2 * n.toNat + 1) (BitVec.ofNat 32 (val l / 2 ^ 32)) hk (by omega)
        (fun w hw hwl hwk => by
          have := (mem_lane_writes hw).2.2
          rw [hwl] at this
          simp only [Ix.dst, List.mem_cons, List.not_mem_nil, or_false] at this
          rcases this with h | h
          · rw [h] at hwk; simp at hwk
          · rw [h])
        ⟨_, hmem { lane := l, key := x.t.desc.vwv / 4 + 2 * n.toNat + 1, val := BitVec.ofNat 32 (val l / 2 ^ 32) }
          (by simp [Ix.dst]), by simp, by simp⟩
      have h1 : x.t.desc.vwv / 4 + 2 * n.toNat < 256 := by omega
      exact ⟨by simpa [kept, h1] using a, by simpa [kept, hlt] using b⟩
    | p n =>
      intro h7
      have h7' : ¬ n = 7 := h7
      have hn7 : n.toNat ≠ 7 := fun h => h7 (BitVec.eq_of_toNat_eq h)
      have := n.isLt
      have := hval l (predKey n.toNat) (if val l = 0 then 0 else 1) hk (by simp [predKey]; omega)
        (fun w hw hwl _ => by
          have := (mem_lane_writes hw).2.2
          rw [hwl] at this
          simp only [Ix.dst, if_neg h7', List.mem_singleton] at this
          rw [this])
        ⟨{ lane := l, key := predKey n.toNat, val := if val l = 0 then 0 else 1 },
          hmem _ (by simp only [Ix.dst, if_neg h7', List.mem_singleton]), rfl, rfl⟩
      rw [this]
      simp only [kept, predKey, Nat.not_lt.2 (Nat.le_add_right 256 _), ↓reduceIte]
      split <;> simp
    | t n => trivial
    | a n => trivial
    | zero => trivial
    | c n => trivial
  · intro l k h32 h263 hno
    rw [hne l k hk h263, hkey l k h32]
    rintro w hw ⟨rfl, rfl⟩
    have := mem_lane_writes hw
    exact hno ⟨this.2.1, (mem_dst this.2.2).2⟩
  · intro l h32
    obtain ⟨p, hp⟩ := hlane l h32
    rw [hp, hl l h32]
  · intro l h32
    obtain ⟨p, hp⟩ := hlane l h32
    rw [hp, hl l h32]
    exact ⟨rfl, rfl, rfl⟩
  · rw [hsb]
    simp only
    rw [he]
    cases setCtr sc <;> rfl
  · rw [hdr]
    simp only
    rw [he]
  · rw [heq]
    simp only
    rw [he]

/-- `alu` computes: the statement of every instruction over it. -/
theorem alu_result {x : Ix} {sc : Sched} {lat : Nat} {o : Opds} {f : Args → Nat}
    (h : x.operandTrap (x.sources o) (x.t.desc.regsOf o.dst) = none) :
    LaneResult x sc o.dst (fun l => f (x.args o l)) x.seeds (x.alu sc lat o f) := by
  have := finish_lanes x x.g sc (some lat) o.dst (fun l => f (x.args o l)) x.seeds (names_lt h) rfl (fun _ _ => rfl)
  unfold Ix.alu
  simp only [h]
  exact this

/-- `aluSr` computes, and steps the generators of the active lanes. -/
theorem aluSr_result {x : Ix} {sc : Sched} {lat : Nat} {o : Opds} {f : Args → Nat × Word}
    (h : x.operandTrap (x.sources o) (x.t.desc.regsOf o.dst) = none) :
    LaneResult x sc o.dst (fun l => (f (x.args o l)).1) (x.seedsAfter o f) (x.aluSr sc lat o f) := by
  have := finish_lanes x (x.stepSeeds o f) sc (some lat) o.dst (fun l => (f (x.args o l)).1) (x.seedsAfter o f) (names_lt h)
    (Group.foldl_modLane_eq (lanesOf x.active) x.g fun l y => { y with seed := (f (x.args o l)).2 })
    (fun l h32 => by
      have := Group.foldl_modLane (lanesOf x.active) x.g (fun l y => { y with seed := (f (x.args o l)).2 }) l (lanesOf_nodup _)
      unfold Ix.stepSeeds
      change (List.foldl (fun (g : Group) i => g.modLane i _) x.g (lanesOf x.active)).lane l = _
      rw [this]
      simp only [mem_lanesOf, h32, true_and, Ix.seedsAfter]
      split <;> rfl)
  unfold Ix.aluSr
  simp only [h]
  exact this

end Sys2Proof.Machine
end

