-- ==== Sys2Proof/Laws/Ends.lean ====
section
/-! SUPPORT. What an instruction that ends at its issue leaves (`Ends`), said once for register writes, for changes of
lanes, and for `Ix.finish`. -/

namespace Sys2Proof.Machine

/-- A group `h` that differs from `x`'s by register and predicate writes `w` alone. -/
structure Wrote (x : Ix) (w : Nat → Nat → Option Word) (h : Group) : Prop where
  keys : ∀ l k, l < 32 → k < 263 → h.key l k = (w l k).getD (x.g.key l k)
  lanes : ∀ l, l < 32 → ∃ p, h.lane l = { x.g.lane l with preds := p }
  rest : h = { x.g with
    lanes := h.lanes
    regs := h.regs
    bad := h.bad
    guards := h.guards
    ord := { x.g.ord with flights := h.ord.flights } }

theorem wrote_none (x : Ix) : Wrote x noWrite x.g :=
  ⟨fun _ _ _ _ => rfl, fun l _ => ⟨(x.g.lane l).preds, rfl⟩, rfl⟩

/-- The list `ws` writes what `w` says. -/
def Writes (ws : List Wr) (w : Nat → Nat → Option Word) : Prop :=
  (∀ r ∈ ws, r.key < 263) ∧ ∀ l k, l < 32 → k < 263 →
    match w l k with
    | none => ∀ r ∈ ws, ¬ (r.lane = l ∧ r.key = k)
    | some v => ∃ u, kept k u = v ∧ (∃ r ∈ ws, r.lane = l ∧ r.key = k) ∧ ∀ r ∈ ws, r.lane = l → r.key = k → r.val = u

theorem writes_nil : Writes [] noWrite := ⟨by simp, fun l k _ _ => by simp [noWrite]⟩

theorem find_reverse_none {ws : List Wr} {l k : Nat}
    (h : (ws.reverse.find? fun r => r.lane == l && r.key == k) = none) : ∀ r ∈ ws, ¬ (r.lane = l ∧ r.key = k) := by
  intro r hr
  have := List.find?_eq_none.1 h r (by simpa using hr)
  simpa using this

/-- A group after a list of writes holds the last write to each key. -/
theorem key_lastWrite (ws : List Wr) (g : Group) (l k : Nat) (hk : k < 263) (h : ∀ r ∈ ws, r.key < 263) :
    (ws.foldl (fun g w => g.setKey w.lane w.key w.val) g).key l k = (lastWrite ws l k).getD (g.key l k) := by
  induction ws using List.reverseRecOn with
  | nil => rfl
  | append_singleton r a ih =>
    rw [List.foldl_append, List.foldl_cons, List.foldl_nil, Group.key_setKey _ _ _ _ _ _ (h a (by simp)) hk,
      ih fun w hw => h w (by simp [hw])]
    unfold lastWrite
    simp only [List.reverse_append, List.reverse_cons, List.reverse_nil, List.nil_append, List.singleton_append,
      List.find?_cons]
    by_cases hm : a.lane = l ∧ a.key = k
    · simp [hm, kept]
    · have : (a.lane == l && a.key == k) = false := by
        simpa using hm
      simp only [this, if_neg hm]

/-- The writes of a list, in its order. -/
theorem wrote_last (x : Ix) {ws : List Wr} (h : ∀ r ∈ ws, r.key < 263) (c : Cover) (p : Bool) :
    Wrote x (lastWrite ws) (x.g.write ws c p) := by
  set g0 := x.g with hg0
  set gg : List FragGuard := g0.guards.map fun fg => ws.foldl (fun fg w => fg.note g0 w) fg with hgg
  set g2 := ws.foldl (fun g w => g.setKey w.lane w.key w.val) { g0 with guards := gg } with hg2
  set fl := g0.newFlights ws c none p ++ dropLanes (liveFlights g2.ord.flights g2.ord.dclk) ws with hfl
  have hw : g0.write ws c p = { g2 with ord := { g2.ord with flights := fl } } := rfl
  have e2 : g2 = { g0 with lanes := g2.lanes, regs := g2.regs, bad := g2.bad, guards := gg } := by
    rw [hg2]; exact Group.foldl_setKey_eq ws _
  rw [hw]
  refine ⟨fun l k hl hk => ?_, fun l hl => ?_, ?_⟩
  · exact key_lastWrite ws { g0 with guards := gg } l k hk h
  · obtain ⟨q, hq⟩ := Group.lane_foldl_setKey ws { g0 with guards := gg } l
    exact ⟨q, hq⟩
  · rw [e2]

theorem lastWrite_of {ws : List Wr} {w : Nat → Nat → Option Word} (h : Writes ws w) {l k : Nat} (hl : l < 32) (hk : k < 263) :
    lastWrite ws l k = w l k := by
  have := h.2 l k hl hk
  unfold lastWrite
  cases hf : ws.reverse.find? fun r => r.lane == l && r.key == k with
  | none =>
    cases hv : w l k with
    | none => rfl
    | some v =>
      rw [hv] at this
      obtain ⟨u, _, ⟨r, hr, hm⟩, _⟩ := this
      exact absurd hm (find_reverse_none hf r hr)
  | some r =>
    have hr : r ∈ ws := by simpa using List.mem_of_find?_eq_some hf
    have hm : r.lane = l ∧ r.key = k := by simpa using List.find?_some hf
    cases hv : w l k with
    | none => rw [hv] at this; exact absurd hm (this r hr)
    | some v =>
      rw [hv] at this
      obtain ⟨u, hu, _, hall⟩ := this
      rw [Option.map_some, hall r hr hm.1 hm.2]
      exact congrArg some hu

theorem wrote_write (x : Ix) {ws : List Wr} {w : Nat → Nat → Option Word} (h : Writes ws w) (c : Cover) (p : Bool) :
    Wrote x w (x.g.write ws c p) :=
  have hl := wrote_last x h.1 c p
  ⟨fun l k h1 h2 => by rw [hl.keys l k h1 h2, lastWrite_of h h1 h2], hl.lanes, hl.rest⟩

theorem Group.modLanes_zero (g : Group) (f : Nat → Lane → Lane) : g.modLanes 0 f = g := rfl

/-- Lanes of a group whose counters have changed. -/
theorem Wrote.advance {x : Ix} {w : Nat → Nat → Option Word} {h : Group} (hw : Wrote x w h) (sc : Sched) (m : Mask)
    (f : Nat → Lane → Lane) (hf : ∀ l z p, f l { z with preds := p } = { f l z with preds := p }) :
    Ends x sc w (fun l => if m.getLsbD l then f l (x.stepped l) else x.stepped l)
      (x.put ((x.advance ((h.bump (setCtr sc)).due (setCtr sc))).modLanes m f)) := by
  set g1 := (h.bump (setCtr sc)).due (setCtr sc) with hg1
  have l1 : g1.lanes = h.lanes := by rw [hg1]; cases setCtr sc <;> rfl
  have r1 : g1.regs = h.regs := by rw [hg1]; cases setCtr sc <;> rfl
  set g2 := x.advance g1 with hg2
  set g3 := g2.modLanes m f with hg3
  have e2 : g2 = { g1 with lanes := g2.lanes } := Group.modLanes_eq _ _ _
  have e3 : g3 = { g2 with lanes := g3.lanes } := Group.modLanes_eq _ _ _
  have lane3 : ∀ l, l < 32 → ∃ p, (h.lane l).preds = p ∧ g3.lane l =
      { (if m.getLsbD l then f l (x.stepped l) else x.stepped l) with preds := p } := by
    intro l hl
    obtain ⟨p, hp⟩ := hw.lanes l hl
    have hl1 : g1.lane l = { x.g.lane l with preds := p } := by rw [← hp]; unfold Group.lane; rw [l1]
    have hl2 : g2.lane l = { x.stepped l with preds := p } := by
      rw [hg2, Ix.advance, Group.lane_modLanes _ _ _ _ hl, hl1]
      unfold Ix.stepped
      split <;> rfl
    refine ⟨p, by rw [hp], ?_⟩
    rw [hg3, Group.lane_modLanes _ _ _ _ hl, hl2]
    split
    · rw [hf]
    · rfl
  refine ⟨g3, rfl, ?_, ?_, ?_, ?_, ?_⟩
  · intro l k hl hk
    rw [← hw.keys l k hl hk]
    obtain ⟨p, hp, h3⟩ := lane3 l hl
    have hr : g3.regs = h.regs := by rw [e3, e2]; exact r1
    unfold Group.key
    rw [hr, h3, ← hp]
  · exact fun l hl => let ⟨p, _, h⟩ := lane3 l hl; ⟨p, h⟩
  · rw [e3, e2]
    change g1.ord.sb = _
    rw [hg1]
    have := hw.rest
    rw [this]
    cases setCtr sc <;> rfl
  · rw [e3, e2]
    change g1.ord.drops = _
    rw [hg1]
    have := hw.rest
    rw [this]
    cases setCtr sc <;> simp [Group.bump, Group.due]
  · have h1 : g1 = { x.g with
        lanes := g1.lanes, regs := g1.regs, bad := g1.bad, guards := g1.guards,
        ord := { x.g.ord with sb := g1.ord.sb, drops := g1.ord.drops, flights := g1.ord.flights } } := by
      rw [hg1, hw.rest]
      cases setCtr sc <;> rfl
    rw [e3, e2]
    conv_lhs => rw [h1]

/-- `Ix.finish` ends its instruction with the writes of its list. -/
theorem finish_ends (x : Ix) (sc : Sched) (lat : Option Nat) {ws : List Wr} {w : Nat → Nat → Option Word} (h : Writes ws w) :
    Ends x sc w x.stepped (x.finish sc lat ws) := by
  have this := (wrote_write x h (x.cover sc lat) x.cur.first).advance sc 0 (fun _ z => z) (fun _ _ _ => rfl)
  simp only [Group.modLanes_zero, ite_self] at this
  exact this

/-- As `finish_ends`, for writes in their order. -/
theorem finish_last (x : Ix) (sc : Sched) (lat : Option Nat) {ws : List Wr} (h : ∀ r ∈ ws, r.key < 263) :
    Ends x sc (lastWrite ws) x.stepped (x.finish sc lat ws) := by
  have this := (wrote_last x h (x.cover sc lat) x.cur.first).advance sc 0 (fun _ z => z) (fun _ _ _ => rfl)
  simp only [Group.modLanes_zero, ite_self] at this
  exact this

/-- An instruction that writes no register ends. -/
theorem pass_ends (x : Ix) (sc : Sched) :
    Ends x sc noWrite x.stepped (x.put (x.advance ((x.g.bump (setCtr sc)).due (setCtr sc)))) := by
  have this := (wrote_none x).advance sc 0 (fun _ z => z) (fun _ _ _ => rfl)
  simp only [Group.modLanes_zero, ite_self] at this
  exact this

/-- The writes of one destination. -/
theorem writes_dst {x : Ix} {o : Opd} (hn : ∀ n ∈ x.t.desc.regsOf o, n < 256) (m : Mask) (val : Nat → Nat) :
    Writes ((lanesOf m).flatMap fun l => x.dst l o (val l)) (x.wr m o val) := by
  have hk : ∀ r ∈ (lanesOf m).flatMap fun l => x.dst l o (val l), r.lane < 32 ∧ m.getLsbD r.lane = true ∧
      r ∈ x.dst r.lane o (val r.lane) := by
    intro r hr
    obtain ⟨l, hl, hw⟩ := List.mem_flatMap.1 hr
    have := (mem_dst hw).1
    have h2 := (mem_lanesOf _ _).1 hl
    subst this
    exact ⟨h2.1, h2.2, hw⟩
  refine ⟨fun r hr => keysOf_lt hn _ (mem_dst (hk r hr).2.2).2, fun l k hl hk263 => ?_⟩
  have hin : ∀ r, m.getLsbD l = true → r ∈ x.dst l o (val l) → r ∈ (lanesOf m).flatMap fun l => x.dst l o (val l) :=
    fun r hm hr => List.mem_flatMap.2 ⟨l, (mem_lanesOf _ _).2 ⟨hl, hm⟩, hr⟩
  have hmine : ∀ r ∈ (lanesOf m).flatMap fun l => x.dst l o (val l), r.lane = l →
      m.getLsbD l = true ∧ r ∈ x.dst l o (val l) := by
    rintro r hr rfl
    exact (hk r hr).2
  unfold Ix.wr
  by_cases hm : m.getLsbD l = true
  · simp only [hm, ↓reduceIte]
    cases o with
    | v n =>
      have hlt : x.t.desc.vwv / 4 + n.toNat < 256 := hn _ (by simp [Desc.regsOf])
      simp only [Desc.puts]
      by_cases hkk : k = x.t.desc.vwv / 4 + n.toNat
      · simp only [hkk, ↓reduceIte]
        refine ⟨BitVec.ofNat 32 (val l), by simp [kept, hlt], ⟨_, hin _ hm (by simp [Ix.dst]; rfl), rfl, rfl⟩, fun r hr hrl _ => ?_⟩
        have := (hmine r hr hrl).2
        simp only [Ix.dst, List.mem_singleton] at this
        subst this
        rfl
      · simp only [hkk, ↓reduceIte]
        rintro r hr ⟨hrl, hrk⟩
        have := (hmine r hr hrl).2
        simp only [Ix.dst, List.mem_singleton] at this
        subst this
        exact hkk hrk.symm
    | d n =>
      have hlt : x.t.desc.vwv / 4 + 2 * n.toNat + 1 < 256 := hn _ (by simp [Desc.regsOf])
      have hlt0 : x.t.desc.vwv / 4 + 2 * n.toNat < 256 := by omega
      simp only [Desc.puts]
      by_cases h0 : k = x.t.desc.vwv / 4 + 2 * n.toNat
      · simp only [h0, ↓reduceIte]
        refine ⟨BitVec.ofNat 32 (val l), by simp [kept, hlt0], ⟨{ lane := l, key := x.t.desc.vwv / 4 + 2 * n.toNat, val := BitVec.ofNat 32 (val l) },
          hin _ hm (by simp [Ix.dst]), rfl, rfl⟩, fun r hr hrl hrk => ?_⟩
        have := (hmine r hr hrl).2
        simp only [Ix.dst, List.mem_cons, List.not_mem_nil, or_false] at this
        rcases this with rfl | rfl
        · rfl
        · simp at hrk
      · by_cases h1 : k = x.t.desc.vwv / 4 + 2 * n.toNat + 1
        · simp only [h1, Nat.add_eq_left, one_ne_zero, ↓reduceIte]
          refine ⟨BitVec.ofNat 32 (val l / 2 ^ 32), by simp [kept, hlt],
            ⟨{ lane := l, key := x.t.desc.vwv / 4 + 2 * n.toNat + 1, val := BitVec.ofNat 32 (val l / 2 ^ 32) },
            hin _ hm (by simp [Ix.dst]), rfl, rfl⟩, fun r hr hrl hrk => ?_⟩
          have := (hmine r hr hrl).2
          simp only [Ix.dst, List.mem_cons, List.not_mem_nil, or_false] at this
          rcases this with rfl | rfl
          · simp at hrk
          · rfl
        · simp only [h0, h1, ↓reduceIte]
          rintro r hr ⟨hrl, hrk⟩
          have := (hmine r hr hrl).2
          simp only [Ix.dst, List.mem_cons, List.not_mem_nil, or_false] at this
          rcases this with rfl | rfl
          · exact h0 hrk.symm
          · exact h1 hrk.symm
    | p n =>
      simp only [Desc.puts]
      by_cases h7 : n = 7
      · subst h7
        simp only [ne_eq, not_true_eq_false, false_and, ↓reduceIte]
        rintro r hr ⟨hrl, _⟩
        have := (hmine r hr hrl).2
        simp [Ix.dst] at this
      · by_cases hkk : k = predKey n.toNat
        · simp only [hkk, h7, ne_eq, not_false_eq_true, true_and, ↓reduceIte]
          refine ⟨if val l = 0 then 0 else 1, ?_, ⟨{ lane := l, key := predKey n.toNat, val := if val l = 0 then 0 else 1 },
            hin _ hm (by simp only [Ix.dst, if_neg h7, List.mem_singleton]), rfl, rfl⟩, fun r hr hrl _ => ?_⟩
          · simp only [kept, predKey, Nat.not_lt.2 (Nat.le_add_right 256 _), ↓reduceIte]
            split <;> simp
          · have := (hmine r hr hrl).2
            simp only [Ix.dst, if_neg h7, List.mem_singleton] at this
            subst this
            rfl
        · simp only [hkk, and_false, ↓reduceIte]
          rintro r hr ⟨hrl, hrk⟩
          have := (hmine r hr hrl).2
          simp only [Ix.dst, if_neg h7, List.mem_singleton] at this
          subst this
          exact hkk hrk.symm
    | t n => simp only [Desc.puts]; rintro r hr ⟨hrl, _⟩; simpa [Ix.dst] using (hmine r hr hrl).2
    | a n => simp only [Desc.puts]; rintro r hr ⟨hrl, _⟩; simpa [Ix.dst] using (hmine r hr hrl).2
    | zero => simp only [Desc.puts]; rintro r hr ⟨hrl, _⟩; simpa [Ix.dst] using (hmine r hr hrl).2
    | c n => simp only [Desc.puts]; rintro r hr ⟨hrl, _⟩; simpa [Ix.dst] using (hmine r hr hrl).2
  · simp only [hm]
    rintro r hr ⟨hrl, _⟩
    exact hm (hmine r hr hrl).1

/-- Two sets of writes that name no key in common. -/
theorem writes_or {ws1 ws2 ws : List Wr} {w1 w2 : Nat → Nat → Option Word} (h1 : Writes ws1 w1) (h2 : Writes ws2 w2)
    (hm : ∀ r, r ∈ ws ↔ r ∈ ws1 ∨ r ∈ ws2) (hd : ∀ l k, l < 32 → k < 263 → w1 l k = none ∨ w2 l k = none) :
    Writes ws (orWrite w1 w2) := by
  refine ⟨fun r hr => (hm r).1 hr |>.elim (h1.1 r) (h2.1 r), fun l k hl hk => ?_⟩
  have a := h1.2 l k hl hk
  have b := h2.2 l k hl hk
  unfold orWrite
  cases e1 : w1 l k with
  | none =>
    rw [e1] at a
    cases e2 : w2 l k with
    | none =>
      rw [e2] at b
      exact fun r hr => (hm r).1 hr |>.elim (a r) (b r)
    | some v =>
      rw [e2] at b
      obtain ⟨u, hu, ⟨r, hr, hk⟩, hall⟩ := b
      refine ⟨u, hu, ⟨r, (hm r).2 (.inr hr), hk⟩, fun q hq hl hk => ?_⟩
      rcases (hm q).1 hq with h | h
      · exact absurd ⟨hl, hk⟩ (a q h)
      · exact hall q h hl hk
  | some v =>
    rw [e1] at a
    have e2 : w2 l k = none := (hd l k hl hk).resolve_left (by simp [e1])
    rw [e2] at b
    obtain ⟨u, hu, ⟨r, hr, hk⟩, hall⟩ := a
    refine ⟨u, hu, ⟨r, (hm r).2 (.inl hr), hk⟩, fun q hq hl hk => ?_⟩
    rcases (hm q).1 hq with h | h
    · exact hall q h hl hk
    · exact absurd ⟨hl, hk⟩ (b q h)

end Sys2Proof.Machine
end

