-- ==== Sys2Proof/Laws/Fields.lean ====
section
/-! SUPPORT. The codes of the fields of an instruction word and their inverses: each field that has a code reads back, and a
code that reads is the code of what it reads as. -/

namespace Sys2Proof

/-- A field taken from the upper part of a concatenation. -/
theorem extract_high {v w : Nat} {a : BitVec v} {b : BitVec w} {s l : Nat} (h : w ≤ s) :
    (a ++ b).extractLsb' s l = a.extractLsb' (s - w) l := BitVec.extractLsb'_append_eq_of_le h

/-- A field taken from the lower part of a concatenation. -/
theorem extract_low {v w : Nat} {a : BitVec v} {b : BitVec w} {s l : Nat} (h : s + l ≤ w) :
    (a ++ b).extractLsb' s l = b.extractLsb' s l := BitVec.extractLsb'_append_eq_of_add_le h

/-- A one-bit field reads back. -/
@[simp] theorem ofBool_beq_one (b : Bool) : (BitVec.ofBool b == 1#1) = b := by cases b <;> rfl

@[simp] theorem Ty.ofCode_code (t : Ty) : Ty.ofCode t.code = some t := by cases t <;> rfl
@[simp] theorem Rm.ofCode_code (r : Rm) : Rm.ofCode r.code = r := by cases r <;> rfl
@[simp] theorem Scope.ofCode_code (s : Scope) : Scope.ofCode s.code = some s := by cases s <;> rfl
@[simp] theorem Ord.ofCode_code (o : Ord) : Ord.ofCode o.code = some o := by cases o <;> rfl
@[simp] theorem Asp.ofCode_code (a : Asp) : Asp.ofCode a.code = some a := by cases a <;> rfl
@[simp] theorem LdSize.ofCode_code (k : LdSize) : LdSize.ofCode k.code = some k := by cases k <;> rfl
@[simp] theorem StSize.ofCode_code (k : StSize) : StSize.ofCode k.code = some k := by cases k <;> rfl
@[simp] theorem AtomOp.ofCode_code (k : AtomOp) : AtomOp.ofCode k.code = some k := by cases k <;> rfl
@[simp] theorem LdxOp.ofCode_code (k : LdxOp) : LdxOp.ofCode k.code = some k := by cases k <;> rfl

@[simp] theorem Opd.ofCode_code (o : Opd) : Opd.ofCode o.code = some o := by
  cases o with
  | v n => revert n; decide +kernel
  | d n => revert n; decide +kernel
  | t n => revert n; decide +kernel
  | a n => revert n; decide +kernel
  | zero => rfl
  | p n => revert n; decide +kernel
  | c n => revert n; decide +kernel

@[simp] theorem Perm.ofCode_code (p : Perm) : Perm.ofCode p.code = some p := by
  cases p with
  | none => rfl
  | butterfly q => revert q; decide +kernel
  | rotate q => revert q; decide +kernel
  | reverse => rfl
  | broadcast q => revert q; decide +kernel

/-! ### The other direction -/

theorem Ty.code_of (c : BitVec 4) (t : Ty) (h : Ty.ofCode c = some t) : t.code = c := by
  have k : ∀ c : BitVec 4, (match Ty.ofCode c with | some t => t.code == c | none => true) = true := by decide +kernel
  have := k c; rw [h] at this; simpa using this

theorem Rm.code_of (c : BitVec 2) : (Rm.ofCode c).code = c := by revert c; decide +kernel

theorem Scope.code_of (c : BitVec 3) (t : Scope) (h : Scope.ofCode c = some t) : t.code = c := by
  have k : ∀ c : BitVec 3, (match Scope.ofCode c with | some t => t.code == c | none => true) = true := by decide +kernel
  have := k c; rw [h] at this; simpa using this

theorem Ord.code_of (c : BitVec 3) (t : Ord) (h : Ord.ofCode c = some t) : t.code = c := by
  have k : ∀ c : BitVec 3, (match Ord.ofCode c with | some t => t.code == c | none => true) = true := by decide +kernel
  have := k c; rw [h] at this; simpa using this

theorem Asp.code_of (c : BitVec 4) (t : Asp) (h : Asp.ofCode c = some t) : t.code = c := by
  have k : ∀ c : BitVec 4, (match Asp.ofCode c with | some t => t.code == c | none => true) = true := by decide +kernel
  have := k c; rw [h] at this; simpa using this

theorem Opd.code_of (c : BitVec 10) (t : Opd) (h : Opd.ofCode c = some t) : t.code = c := by
  have k : ∀ c : BitVec 10, (match Opd.ofCode c with | some t => t.code == c | none => true) = true := by decide +kernel
  have := k c; rw [h] at this; simpa using this

theorem Perm.code_of (c : BitVec 8) (t : Perm) (h : Perm.ofCode c = some t) : t.code = c := by
  have k : ∀ c : BitVec 8, (match Perm.ofCode c with | some t => t.code == c | _ => true) = true := by decide +kernel
  have := k c; rw [h] at this; simpa using this

theorem LdSize.code_of (c : BitVec 4) (t : LdSize) (h : LdSize.ofCode c = some t) : t.code = c := by
  have k : ∀ c : BitVec 4, (match LdSize.ofCode c with | some t => t.code == c | none => true) = true := by decide +kernel
  have := k c; rw [h] at this; simpa using this

theorem StSize.code_of (c : BitVec 4) (t : StSize) (h : StSize.ofCode c = some t) : t.code = c := by
  have k : ∀ c : BitVec 4, (match StSize.ofCode c with | some t => t.code == c | none => true) = true := by decide +kernel
  have := k c; rw [h] at this; simpa using this

theorem AtomOp.code_of (c : BitVec 4) (t : AtomOp) (h : AtomOp.ofCode c = some t) : t.code = c := by
  have k : ∀ c : BitVec 4, (match AtomOp.ofCode c with | some t => t.code == c | none => true) = true := by decide +kernel
  have := k c; rw [h] at this; simpa using this

theorem LdxOp.code_of (c : BitVec 4) (t : LdxOp) (h : LdxOp.ofCode c = some t) : t.code = c := by
  have k : ∀ c : BitVec 4, (match LdxOp.ofCode c with | some t => t.code == c | none => true) = true := by decide +kernel
  have := k c; rw [h] at this; simpa using this

end Sys2Proof
end

