-- ==== Sys2Proof/Laws/Latch.lean ====
section
/-! SUPPORT. What a latched issue context is, and how commands and packets that pass their checks run. -/

namespace Sys2Proof.Machine

/-- What a latched instruction finds agrees with its state. -/
theorem latched_facts {s : State} {sc : Sched} {x : Ix} (h : Latched s sc x) :
    x.s = s ∧ x.g = x.t.group x.cur.group ∧ x.s.team? x.t.id = some x.t ∧ x.cur.team = x.t.id := by
  unfold Latched State.latched at h
  cases hc : s.cur with
  | none => simp [hc] at h
  | some c =>
    simp only [hc, Option.map_eq_some_iff] at h
    obtain ⟨t, ht, rfl⟩ := h
    have : t.id = c.team := by
      unfold State.team? at ht
      simpa using List.find?_some ht
    exact ⟨rfl, rfl, by rw [this]; exact ht, this.symm⟩

theorem withState_self {s : State} {sc : Sched} {x : Ix} (h : Latched s sc x) : x.withState x.s = x := by
  obtain ⟨_, hg, ht, _⟩ := latched_facts h
  unfold Ix.withState
  rw [ht]
  simp only [← hg]

theorem withTeam_self {s : State} {sc : Sched} {x : Ix} (h : Latched s sc x) : x.withTeam x.t = x := by
  obtain ⟨_, hg, _, _⟩ := latched_facts h
  unfold Ix.withTeam
  simp only [← hg]

theorem dst_key_lt {x : Ix} {o : Opd} (h : ∀ n ∈ x.t.desc.regsOf o, n < 256) {l v : Nat} {r : Wr} (hr : r ∈ x.dst l o v) :
    r.key < 263 := keysOf_lt h _ (mem_dst hr).2

/-- The writes of lanes that are taken one at a time name registers and predicates. -/
theorem each_key_lt {α : Type} {x : Ix} {o : Opd} (h : ∀ n ∈ x.t.desc.regsOf o, n < 256) (ls : List Nat) (go : α → Nat → α × Nat)
    (a : α × List Wr) (ha : ∀ r ∈ a.2, r.key < 263) :
    ∀ r ∈ (ls.foldl (fun (a : α × List Wr) l => ((go a.1 l).1, a.2 ++ x.dst l o (go a.1 l).2)) a).2, r.key < 263 := by
  induction ls generalizing a with
  | nil => exact ha
  | cons b r ih =>
    refine ih _ ?_
    intro q hq
    rcases List.mem_append.1 hq with h1 | h1
    · exact ha q h1
    · exact dst_key_lt h h1

/-- A command whose packet passes its checks and whose meaning is done completes. -/
theorem onQueue_done {s u : State} {h : CmdHdr} {i : Instr} (hc : Commanded s h i u) (k : State → CmdRes) {v : State} {st r : Nat}
    (hk : k u = .done v st r) : s.onQueue h .cmd i k = (v.finishCmd h st r).pollQueue h.fn .cmd := by
  obtain ⟨b, a, cls, h1, h2, h3, rfl⟩ := hc
  simp [State.onQueue, h1, h2, h3, hk]

/-- A command whose packet passes its checks and whose meaning goes on later. -/
theorem onQueue_later {s u : State} {h : CmdHdr} {i : Instr} (hc : Commanded s h i u) (k : State → CmdRes) {v : State}
    (hk : k u = .later v) : s.onQueue h .cmd i k = v.pollQueue h.fn .cmd := by
  obtain ⟨b, a, cls, h1, h2, h3, rfl⟩ := hc
  simp [State.onQueue, h1, h2, h3, hk]

/-- A delivered packet is served. -/
theorem arrives_delivered {s : State} {port : BitVec 5} {p : Packet} {ty lci : Nat} (h : Delivered s port p ty lci)
    (k : Nat → State) :
    s.arrives port.toNat p ty k = (k lci).count (portDie port.toNat) lci 0xB (32 * (1 + p.beats.length)) := by
  obtain ⟨h1, h2, h3⟩ := h
  unfold State.arrives
  by_cases hp : port.toNat < 16 <;> simp_all

end Sys2Proof.Machine
end

