-- ==== Sys2Proof/Laws/Memory.lean ====
section
/-! SUPPORT. Every operation that changes the memory keeps its canonical form, and memory at reset has it. -/

namespace Sys2Proof.Machine

theorem memWf_write {m : List Host.Cell} (h : memWf m = true) (a : Nat) (l : List Byte) : memWf (smWrite memDefault m a l) = true :=
  (memWf_iff _).2 (canon_smWrite ((memWf_iff _).1 h) a l)

theorem memWf_filter {m : List Host.Cell} (h : memWf m = true) (q : Host.Cell → Bool) : memWf (m.filter q) = true :=
  (memWf_iff _).2 (canon_filter ((memWf_iff _).1 h) q)

theorem memWf_set {m : List Host.Cell} (h : memWf m = true) (a : Nat) (v : Byte) : memWf (smSet memDefault m a v) = true :=
  (memWf_iff _).2 (canon_smSet ((memWf_iff _).1 h) a v)

theorem memWf_foldl {α : Type} (l : List α) (f : List Host.Cell → α → List Host.Cell)
    (hf : ∀ m x, memWf m = true → memWf (f m x) = true) {m : List Host.Cell} (h : memWf m = true) : memWf (l.foldl f m) = true := by
  induction l generalizing m with
  | nil => exact h
  | cons a r ih => exact ih (hf m a h)

theorem reset_memWf : memWf State.reset.mem = true := rfl

/-- Bytes written to memory itself. -/
theorem memWrite_memWf {s : State} (h : memWf s.mem = true) (a : Nat) (l : List Byte) : memWf (s.memWrite a l).mem = true := by
  unfold State.memWrite
  split
  · exact h
  · exact memWf_write h a l

/-- Bytes written to memory piece by piece. -/
theorem memWrites_memWf {α : Type} (l : List α) (f : α → Nat) (g : α → List Byte) {s : State} (h : memWf s.mem = true) :
    memWf (l.foldl (fun s k => s.memWrite (f k) (g k)) s).mem = true := by
  induction l generalizing s with
  | nil => exact h
  | cons a r ih => exact ih (memWrite_memWf h _ _)

/-! What leaves memory as it is. -/

@[simp] theorem modDie_mem (s : State) (d : Nat) (f : Die → Die) : (s.modDie d f).mem = s.mem := rfl
@[simp] theorem putLine_mem (s : State) (b : BankLine) : (s.putLine b).mem = s.mem := rfl
@[simp] theorem dropLine_mem (s : State) (lci line : Nat) : (s.dropLine lci line).mem = s.mem := rfl
@[simp] theorem raiseFloor_mem (s : State) (lci a e : Nat) : (s.raiseFloor lci a e).mem = s.mem := by
  unfold State.raiseFloor; split <;> rfl
@[simp] theorem keepBusy_mem (s : State) (b : BankLine) : (s.keepBusy b).mem = s.mem := by
  unfold State.keepBusy; split <;> rfl
@[simp] theorem lineLeaves_mem (s : State) (b : BankLine) : (s.lineLeaves b).mem = s.mem := by
  unfold State.lineLeaves; split <;> split <;> simp

/-- An event of the physical function's ring, which lies in host memory. -/
theorem postPf_memWf {s : State} (h : memWf s.mem = true) (code i0 i1 : Nat) : memWf (s.postPf code i0 i1).mem = true := by
  have hw : ∀ a l, memWf (s.memWrite a l).mem = true := fun a l => memWrite_memWf h a l
  unfold State.postPf
  dsimp only
  split
  · split <;> exact hw _ _
  · exact h

/-- Room for a store by hardware or firmware. -/
theorem pokeRoom_memWf {s : State} (h : memWf s.mem = true) (lci line : Nat) : memWf (s.pokeRoom lci line).mem = true := by
  unfold State.pokeRoom
  split
  · split
    · split
      · rw [lineLeaves_mem]; exact memWrites_memWf _ _ _ h
      · exact h
    · exact h
  · exact h

/-- A store by hardware or firmware to one line. -/
theorem pokeLine_memWf {s : State} (h : memWf s.mem = true) (lci a : Nat) (l : List Byte) (cls : Cls) :
    memWf (s.pokeLine lci a l cls).1.mem = true := by
  unfold State.pokeLine
  split
  · exact postPf_memWf h _ _ _
  · simp only [putLine_mem]; exact pokeRoom_memWf h _ _

/-- A store by hardware or firmware of any run of bytes. -/
theorem pokeAt_memWf {s : State} (h : memWf s.mem = true) (lci a : Nat) (l : List Byte) (cls : Cls) :
    memWf (s.pokeAt lci a l cls).1.mem = true := by
  unfold State.pokeAt
  generalize s.gtc = c
  generalize l.length / 128 + 2 = k
  induction k generalizing s a l c with
  | zero => exact h
  | succ k ih =>
    unfold State.pokeGo
    split
    · exact h
    · exact ih (pokeLine_memWf h _ _ _ _) _ _ _

theorem poke_memWf {s : State} (h : memWf s.mem = true) (lci a : Nat) (l : List Byte) (cls : Cls) :
    memWf (s.poke lci a l cls).mem = true := pokeAt_memWf h lci a l cls

/-- A page that an image fills. -/
theorem loadPage_memWf {s : State} (h : memWf s.mem = true) (im : Image) (p : Nat × Nat) : memWf (s.loadPage im p).mem = true :=
  memWf_foldl _ _ (fun _ _ h => memWf_set h _ _) (memWf_filter h _)

/-- Memory after power is lost. -/
theorem powerLost_memWf {s : State} (h : memWf s.mem = true) : memWf s.powerLost.mem = true := memWf_filter h _

/-- Memory with a program placed. -/
theorem placeProgram_memWf {s : State} (h : memWf s.mem = true) (n w : Nat) : memWf (s.placeProgram n w).mem = true :=
  memWf_write (memWf_foldl _ _ (fun _ _ h => memWf_write h _ _) h) _ _

end Sys2Proof.Machine
end

