-- ==== Sys2Proof/Laws/Words.lean ====
section
/-! SUPPORT. Packing and unpacking whole words and shape records. -/

namespace Sys2Proof

/-- The format-R word of an instruction reads back. -/
theorem FmtR.ofWord_pack (op : BitVec 8) (fn : BitVec 4) (f : FmtR) : FmtR.ofWord (f.pack op fn) = some f := by
  simp (disch := decide) only [FmtR.ofWord, FmtR.pack, packCommon, Sched.ofWord, extract_high, extract_low]
  simp

theorem FmtI.ofWord_pack (op : BitVec 8) (fn : BitVec 4) (f : FmtI) : FmtI.ofWord (f.pack op fn) = some f := by
  simp (disch := decide) only [FmtI.ofWord, FmtI.pack, packCommon, Sched.ofWord, extract_high, extract_low]
  simp

theorem FmtM.ofWord_pack (op : BitVec 8) (fn : BitVec 4) (f : FmtM) :
    FmtM.ofWord (f.pack op fn) f.scope f.ord f.asp = some f := by
  simp (disch := decide) only [FmtM.ofWord, FmtM.pack, packCommon, Sched.ofWord, extract_high, extract_low]
  simp

theorem FmtM.selectors_pack (op : BitVec 8) (fn : BitVec 4) (f : FmtM) :
    Scope.ofCode ((f.pack op fn).extractLsb' 43 3) = some f.scope ∧ Ord.ofCode ((f.pack op fn).extractLsb' 40 3) = some f.ord ∧
      Asp.ofCode ((f.pack op fn).extractLsb' 0 4) = some f.asp := by
  simp (disch := decide) only [FmtM.pack, packCommon, extract_high, extract_low]
  simp

theorem Shape.ofRecord_pack (s : Shape) : Shape.ofRecord s.pack = some s := by
  simp (disch := decide) only [Shape.ofRecord, Shape.pack, extract_high, extract_low]
  simp

/-- Major opcode and function of a packed format-R word. -/
theorem FmtR.pack_op (op : BitVec 8) (fn : BitVec 4) (f : FmtR) :
    (f.pack op fn).extractLsb' 88 8 = op ∧ (f.pack op fn).extractLsb' 84 4 = fn := by
  simp (disch := decide) only [FmtR.pack, packCommon, extract_high, extract_low]
  simp

theorem FmtI.pack_op (op : BitVec 8) (fn : BitVec 4) (f : FmtI) :
    (f.pack op fn).extractLsb' 88 8 = op ∧ (f.pack op fn).extractLsb' 84 4 = fn := by
  simp (disch := decide) only [FmtI.pack, packCommon, extract_high, extract_low]
  simp

theorem FmtM.pack_op (op : BitVec 8) (fn : BitVec 4) (f : FmtM) :
    (f.pack op fn).extractLsb' 88 8 = op ∧ (f.pack op fn).extractLsb' 84 4 = fn := by
  simp (disch := decide) only [FmtM.pack, packCommon, extract_high, extract_low]
  simp

/-- What the decoder makes of a packed format-R word. -/
theorem decode_packR {op : BitVec 8} {fn : BitVec 4} (f : FmtR) {mk : FmtR → Instr} (r : Record)
    (hb : builder op fn = some (.r mk)) : decode (f.pack op fn) r = checked (some (mk f)) := by
  simp [decode, f.pack_op op fn, hb, FmtR.ofWord_pack]

theorem decode_packI {op : BitVec 8} {fn : BitVec 4} (f : FmtI) {mk : FmtI → Instr} (r : Record)
    (hb : builder op fn = some (.i mk)) : decode (f.pack op fn) r = checked (some (mk f)) := by
  simp [decode, f.pack_op op fn, hb, FmtI.ofWord_pack]

theorem decode_packM {op : BitVec 8} {fn : BitVec 4} (f : FmtM) {mk : FmtM → Instr} (r : Record)
    (hb : builder op fn = some (.m mk)) : decode (f.pack op fn) r = checked (some (mk f)) := by
  simp [decode, f.pack_op op fn, hb, FmtM.ofWord_pack, FmtM.selectors_pack op fn f]

theorem decode_packX {op : BitVec 8} {fn : BitVec 4} (f : FmtX) {mk : FmtX → Instr}
    (hb : builder op fn = some (.x mk)) : decode (f.r.pack op fn) f.shape.pack = checked (some (mk f)) := by
  simp [decode, f.r.pack_op op fn, hb, FmtR.ofWord_pack, Shape.ofRecord_pack]

/-- A well-formed instruction passes the last checks. -/
theorem checked_wf {i : Instr} (h : i.WellFormed = true) : checked (some i) = .ok i := by
  simp only [Instr.WellFormed, beq_iff_eq] at h
  simp [checked, h]

end Sys2Proof
end

