-- ==== Sys2Proof/Laws/PerInstr.lean ====
section
/-! SUPPORT. The per-instruction family `Encoding`: the words of a well-formed instruction decode to it. An event of the
module has no words, and its statement is about none. -/

namespace Sys2Proof.Laws.Encoding

/-- The words of a well-formed instruction decode to it. -/
def Statement (i : Instr) : Prop :=
  ∀ (w : IWord) (r : Record), i.WellFormed = true → encode i = some (w, r) → decode w r = .ok i

theorem of_none {i : Instr} (hf : i.form = none) : Statement i := by
  intro w r _ h
  simp [encode, hf] at h

theorem of_r {i : Instr} {op : BitVec 8} {fn : BitVec 4} {f : FmtR} (mk : FmtR → Instr)
    (hf : i.form = some (op, fn, .r f)) (hb : builder op fn = some (.r mk)) (hm : i.WellFormed = true → mk f = i) :
    Statement i := by
  intro w r hw h
  simp only [encode, hf, Option.some.injEq, Prod.mk.injEq] at h
  rw [← h.1, decode_packR f r hb, hm hw, checked_wf hw]

theorem of_i {i : Instr} {op : BitVec 8} {fn : BitVec 4} {f : FmtI} (mk : FmtI → Instr)
    (hf : i.form = some (op, fn, .i f)) (hb : builder op fn = some (.i mk)) (hm : mk f = i) : Statement i := by
  intro w r hw h
  simp only [encode, hf, Option.some.injEq, Prod.mk.injEq] at h
  rw [← h.1, decode_packI f r hb, hm, checked_wf hw]

theorem of_m {i : Instr} {op : BitVec 8} {fn : BitVec 4} {f : FmtM} (mk : FmtM → Instr)
    (hf : i.form = some (op, fn, .m f)) (hb : builder op fn = some (.m mk)) (hm : mk f = i) : Statement i := by
  intro w r hw h
  simp only [encode, hf, Option.some.injEq, Prod.mk.injEq] at h
  rw [← h.1, decode_packM f r hb, hm, checked_wf hw]

theorem of_x {i : Instr} {op : BitVec 8} {fn : BitVec 4} {f : FmtX} (mk : FmtX → Instr)
    (hf : i.form = some (op, fn, .x f)) (hb : builder op fn = some (.x mk)) (hm : mk f = i) : Statement i := by
  intro w r hw h
  simp only [encode, hf, Option.some.injEq, Prod.mk.injEq] at h
  rw [← h.1, ← h.2, decode_packX f hb, hm, checked_wf hw]

/-- A format-R word whose checks pass has no MOD bit outside the instruction's. -/
theorem mod_of_ok {f : FmtR} {r : Accept.RRule} (h : Accept.chkR f r = .ok) : f.mod &&& ~~~r.mod = 0 ∧ r.res = true := by
  simp only [Accept.chkR, Accept.verdict] at h
  split at h
  · cases h
  · rename_i h1
    simp at h1
    exact ⟨h1.1.2, h1.2⟩

theorem special_barinit (f : FmtR) (h : (Instr.barinit f).WellFormed = true) : mkBarinit f = .barinit f := by
  have k := (mod_of_ok (eq_of_beq h : Accept.check (.barinit f) = .ok)).1
  have b : ∀ m : BitVec 11, m &&& ~~~(1#11) = 0 → modBit m 1 = false := by decide +kernel
  simp [mkBarinit, b _ k]

theorem special_barinitFree (f : FmtR) (h : (Instr.barinitFree f).WellFormed = true) : mkBarinit f = .barinitFree f := by
  have k := (mod_of_ok (eq_of_beq h : Accept.check (.barinitFree f) = .ok)).2
  simp only at k
  simp [mkBarinit, k]

theorem special_csign (f : FmtR) (h : (Instr.csign f).WellFormed = true) : mkCsign f = .csign f := by
  have k := (mod_of_ok (eq_of_beq h : Accept.check (.csign f) = .ok)).1
  have b : ∀ m : BitVec 11, m &&& ~~~(0#11) = 0 → modBit m 0 = false := by decide +kernel
  simp [mkCsign, b _ k]

theorem special_csignDecl (f : FmtR) (h : (Instr.csignDecl f).WellFormed = true) : mkCsign f = .csignDecl f := by
  have k := (mod_of_ok (eq_of_beq h : Accept.check (.csignDecl f) = .ok)).2
  simp only at k
  simp [mkCsign, k]

/-- A word that check 7 refuses does not pass. -/
theorem verdict_false (res : Bool) : Accept.verdict res false = .ok ↔ False := by cases res <;> simp [Accept.verdict]

theorem of_red (op : AtomOp) (f : FmtM) : Statement (.red op f) := by
  cases op
  case exchB32 | exchB64 | casB32 | casB64 =>
    intro w r hw _
    simp [Instr.WellFormed, Accept.check, Accept.chkM, AtomOp.isRed, verdict_false] at hw
  all_goals exact of_m (.red _) rfl rfl rfl

theorem nop (f : FmtR) : Statement (.nop f) := of_r .nop rfl rfl (fun _ => rfl)
theorem bra (f : FmtI) : Statement (.bra f) := of_i .bra rfl rfl rfl
theorem brx (f : FmtR) : Statement (.brx f) := of_r .brx rfl rfl (fun _ => rfl)
theorem call (f : FmtI) : Statement (.call f) := of_i .call rfl rfl rfl
theorem callx (f : FmtR) : Statement (.callx f) := of_r .callx rfl rfl (fun _ => rfl)
theorem ret (f : FmtR) : Statement (.ret f) := of_r .ret rfl rfl (fun _ => rfl)
theorem exit (f : FmtR) : Statement (.exit f) := of_r .exit rfl rfl (fun _ => rfl)
theorem trapSvc (f : FmtI) : Statement (.trapSvc f) := of_i .trapSvc rfl rfl rfl
theorem trapBkpt (f : FmtI) : Statement (.trapBkpt f) := of_i .trapBkpt rfl rfl rfl
theorem trapSys (f : FmtI) : Statement (.trapSys f) := of_i .trapSys rfl rfl rfl
theorem rtt (f : FmtR) : Statement (.rtt f) := of_r .rtt rfl rfl (fun _ => rfl)
theorem region (f : FmtR) : Statement (.region f) := of_r .region rfl rfl (fun _ => rfl)
theorem yield (f : FmtR) : Statement (.yield f) := of_r .yield rfl rfl (fun _ => rfl)
theorem sleept (f : FmtR) : Statement (.sleept f) := of_r .sleept rfl rfl (fun _ => rfl)
theorem iadd (f : FmtR) : Statement (.iadd f) := of_r .iadd rfl rfl (fun _ => rfl)
theorem iaddI (f : FmtI) : Statement (.iaddI f) := of_i .iaddI rfl rfl rfl
theorem iadd3 (f : FmtR) : Statement (.iadd3 f) := of_r .iadd3 rfl rfl (fun _ => rfl)
theorem isub (f : FmtR) : Statement (.isub f) := of_r .isub rfl rfl (fun _ => rfl)
theorem isubI (f : FmtI) : Statement (.isubI f) := of_i .isubI rfl rfl rfl
theorem imul (f : FmtR) : Statement (.imul f) := of_r .imul rfl rfl (fun _ => rfl)
theorem imulI (f : FmtI) : Statement (.imulI f) := of_i .imulI rfl rfl rfl
theorem imulh (f : FmtR) : Statement (.imulh f) := of_r .imulh rfl rfl (fun _ => rfl)
theorem imulhI (f : FmtI) : Statement (.imulhI f) := of_i .imulhI rfl rfl rfl
theorem imad (f : FmtR) : Statement (.imad f) := of_r .imad rfl rfl (fun _ => rfl)
theorem imadw (f : FmtR) : Statement (.imadw f) := of_r .imadw rfl rfl (fun _ => rfl)
theorem imin (f : FmtR) : Statement (.imin f) := of_r .imin rfl rfl (fun _ => rfl)
theorem iminI (f : FmtI) : Statement (.iminI f) := of_i .iminI rfl rfl rfl
theorem imax (f : FmtR) : Statement (.imax f) := of_r .imax rfl rfl (fun _ => rfl)
theorem imaxI (f : FmtI) : Statement (.imaxI f) := of_i .imaxI rfl rfl rfl
theorem iabs (f : FmtR) : Statement (.iabs f) := of_r .iabs rfl rfl (fun _ => rfl)
theorem ineg (f : FmtR) : Statement (.ineg f) := of_r .ineg rfl rfl (fun _ => rfl)
theorem lea (f : FmtR) : Statement (.lea f) := of_r .lea rfl rfl (fun _ => rfl)
theorem leaI (f : FmtI) : Statement (.leaI f) := of_i .leaI rfl rfl rfl
theorem leaw (f : FmtR) : Statement (.leaw f) := of_r .leaw rfl rfl (fun _ => rfl)
theorem leawI (f : FmtI) : Statement (.leawI f) := of_i .leawI rfl rfl rfl
theorem and (f : FmtR) : Statement (.and f) := of_r .and rfl rfl (fun _ => rfl)
theorem andI (f : FmtI) : Statement (.andI f) := of_i .andI rfl rfl rfl
theorem or (f : FmtR) : Statement (.or f) := of_r .or rfl rfl (fun _ => rfl)
theorem orI (f : FmtI) : Statement (.orI f) := of_i .orI rfl rfl rfl
theorem xor (f : FmtR) : Statement (.xor f) := of_r .xor rfl rfl (fun _ => rfl)
theorem xorI (f : FmtI) : Statement (.xorI f) := of_i .xorI rfl rfl rfl
theorem lut3 (f : FmtR) : Statement (.lut3 f) := of_r .lut3 rfl rfl (fun _ => rfl)
theorem shl (f : FmtR) : Statement (.shl f) := of_r .shl rfl rfl (fun _ => rfl)
theorem shlI (f : FmtI) : Statement (.shlI f) := of_i .shlI rfl rfl rfl
theorem shr (f : FmtR) : Statement (.shr f) := of_r .shr rfl rfl (fun _ => rfl)
theorem shrI (f : FmtI) : Statement (.shrI f) := of_i .shrI rfl rfl rfl
theorem sar (f : FmtR) : Statement (.sar f) := of_r .sar rfl rfl (fun _ => rfl)
theorem sarI (f : FmtI) : Statement (.sarI f) := of_i .sarI rfl rfl rfl
theorem shf (f : FmtR) : Statement (.shf f) := of_r .shf rfl rfl (fun _ => rfl)
theorem rotl (f : FmtR) : Statement (.rotl f) := of_r .rotl rfl rfl (fun _ => rfl)
theorem rotlI (f : FmtI) : Statement (.rotlI f) := of_i .rotlI rfl rfl rfl
theorem bfe (f : FmtR) : Statement (.bfe f) := of_r .bfe rfl rfl (fun _ => rfl)
theorem bfeI (f : FmtI) : Statement (.bfeI f) := of_i .bfeI rfl rfl rfl
theorem bfi (f : FmtR) : Statement (.bfi f) := of_r .bfi rfl rfl (fun _ => rfl)
theorem popc (f : FmtR) : Statement (.popc f) := of_r .popc rfl rfl (fun _ => rfl)
theorem clz (f : FmtR) : Statement (.clz f) := of_r .clz rfl rfl (fun _ => rfl)
theorem brev (f : FmtR) : Statement (.brev f) := of_r .brev rfl rfl (fun _ => rfl)
theorem prmt (f : FmtR) : Statement (.prmt f) := of_r .prmt rfl rfl (fun _ => rfl)
theorem isetp (f : FmtR) : Statement (.isetp f) := of_r .isetp rfl rfl (fun _ => rfl)
theorem isetpI (f : FmtI) : Statement (.isetpI f) := of_i .isetpI rfl rfl rfl
theorem isel (f : FmtR) : Statement (.isel f) := of_r .isel rfl rfl (fun _ => rfl)
theorem iselI (f : FmtI) : Statement (.iselI f) := of_i .iselI rfl rfl rfl
theorem fsetp (f : FmtR) : Statement (.fsetp f) := of_r .fsetp rfl rfl (fun _ => rfl)
theorem fsetpI (f : FmtI) : Statement (.fsetpI f) := of_i .fsetpI rfl rfl rfl
theorem hsetp2 (f : FmtR) : Statement (.hsetp2 f) := of_r .hsetp2 rfl rfl (fun _ => rfl)
theorem hsetp2I (f : FmtI) : Statement (.hsetp2I f) := of_i .hsetp2I rfl rfl rfl
theorem plop (f : FmtR) : Statement (.plop f) := of_r .plop rfl rfl (fun _ => rfl)
theorem p2v (f : FmtR) : Statement (.p2v f) := of_r .p2v rfl rfl (fun _ => rfl)
theorem v2p (f : FmtR) : Statement (.v2p f) := of_r .v2p rfl rfl (fun _ => rfl)
theorem fadd (f : FmtR) : Statement (.fadd f) := of_r .fadd rfl rfl (fun _ => rfl)
theorem faddI (f : FmtI) : Statement (.faddI f) := of_i .faddI rfl rfl rfl
theorem fmul (f : FmtR) : Statement (.fmul f) := of_r .fmul rfl rfl (fun _ => rfl)
theorem fmulI (f : FmtI) : Statement (.fmulI f) := of_i .fmulI rfl rfl rfl
theorem ffma (f : FmtR) : Statement (.ffma f) := of_r .ffma rfl rfl (fun _ => rfl)
theorem fmin (f : FmtR) : Statement (.fmin f) := of_r .fmin rfl rfl (fun _ => rfl)
theorem fminI (f : FmtI) : Statement (.fminI f) := of_i .fminI rfl rfl rfl
theorem fmax (f : FmtR) : Statement (.fmax f) := of_r .fmax rfl rfl (fun _ => rfl)
theorem fmaxI (f : FmtI) : Statement (.fmaxI f) := of_i .fmaxI rfl rfl rfl
theorem frnd (f : FmtR) : Statement (.frnd f) := of_r .frnd rfl rfl (fun _ => rfl)
theorem fclass (f : FmtR) : Statement (.fclass f) := of_r .fclass rfl rfl (fun _ => rfl)
theorem fscale (f : FmtR) : Statement (.fscale f) := of_r .fscale rfl rfl (fun _ => rfl)
theorem fscaleI (f : FmtI) : Statement (.fscaleI f) := of_i .fscaleI rfl rfl rfl
theorem hadd2 (f : FmtR) : Statement (.hadd2 f) := of_r .hadd2 rfl rfl (fun _ => rfl)
theorem hadd2I (f : FmtI) : Statement (.hadd2I f) := of_i .hadd2I rfl rfl rfl
theorem hmul2 (f : FmtR) : Statement (.hmul2 f) := of_r .hmul2 rfl rfl (fun _ => rfl)
theorem hmul2I (f : FmtI) : Statement (.hmul2I f) := of_i .hmul2I rfl rfl rfl
theorem hfma2 (f : FmtR) : Statement (.hfma2 f) := of_r .hfma2 rfl rfl (fun _ => rfl)
theorem hmin2 (f : FmtR) : Statement (.hmin2 f) := of_r .hmin2 rfl rfl (fun _ => rfl)
theorem hmin2I (f : FmtI) : Statement (.hmin2I f) := of_i .hmin2I rfl rfl rfl
theorem hmax2 (f : FmtR) : Statement (.hmax2 f) := of_r .hmax2 rfl rfl (fun _ => rfl)
theorem hmax2I (f : FmtI) : Statement (.hmax2I f) := of_i .hmax2I rfl rfl rfl
theorem rcp (f : FmtR) : Statement (.rcp f) := of_r .rcp rfl rfl (fun _ => rfl)
theorem rsq (f : FmtR) : Statement (.rsq f) := of_r .rsq rfl rfl (fun _ => rfl)
theorem sqrt (f : FmtR) : Statement (.sqrt f) := of_r .sqrt rfl rfl (fun _ => rfl)
theorem ex2 (f : FmtR) : Statement (.ex2 f) := of_r .ex2 rfl rfl (fun _ => rfl)
theorem lg2 (f : FmtR) : Statement (.lg2 f) := of_r .lg2 rfl rfl (fun _ => rfl)
theorem sin (f : FmtR) : Statement (.sin f) := of_r .sin rfl rfl (fun _ => rfl)
theorem cos (f : FmtR) : Statement (.cos f) := of_r .cos rfl rfl (fun _ => rfl)
theorem tanh (f : FmtR) : Statement (.tanh f) := of_r .tanh rfl rfl (fun _ => rfl)
theorem cvt (f : FmtR) : Statement (.cvt f) := of_r .cvt rfl rfl (fun _ => rfl)
theorem f2i (f : FmtR) : Statement (.f2i f) := of_r .f2i rfl rfl (fun _ => rfl)
theorem i2f (f : FmtR) : Statement (.i2f f) := of_r .i2f rfl rfl (fun _ => rfl)
theorem pack (f : FmtR) : Statement (.pack f) := of_r .pack rfl rfl (fun _ => rfl)
theorem unpk (f : FmtR) : Statement (.unpk f) := of_r .unpk rfl rfl (fun _ => rfl)
theorem qscale (f : FmtR) : Statement (.qscale f) := of_r .qscale rfl rfl (fun _ => rfl)
theorem qnt (f : FmtR) : Statement (.qnt f) := of_r .qnt rfl rfl (fun _ => rfl)
theorem dqnt (f : FmtR) : Statement (.dqnt f) := of_r .dqnt rfl rfl (fun _ => rfl)
theorem mov (f : FmtR) : Statement (.mov f) := of_r .mov rfl rfl (fun _ => rfl)
theorem movi (f : FmtI) : Statement (.movi f) := of_i .movi rfl rfl rfl
theorem movd (f : FmtR) : Statement (.movd f) := of_r .movd rfl rfl (fun _ => rfl)
theorem rget (f : FmtR) : Statement (.rget f) := of_r .rget rfl rfl (fun _ => rfl)
theorem rset (f : FmtR) : Statement (.rset f) := of_r .rset rfl rfl (fun _ => rfl)
theorem vote (f : FmtR) : Statement (.vote f) := of_r .vote rfl rfl (fun _ => rfl)
theorem matchv (f : FmtR) : Statement (.matchv f) := of_r .matchv rfl rfl (fun _ => rfl)
theorem redux (f : FmtR) : Statement (.redux f) := of_r .redux rfl rfl (fun _ => rfl)
theorem scan (f : FmtR) : Statement (.scan f) := of_r .scan rfl rfl (fun _ => rfl)
theorem first (f : FmtR) : Statement (.first f) := of_r .first rfl rfl (fun _ => rfl)
theorem perm (f : FmtR) : Statement (.perm f) := of_r .perm rfl rfl (fun _ => rfl)
theorem ld (sz : LdSize) (f : FmtM) : Statement (.ld sz f) := of_m (.ld sz) rfl (by cases sz <;> rfl) rfl
theorem st (sz : StSize) (f : FmtM) : Statement (.st sz f) := of_m (.st sz) rfl (by cases sz <;> rfl) rfl
theorem ldfrag (f : FmtM) : Statement (.ldfrag f) := of_m .ldfrag rfl rfl rfl
theorem stfrag (f : FmtM) : Statement (.stfrag f) := of_m .stfrag rfl rfl rfl
theorem pgreq (f : FmtM) : Statement (.pgreq f) := of_m .pgreq rfl rfl rfl
theorem pgprobe (f : FmtM) : Statement (.pgprobe f) := of_m .pgprobe rfl rfl rfl
theorem atom (op : AtomOp) (f : FmtM) : Statement (.atom op f) := of_m (.atom op) rfl (by cases op <;> rfl) rfl
theorem atoms (op : AtomOp) (f : FmtM) : Statement (.atoms op f) := of_m (.atoms op) rfl (by cases op <;> rfl) rfl
theorem red (op : AtomOp) (f : FmtM) : Statement (.red op f) := of_red op f
theorem fence (f : FmtM) : Statement (.fence f) := of_m .fence rfl rfl rfl
theorem lds (sz : LdSize) (f : FmtM) : Statement (.lds sz f) := of_m (.lds sz) rfl (by cases sz <;> rfl) rfl
theorem sts (sz : StSize) (f : FmtM) : Statement (.sts sz f) := of_m (.sts sz) rfl (by cases sz <;> rfl) rfl
theorem ldw (sz : LdSize) (f : FmtM) : Statement (.ldw sz f) := of_m (.ldw sz) rfl (by cases sz <;> rfl) rfl
theorem stw (sz : StSize) (f : FmtM) : Statement (.stw sz f) := of_m (.stw sz) rfl (by cases sz <;> rfl) rfl
theorem stagl (f : FmtR) : Statement (.stagl f) := of_r .stagl rfl rfl (fun _ => rfl)
theorem stagi (f : FmtR) : Statement (.stagi f) := of_r .stagi rfl rfl (fun _ => rfl)
theorem stagx (f : FmtR) : Statement (.stagx f) := of_r .stagx rfl rfl (fun _ => rfl)
theorem swopen (f : FmtR) : Statement (.swopen f) := of_r .swopen rfl rfl (fun _ => rfl)
theorem swclaim (f : FmtR) : Statement (.swclaim f) := of_r .swclaim rfl rfl (fun _ => rfl)
theorem swrel (f : FmtR) : Statement (.swrel f) := of_r .swrel rfl rfl (fun _ => rfl)
theorem smove (f : FmtR) : Statement (.smove f) := of_r .smove rfl rfl (fun _ => rfl)
theorem barinit (f : FmtR) : Statement (.barinit f) := of_r mkBarinit rfl rfl (fun h => special_barinit f h)
theorem barinitFree (f : FmtR) : Statement (.barinitFree f) := of_r mkBarinit rfl rfl (fun h => special_barinitFree f h)
theorem bararr (f : FmtR) : Statement (.bararr f) := of_r .bararr rfl rfl (fun _ => rfl)
theorem barexp (f : FmtR) : Statement (.barexp f) := of_r .barexp rfl rfl (fun _ => rfl)
theorem barwait (f : FmtR) : Statement (.barwait f) := of_r .barwait rfl rfl (fun _ => rfl)
theorem bartest (f : FmtR) : Statement (.bartest f) := of_r .bartest rfl rfl (fun _ => rfl)
theorem csign (f : FmtR) : Statement (.csign f) := of_r mkCsign rfl rfl (fun h => special_csign f h)
theorem csignDecl (f : FmtR) : Statement (.csignDecl f) := of_r mkCsign rfl rfl (fun h => special_csignDecl f h)
theorem cwait (f : FmtR) : Statement (.cwait f) := of_r .cwait rfl rfl (fun _ => rfl)
theorem reggrow (f : FmtR) : Statement (.reggrow f) := of_r .reggrow rfl rfl (fun _ => rfl)
theorem regshrink (f : FmtR) : Statement (.regshrink f) := of_r .regshrink rfl rfl (fun _ => rfl)
theorem launch (f : FmtR) : Statement (.launch f) := of_r .launch rfl rfl (fun _ => rfl)
theorem srd (f : FmtI) : Statement (.srd f) := of_i .srd rfl rfl rfl
theorem swr (f : FmtI) : Statement (.swr f) := of_i .swr rfl rfl rfl
theorem mma (f : FmtR) : Statement (.mma f) := of_r .mma rfl rfl (fun _ => rfl)
theorem mmaq (f : FmtR) : Statement (.mmaq f) := of_r .mmaq rfl rfl (fun _ => rfl)
theorem mxout (f : FmtR) : Statement (.mxout f) := of_r .mxout rfl rfl (fun _ => rfl)
theorem mzero (f : FmtR) : Statement (.mzero f) := of_r .mzero rfl rfl (fun _ => rfl)
theorem mlda (f : FmtR) : Statement (.mlda f) := of_r .mlda rfl rfl (fun _ => rfl)
theorem mrda (f : FmtR) : Statement (.mrda f) := of_r .mrda rfl rfl (fun _ => rfl)
theorem mwra (f : FmtR) : Statement (.mwra f) := of_r .mwra rfl rfl (fun _ => rfl)
theorem mdrain (f : FmtR) : Statement (.mdrain f) := of_r .mdrain rfl rfl (fun _ => rfl)
theorem mdrainTq (f : FmtR) : Statement (.mdrainTq f) := of_r .mdrainTq rfl rfl (fun _ => rfl)
theorem tcopy (f : FmtX) : Statement (.tcopy f) := of_x .tcopy rfl rfl rfl
theorem tgather (f : FmtX) : Statement (.tgather f) := of_x .tgather rfl rfl rfl
theorem tchain (f : FmtR) : Statement (.tchain f) := of_r .tchain rfl rfl (fun _ => rfl)
theorem tcancel (f : FmtR) : Statement (.tcancel f) := of_r .tcancel rfl rfl (fun _ => rfl)
theorem tstat (f : FmtR) : Statement (.tstat f) := of_r .tstat rfl rfl (fun _ => rfl)
theorem coll (f : FmtR) : Statement (.coll f) := of_r .coll rfl rfl (fun _ => rfl)
theorem fsend (f : FmtX) : Statement (.fsend f) := of_x .fsend rfl rfl rfl
theorem fpost (f : FmtR) : Statement (.fpost f) := of_r .fpost rfl rfl (fun _ => rfl)
theorem flogpop (f : FmtR) : Statement (.flogpop f) := of_r .flogpop rfl rfl (fun _ => rfl)
theorem stm (sz : StSize) (f : FmtM) : Statement (.stm sz f) := of_m (.stm sz) rfl (by cases sz <;> rfl) rfl
theorem ldx (op : LdxOp) (f : FmtM) : Statement (.ldx op f) := of_m (.ldx op) rfl (by cases op <;> rfl) rfl
theorem prefetch (f : FmtM) : Statement (.prefetch f) := of_m .prefetch rfl rfl rfl
theorem cflush (f : FmtM) : Statement (.cflush f) := of_m .cflush rfl rfl rfl
theorem cinval (f : FmtM) : Statement (.cinval f) := of_m .cinval rfl rfl rfl
theorem pvfl (f : FmtM) : Statement (.pvfl f) := of_m .pvfl rfl rfl rfl
theorem woclr (f : FmtM) : Statement (.woclr f) := of_m .woclr rfl rfl rfl
theorem nopCmd (h : CmdHdr) : Statement (.nopCmd h) := of_none rfl
theorem launchPacket (h : CmdHdr) (lq : BitVec 8) (rec : BitVec 512) : Statement (.launchPacket h lq rec) := of_none rfl
theorem vcCreate (h : CmdHdr) (lci : BitVec 8) (chw : BitVec 8) (pchip : BitVec 16) (gid : BitVec 16) (incoming : Bool) (s2 : DWord) (qos : DWord) : Statement (.vcCreate h lci chw pchip gid incoming s2 qos) := of_none rfl
theorem vcDestroy (h : CmdHdr) (lci : BitVec 8) : Statement (.vcDestroy h lci) := of_none rfl
theorem vcQos (h : CmdHdr) (lci : BitVec 8) (qos : DWord) : Statement (.vcQos h lci qos) := of_none rfl
theorem map (h : CmdHdr) (stage : BitVec 8) (lci : BitVec 8) (ctx : BitVec 128) : Statement (.map h stage lci ctx) := of_none rfl
theorem shoot (h : CmdHdr) (lci : BitVec 8) (stage : BitVec 8) (all : Bool) (cls : BitVec 8) (first : DWord) (count : DWord) : Statement (.shoot h lci stage all cls first count) := of_none rfl
theorem pageReply (h : CmdHdr) (vf : BitVec 8) (queue : BitVec 8) (status : BitVec 8) (reqid : BitVec 16) (inc : BitVec 16) : Statement (.pageReply h vf queue status reqid inc) := of_none rfl
theorem eventArm (h : CmdHdr) (lci : BitVec 16) : Statement (.eventArm h lci) := of_none rfl
theorem ckpt (h : CmdHdr) (gid : BitVec 16) (narrow : Bool) (dest : DWord) (ranges : DWord) (rt : DWord) : Statement (.ckpt h gid narrow dest ranges rt) := of_none rfl
theorem restore (h : CmdHdr) (gid : BitVec 16) (src : DWord) : Statement (.restore h gid src) := of_none rfl
theorem counterAcq (h : CmdHdr) (kind : BitVec 8) (op : BitVec 8) (die : BitVec 8) (bank : BitVec 8) (lci : BitVec 16) : Statement (.counterAcq h kind op die bank lci) := of_none rfl
theorem routeLoad (h : CmdHdr) (gid : BitVec 16) (kind : BitVec 8) (sel : BitVec 8) (src : DWord) (first : Word) (count : Word) : Statement (.routeLoad h gid kind sel src first count) := of_none rfl
theorem guestPause (h : CmdHdr) (gid : BitVec 16) : Statement (.guestPause h gid) := of_none rfl
theorem guestResume (h : CmdHdr) (gid : BitVec 16) : Statement (.guestResume h gid) := of_none rfl
theorem vcMigrate (h : CmdHdr) (lci : BitVec 8) (target : BitVec 16) (route : DWord) : Statement (.vcMigrate h lci target route) := of_none rfl
theorem placeLoad (h : CmdHdr) (lci : BitVec 8) (table : DWord) : Statement (.placeLoad h lci table) := of_none rfl
theorem getver (h : CmdHdr) : Statement (.getver h) := of_none rfl
theorem setver (h : CmdHdr) (iface : BitVec 8) (ver : BitVec 8) : Statement (.setver h iface ver) := of_none rfl
theorem attest (h : CmdHdr) (nonce : BitVec 256) (out : DWord) : Statement (.attest h nonce out) := of_none rfl
theorem dbgcmdStop (fn : Fn) (team : TeamId) : Statement (.dbgcmdStop fn team) := of_none rfl
theorem dbgcmdResume (fn : Fn) (team : TeamId) : Statement (.dbgcmdResume fn team) := of_none rfl
theorem dbgcmdResumeNext (fn : Fn) (team : TeamId) : Statement (.dbgcmdResumeNext fn team) := of_none rfl
theorem dbgcmdStep (fn : Fn) (team : TeamId) (group : BitVec 5) : Statement (.dbgcmdStep fn team group) := of_none rfl
theorem dbgcmdDetach (fn : Fn) (lci : BitVec 8) : Statement (.dbgcmdDetach fn lci) := of_none rfl
theorem queueTailWrite (fn : Fn) (q : QSel) (tail : Word) : Statement (.queueTailWrite fn q tail) := of_none rfl
theorem queueDescriptorReset (fn : Fn) (q : QSel) (base : DWord) (size : BitVec 8) (erra : DWord) : Statement (.queueDescriptorReset fn q base size erra) := of_none rfl
theorem armWrite (fn : Fn) : Statement (.armWrite fn) := of_none rfl
theorem rtailWrite (lci : BitVec 8) (rtail : Word) : Statement (.rtailWrite lci rtail) := of_none rfl
theorem registerWindowWrite (fn : Fn) (team : TeamId) (group : BitVec 5) (target : WinTarget) (data : DWord) : Statement (.registerWindowWrite fn team group target data) := of_none rfl
theorem watchpointWrite (fn : Fn) (lci : BitVec 8) (lcore : BitVec 11) (wp : BitVec 2) (val : BitVec 128) : Statement (.watchpointWrite fn lci lcore wp val) := of_none rfl
theorem counterSelectWrite (fn : Fn) (bank : BitVec 7) (ctr : BitVec 4) (sel : BitVec 16) : Statement (.counterSelectWrite fn bank ctr sel) := of_none rfl
theorem registerWrite (fn : Fn) (off : BitVec 16) (data : List Byte) : Statement (.registerWrite fn off data) := of_none rfl
theorem powerGood (romOk : Bool) (failedClusters : List Nat) (failedChannels : List Nat) : Statement (.powerGood romOk failedClusters failedChannels) := of_none rfl
theorem powerLimitWindow (watts : Nat) : Statement (.powerLimitWindow watts) := of_none rfl
theorem issueSlotPick (core : Nat) (slot : Nat) : Statement (.issueSlotPick core slot) := of_none rfl
theorem scoreboardDecrement (team : TeamId) (group : Nat) (ctr : Nat) : Statement (.scoreboardDecrement team group ctr) := of_none rfl
theorem dispatchPlacement (lci : BitVec 8) : Statement (.dispatchPlacement lci) := of_none rfl
theorem launchAcceptance (lci : BitVec 8) (lq : BitVec 8) : Statement (.launchAcceptance lci lq) := of_none rfl
theorem reggrowGrant (core : Nat) : Statement (.reggrowGrant core) := of_none rfl
theorem sleepWake (team : TeamId) (group : Nat) : Statement (.sleepWake team group) := of_none rfl
theorem parkThresholdExpiry (team : TeamId) : Statement (.parkThresholdExpiry team) := of_none rfl
theorem teamPark (team : TeamId) : Statement (.teamPark team) := of_none rfl
theorem teamWake (team : TeamId) : Statement (.teamWake team) := of_none rfl
theorem teamEnd (team : TeamId) : Statement (.teamEnd team) := of_none rfl
theorem translationWalk (core : Nat) (lci : BitVec 8) (va : DWord) (kind : BitVec 2) : Statement (.translationWalk core lci va kind) := of_none rfl
theorem storeAccept (txn : Nat) : Statement (.storeAccept txn) := of_none rfl
theorem readService (txn : Nat) : Statement (.readService txn) := of_none rfl
theorem accessAnswer (acc : Nat) : Statement (.accessAnswer acc) := of_none rfl
theorem leaseSweep (die : BitVec 4) (bank : BitVec 5) : Statement (.leaseSweep die bank) := of_none rfl
theorem wcbAgeExpiry (core : Nat) (pchip : BitVec 10) (line : BitVec 41) : Statement (.wcbAgeExpiry core pchip line) := of_none rfl
theorem shootDieAck (seq : Nat) (die : BitVec 4) : Statement (.shootDieAck seq die) := of_none rfl
theorem shootTimeout (seq : Nat) (die : BitVec 4) : Statement (.shootTimeout seq die) := of_none rfl
theorem jobStart (die : BitVec 4) (ch : BitVec 5) : Statement (.jobStart die ch) := of_none rfl
theorem boxRow (job : Nat) (row : Nat) : Statement (.boxRow job row) := of_none rfl
theorem jobEnd (job : Nat) : Statement (.jobEnd job) := of_none rfl
theorem chainRecordRead (die : BitVec 4) (ch : BitVec 5) : Statement (.chainRecordRead die ch) := of_none rfl
theorem collCardStart (card : Nat) : Statement (.collCardStart card) := of_none rfl
theorem collChunkLanding (card : Nat) (chunk : Nat) : Statement (.collChunkLanding card chunk) := of_none rfl
theorem collCardEnd (card : Nat) : Statement (.collCardEnd card) := of_none rfl
theorem matrixGrant (cluster : Nat) : Statement (.matrixGrant cluster) := of_none rfl
theorem matrixRequestApplied (cluster : Nat) : Statement (.matrixRequestApplied cluster) := of_none rfl
theorem mdrainWritesDone (drain : Nat) : Statement (.mdrainWritesDone drain) := of_none rfl
theorem smoveAcceptance (mv : Nat) : Statement (.smoveAcceptance mv) := of_none rfl
theorem smoveEnd (mv : Nat) : Statement (.smoveEnd mv) := of_none rfl
theorem windowBarrierUpdate (upd : Nat) : Statement (.windowBarrierUpdate upd) := of_none rfl
theorem serviceReply (lci : BitVec 8) : Statement (.serviceReply lci) := of_none rfl
theorem linkAck (port : BitVec 4) (lseq : BitVec 12) : Statement (.linkAck port lseq) := of_none rfl
theorem resendTimeout (port : BitVec 4) : Statement (.resendTimeout port) := of_none rfl
theorem linkTraining (port : BitVec 4) (lo : Nat) (hi : Nat) : Statement (.linkTraining port lo hi) := of_none rfl
theorem loadPacket (port : BitVec 5) (pkt : Packet) : Statement (.loadPacket port pkt) := of_none rfl
theorem loadRsp (port : BitVec 5) (pkt : Packet) : Statement (.loadRsp port pkt) := of_none rfl
theorem storePacket (port : BitVec 5) (pkt : Packet) : Statement (.storePacket port pkt) := of_none rfl
theorem storeAck (port : BitVec 5) (pkt : Packet) : Statement (.storeAck port pkt) := of_none rfl
theorem atomic (port : BitVec 5) (pkt : Packet) : Statement (.atomic port pkt) := of_none rfl
theorem atomicRsp (port : BitVec 5) (pkt : Packet) : Statement (.atomicRsp port pkt) := of_none rfl
theorem msgReq (port : BitVec 5) (pkt : Packet) : Statement (.msgReq port pkt) := of_none rfl
theorem msgData (port : BitVec 5) (pkt : Packet) : Statement (.msgData port pkt) := of_none rfl
theorem token (port : BitVec 5) (pkt : Packet) : Statement (.token port pkt) := of_none rfl
theorem defer (port : BitVec 5) (pkt : Packet) : Statement (.defer port pkt) := of_none rfl
theorem resume (port : BitVec 5) (pkt : Packet) : Statement (.resume port pkt) := of_none rfl
theorem nak (port : BitVec 5) (pkt : Packet) : Statement (.nak port pkt) := of_none rfl
theorem nakRetry (msg : Nat) : Statement (.nakRetry msg) := of_none rfl
theorem error (port : BitVec 5) (pkt : Packet) : Statement (.error port pkt) := of_none rfl
theorem preq (port : BitVec 5) (pkt : Packet) : Statement (.preq port pkt) := of_none rfl
theorem tokenIssue (die : BitVec 4) : Statement (.tokenIssue die) := of_none rfl
theorem tokenExpiry (die : BitVec 4) (tok : Nat) : Statement (.tokenExpiry die tok) := of_none rfl
theorem orphanTimeout (die : BitVec 4) (req : Nat) : Statement (.orphanTimeout die req) := of_none rfl
theorem linkRekey (src : BitVec 10) (dst : BitVec 10) (gid : BitVec 16) : Statement (.linkRekey src dst gid) := of_none rfl
theorem heartbeatLoss (peer : Nat) : Statement (.heartbeatLoss peer) := of_none rfl
theorem timeSyncExchange (port : BitVec 5) (offset : Int) : Statement (.timeSyncExchange port offset) := of_none rfl
theorem timeLost (offset : Int) : Statement (.timeLost offset) := of_none rfl
theorem guestPauseComplete (gid : BitVec 16) : Statement (.guestPauseComplete gid) := of_none rfl
theorem migrationComplete (lci : BitVec 8) : Statement (.migrationComplete lci) := of_none rfl
theorem checkpointComplete (gid : BitVec 16) : Statement (.checkpointComplete gid) := of_none rfl
theorem sliceBoundary : Statement .sliceBoundary := of_none rfl
theorem drainBoundExpiry (lci : BitVec 8) : Statement (.drainBoundExpiry lci) := of_none rfl
theorem coschedHint (cgroup : Word) (start : Nat) : Statement (.coschedHint cgroup start) := of_none rfl
theorem channelRetirement (die : BitVec 4) (ch : BitVec 6) : Statement (.channelRetirement die ch) := of_none rfl
theorem clusterRetirement (cluster : Nat) : Statement (.clusterRetirement cluster) := of_none rfl
theorem stopDump (team : TeamId) : Statement (.stopDump team) := of_none rfl
theorem tdispMessage (lci : BitVec 8) (msg : TdispMsg) : Statement (.tdispMessage lci msg) := of_none rfl
theorem functionReset (fn : Fn) : Statement (.functionReset fn) := of_none rfl
theorem powerCommand (target : PowerState) : Statement (.powerCommand target) := of_none rfl
theorem powerOff : Statement .powerOff := of_none rfl
theorem storeDropped (lci : BitVec 8) : Statement (.storeDropped lci) := of_none rfl

end Sys2Proof.Laws.Encoding
end

