-- ==== Sys2Proof/Laws/Updates.lean ====
section
/-! SUPPORT. What the shared updates of events leave of the state: rows given back, notices, corrected errors, moved bytes, time. -/

namespace Sys2Proof.Machine

variable (s : State)

@[simp] theorem State.later_hub (n : Nat) : (s.later n).hub = s.hub := rfl
@[simp] theorem State.later_chips (n : Nat) : (s.later n).chips = s.chips := rfl
@[simp] theorem State.later_teams (n : Nat) : (s.later n).teams = s.teams := rfl
@[simp] theorem State.later_cores (n : Nat) : (s.later n).cores = s.cores := rfl
@[simp] theorem State.later_clusters (n : Nat) : (s.later n).clusters = s.clusters := rfl
@[simp] theorem State.later_dies (n : Nat) : (s.later n).dies = s.dies := rfl
@[simp] theorem State.later_mod (n : Nat) : (s.later n).mod = s.mod := rfl
@[simp] theorem State.later_mem (n : Nat) : (s.later n).mem = s.mem := rfl
@[simp] theorem State.later_poison (n : Nat) : (s.later n).poison = s.poison := rfl
@[simp] theorem State.later_written (n : Nat) : (s.later n).written = s.written := rfl
@[simp] theorem State.later_traffic (n : Nat) : (s.later n).traffic = s.traffic := rfl
@[simp] theorem State.later_irqs (n : Nat) : (s.later n).irqs = s.irqs := rfl
@[simp] theorem State.later_outbox (n : Nat) : (s.later n).outbox = s.outbox := rfl
@[simp] theorem State.later_agenda (n : Nat) : (s.later n).agenda = s.agenda := rfl
@[simp] theorem State.later_free (n : Nat) : (s.later n).free = s.free := rfl
@[simp] theorem State.later_ids (n : Nat) : (s.later n).ids = s.ids := rfl
@[simp] theorem State.later_cur (n : Nat) : (s.later n).cur = s.cur := rfl

@[simp] theorem State.unblock_gtc (n : Nat) : (s.unblock n).gtc = s.gtc := State.modChip_gtc s _ _
@[simp] theorem State.unblock_hub (n : Nat) : (s.unblock n).hub = s.hub := State.modChip_hub s _ _
@[simp] theorem State.unblock_teams (n : Nat) : (s.unblock n).teams = s.teams := State.modChip_teams s _ _
@[simp] theorem State.unblock_cores (n : Nat) : (s.unblock n).cores = s.cores := State.modChip_cores s _ _
@[simp] theorem State.unblock_clusters (n : Nat) : (s.unblock n).clusters = s.clusters := State.modChip_clusters s _ _
@[simp] theorem State.unblock_dies (n : Nat) : (s.unblock n).dies = s.dies := State.modChip_dies s _ _
@[simp] theorem State.unblock_mod (n : Nat) : (s.unblock n).mod = s.mod := State.modChip_mod s _ _
@[simp] theorem State.unblock_mem (n : Nat) : (s.unblock n).mem = s.mem := State.modChip_mem s _ _
@[simp] theorem State.unblock_poison (n : Nat) : (s.unblock n).poison = s.poison := State.modChip_poison s _ _
@[simp] theorem State.unblock_written (n : Nat) : (s.unblock n).written = s.written := State.modChip_written s _ _
@[simp] theorem State.unblock_traffic (n : Nat) : (s.unblock n).traffic = s.traffic := State.modChip_traffic s _ _
@[simp] theorem State.unblock_irqs (n : Nat) : (s.unblock n).irqs = s.irqs := State.modChip_irqs s _ _
@[simp] theorem State.unblock_outbox (n : Nat) : (s.unblock n).outbox = s.outbox := State.modChip_outbox s _ _
@[simp] theorem State.unblock_agenda (n : Nat) : (s.unblock n).agenda = s.agenda := State.modChip_agenda s _ _
@[simp] theorem State.unblock_free (n : Nat) : (s.unblock n).free = s.free := State.modChip_free s _ _
@[simp] theorem State.unblock_ids (n : Nat) : (s.unblock n).ids = s.ids := State.modChip_ids s _ _
@[simp] theorem State.unblock_cur (n : Nat) : (s.unblock n).cur = s.cur := State.modChip_cur s _ _

@[simp] theorem State.landGroup_gtc (i : TeamId) (n : Nat) (f : Group → Group) : (s.landGroup i n f).gtc = s.gtc := by
  unfold State.landGroup; dsimp only; split
  · split <;> simp
  all_goals simp
@[simp] theorem State.landGroup_hub (i : TeamId) (n : Nat) (f : Group → Group) : (s.landGroup i n f).hub = s.hub := by
  unfold State.landGroup; dsimp only; split
  · split <;> simp
  all_goals simp
@[simp] theorem State.landGroup_cores (i : TeamId) (n : Nat) (f : Group → Group) : (s.landGroup i n f).cores = s.cores := by
  unfold State.landGroup; dsimp only; split
  · split <;> simp
  all_goals simp
@[simp] theorem State.landGroup_clusters (i : TeamId) (n : Nat) (f : Group → Group) : (s.landGroup i n f).clusters = s.clusters := by
  unfold State.landGroup; dsimp only; split
  · split <;> simp
  all_goals simp
@[simp] theorem State.landGroup_dies (i : TeamId) (n : Nat) (f : Group → Group) : (s.landGroup i n f).dies = s.dies := by
  unfold State.landGroup; dsimp only; split
  · split <;> simp
  all_goals simp
@[simp] theorem State.landGroup_mod (i : TeamId) (n : Nat) (f : Group → Group) : (s.landGroup i n f).mod = s.mod := by
  unfold State.landGroup; dsimp only; split
  · split <;> simp
  all_goals simp
@[simp] theorem State.landGroup_mem (i : TeamId) (n : Nat) (f : Group → Group) : (s.landGroup i n f).mem = s.mem := by
  unfold State.landGroup; dsimp only; split
  · split <;> simp
  all_goals simp
@[simp] theorem State.landGroup_poison (i : TeamId) (n : Nat) (f : Group → Group) : (s.landGroup i n f).poison = s.poison := by
  unfold State.landGroup; dsimp only; split
  · split <;> simp
  all_goals simp
@[simp] theorem State.landGroup_written (i : TeamId) (n : Nat) (f : Group → Group) : (s.landGroup i n f).written = s.written := by
  unfold State.landGroup; dsimp only; split
  · split <;> simp
  all_goals simp
@[simp] theorem State.landGroup_traffic (i : TeamId) (n : Nat) (f : Group → Group) : (s.landGroup i n f).traffic = s.traffic := by
  unfold State.landGroup; dsimp only; split
  · split <;> simp
  all_goals simp
@[simp] theorem State.landGroup_irqs (i : TeamId) (n : Nat) (f : Group → Group) : (s.landGroup i n f).irqs = s.irqs := by
  unfold State.landGroup; dsimp only; split
  · split <;> simp
  all_goals simp
@[simp] theorem State.landGroup_outbox (i : TeamId) (n : Nat) (f : Group → Group) : (s.landGroup i n f).outbox = s.outbox := by
  unfold State.landGroup; dsimp only; split
  · split <;> simp
  all_goals simp
@[simp] theorem State.landGroup_agenda (i : TeamId) (n : Nat) (f : Group → Group) : (s.landGroup i n f).agenda = s.agenda := by
  unfold State.landGroup; dsimp only; split
  · split <;> simp
  all_goals simp
@[simp] theorem State.landGroup_free (i : TeamId) (n : Nat) (f : Group → Group) : (s.landGroup i n f).free = s.free := by
  unfold State.landGroup; dsimp only; split
  · split <;> simp
  all_goals simp
@[simp] theorem State.landGroup_ids (i : TeamId) (n : Nat) (f : Group → Group) : (s.landGroup i n f).ids = s.ids := by
  unfold State.landGroup; dsimp only; split
  · split <;> simp
  all_goals simp
@[simp] theorem State.landGroup_cur (i : TeamId) (n : Nat) (f : Group → Group) : (s.landGroup i n f).cur = s.cur := by
  unfold State.landGroup; dsimp only; split
  · split <;> simp
  all_goals simp

@[simp] theorem State.putSmove_gtc (m : Smove) : (s.putSmove m).gtc = s.gtc := rfl
@[simp] theorem State.putSmove_hub (m : Smove) : (s.putSmove m).hub = s.hub := rfl
@[simp] theorem State.putSmove_chips (m : Smove) : (s.putSmove m).chips = s.chips := rfl
@[simp] theorem State.putSmove_teams (m : Smove) : (s.putSmove m).teams = s.teams := rfl
@[simp] theorem State.putSmove_cores (m : Smove) : (s.putSmove m).cores = s.cores := rfl
@[simp] theorem State.putSmove_clusters (m : Smove) : (s.putSmove m).clusters = s.clusters := rfl
@[simp] theorem State.putSmove_dies (m : Smove) : (s.putSmove m).dies = s.dies := rfl
@[simp] theorem State.putSmove_mod (m : Smove) : (s.putSmove m).mod = s.mod := rfl
@[simp] theorem State.putSmove_mem (m : Smove) : (s.putSmove m).mem = s.mem := rfl
@[simp] theorem State.putSmove_poison (m : Smove) : (s.putSmove m).poison = s.poison := rfl
@[simp] theorem State.putSmove_written (m : Smove) : (s.putSmove m).written = s.written := rfl
@[simp] theorem State.putSmove_irqs (m : Smove) : (s.putSmove m).irqs = s.irqs := rfl
@[simp] theorem State.putSmove_outbox (m : Smove) : (s.putSmove m).outbox = s.outbox := rfl
@[simp] theorem State.putSmove_agenda (m : Smove) : (s.putSmove m).agenda = s.agenda := rfl
@[simp] theorem State.putSmove_free (m : Smove) : (s.putSmove m).free = s.free := rfl
@[simp] theorem State.putSmove_ids (m : Smove) : (s.putSmove m).ids = s.ids := rfl
@[simp] theorem State.putSmove_cur (m : Smove) : (s.putSmove m).cur = s.cur := rfl

@[simp] theorem State.noteCorrected_gtc (u : EccUnit) : (s.noteCorrected u).gtc = s.gtc := rfl
@[simp] theorem State.noteCorrected_chips (u : EccUnit) : (s.noteCorrected u).chips = s.chips := rfl
@[simp] theorem State.noteCorrected_teams (u : EccUnit) : (s.noteCorrected u).teams = s.teams := rfl
@[simp] theorem State.noteCorrected_cores (u : EccUnit) : (s.noteCorrected u).cores = s.cores := rfl
@[simp] theorem State.noteCorrected_clusters (u : EccUnit) : (s.noteCorrected u).clusters = s.clusters := rfl
@[simp] theorem State.noteCorrected_dies (u : EccUnit) : (s.noteCorrected u).dies = s.dies := rfl
@[simp] theorem State.noteCorrected_mod (u : EccUnit) : (s.noteCorrected u).mod = s.mod := rfl
@[simp] theorem State.noteCorrected_mem (u : EccUnit) : (s.noteCorrected u).mem = s.mem := rfl
@[simp] theorem State.noteCorrected_poison (u : EccUnit) : (s.noteCorrected u).poison = s.poison := rfl
@[simp] theorem State.noteCorrected_written (u : EccUnit) : (s.noteCorrected u).written = s.written := rfl
@[simp] theorem State.noteCorrected_traffic (u : EccUnit) : (s.noteCorrected u).traffic = s.traffic := rfl
@[simp] theorem State.noteCorrected_irqs (u : EccUnit) : (s.noteCorrected u).irqs = s.irqs := rfl
@[simp] theorem State.noteCorrected_outbox (u : EccUnit) : (s.noteCorrected u).outbox = s.outbox := rfl
@[simp] theorem State.noteCorrected_agenda (u : EccUnit) : (s.noteCorrected u).agenda = s.agenda := rfl
@[simp] theorem State.noteCorrected_free (u : EccUnit) : (s.noteCorrected u).free = s.free := rfl
@[simp] theorem State.noteCorrected_ids (u : EccUnit) : (s.noteCorrected u).ids = s.ids := rfl
@[simp] theorem State.noteCorrected_cur (u : EccUnit) : (s.noteCorrected u).cur = s.cur := rfl

@[simp] theorem State.notify_gtc (g p : Nat) (k : NoticeKind) (w : NoticeFor) : (s.notify g p k w).gtc = s.gtc := rfl
@[simp] theorem State.notify_hub (g p : Nat) (k : NoticeKind) (w : NoticeFor) : (s.notify g p k w).hub = s.hub := rfl
@[simp] theorem State.notify_chips (g p : Nat) (k : NoticeKind) (w : NoticeFor) : (s.notify g p k w).chips = s.chips := rfl
@[simp] theorem State.notify_teams (g p : Nat) (k : NoticeKind) (w : NoticeFor) : (s.notify g p k w).teams = s.teams := rfl
@[simp] theorem State.notify_cores (g p : Nat) (k : NoticeKind) (w : NoticeFor) : (s.notify g p k w).cores = s.cores := rfl
@[simp] theorem State.notify_clusters (g p : Nat) (k : NoticeKind) (w : NoticeFor) : (s.notify g p k w).clusters = s.clusters := rfl
@[simp] theorem State.notify_dies (g p : Nat) (k : NoticeKind) (w : NoticeFor) : (s.notify g p k w).dies = s.dies := rfl
@[simp] theorem State.notify_mem (g p : Nat) (k : NoticeKind) (w : NoticeFor) : (s.notify g p k w).mem = s.mem := rfl
@[simp] theorem State.notify_poison (g p : Nat) (k : NoticeKind) (w : NoticeFor) : (s.notify g p k w).poison = s.poison := rfl
@[simp] theorem State.notify_written (g p : Nat) (k : NoticeKind) (w : NoticeFor) : (s.notify g p k w).written = s.written := rfl
@[simp] theorem State.notify_traffic (g p : Nat) (k : NoticeKind) (w : NoticeFor) : (s.notify g p k w).traffic = s.traffic := rfl
@[simp] theorem State.notify_irqs (g p : Nat) (k : NoticeKind) (w : NoticeFor) : (s.notify g p k w).irqs = s.irqs := rfl
@[simp] theorem State.notify_outbox (g p : Nat) (k : NoticeKind) (w : NoticeFor) : (s.notify g p k w).outbox = s.outbox := rfl
@[simp] theorem State.notify_agenda (g p : Nat) (k : NoticeKind) (w : NoticeFor) : (s.notify g p k w).agenda = s.agenda := rfl
@[simp] theorem State.notify_free (g p : Nat) (k : NoticeKind) (w : NoticeFor) : (s.notify g p k w).free = s.free := rfl
@[simp] theorem State.notify_cur (g p : Nat) (k : NoticeKind) (w : NoticeFor) : (s.notify g p k w).cur = s.cur := rfl

@[simp] theorem State.keepBusy_gtc (b : BankLine) : (s.keepBusy b).gtc = s.gtc := by unfold State.keepBusy; split <;> rfl
@[simp] theorem State.keepBusy_hub (b : BankLine) : (s.keepBusy b).hub = s.hub := by unfold State.keepBusy; split <;> rfl
@[simp] theorem State.keepBusy_chips (b : BankLine) : (s.keepBusy b).chips = s.chips := by unfold State.keepBusy; split <;> rfl
@[simp] theorem State.keepBusy_teams (b : BankLine) : (s.keepBusy b).teams = s.teams := by unfold State.keepBusy; split <;> rfl
@[simp] theorem State.keepBusy_cores (b : BankLine) : (s.keepBusy b).cores = s.cores := by unfold State.keepBusy; split <;> rfl
@[simp] theorem State.keepBusy_clusters (b : BankLine) : (s.keepBusy b).clusters = s.clusters := by unfold State.keepBusy; split <;> rfl
@[simp] theorem State.keepBusy_dies (b : BankLine) : (s.keepBusy b).dies = s.dies := by unfold State.keepBusy; split <;> rfl
@[simp] theorem State.keepBusy_mod (b : BankLine) : (s.keepBusy b).mod = s.mod := by unfold State.keepBusy; split <;> rfl
@[simp] theorem State.keepBusy_poison (b : BankLine) : (s.keepBusy b).poison = s.poison := by unfold State.keepBusy; split <;> rfl
@[simp] theorem State.keepBusy_written (b : BankLine) : (s.keepBusy b).written = s.written := by unfold State.keepBusy; split <;> rfl
@[simp] theorem State.keepBusy_irqs (b : BankLine) : (s.keepBusy b).irqs = s.irqs := by unfold State.keepBusy; split <;> rfl
@[simp] theorem State.keepBusy_outbox (b : BankLine) : (s.keepBusy b).outbox = s.outbox := by unfold State.keepBusy; split <;> rfl
@[simp] theorem State.keepBusy_agenda (b : BankLine) : (s.keepBusy b).agenda = s.agenda := by unfold State.keepBusy; split <;> rfl
@[simp] theorem State.keepBusy_free (b : BankLine) : (s.keepBusy b).free = s.free := by unfold State.keepBusy; split <;> rfl
@[simp] theorem State.keepBusy_ids (b : BankLine) : (s.keepBusy b).ids = s.ids := by unfold State.keepBusy; split <;> rfl
@[simp] theorem State.keepBusy_cur (b : BankLine) : (s.keepBusy b).cur = s.cur := by unfold State.keepBusy; split <;> rfl

/-- Time advances modulo its width (00 R4). -/
@[simp] theorem State.later_gtc (n : Nat) : (s.later n).gtc = (s.gtc + n) % 2 ^ 64 := rfl

/-- Bytes written to a scratchpad change it and its marks, and nothing else of the team. -/
theorem Team.spadWrite_frame (t : Team) (o : Nat) (l : List Byte) :
    t.spadWrite o l = { t with spad := (t.spadWrite o l).spad, spadPoison := (t.spadWrite o l).spadPoison } := rfl

/-- Bytes written are poisoned no more (11 R324). -/
theorem Team.spadWrite_clean (t : Team) (o : Nat) (l : List Byte) : (t.spadWrite o l).spadBad o l.length = false := by
  simp only [Team.spadBad, Team.spadWrite, List.any_eq_false, List.mem_filter]
  rintro p ⟨-, h⟩
  simp only [Bool.and_eq_true, decide_eq_true_eq, not_and, Bool.not_eq_true', Bool.and_eq_false_iff,
    decide_eq_false_iff_not] at h ⊢
  omega

end Sys2Proof.Machine
end

