-- ==== Sys2Proof/Tests/Slice0.lean ====
section
/-! SUPPORT. The model's own tests: words written out from the spec's encoding tables; terms that are not well-formed;
for each statement a state and operands that meet its premises; and steps with results taken from the spec's examples. -/

open Sys2Proof

namespace Sys2Proof.Tests

set_option Elab.async false

/-- Scheduling fields of a word with guard p7 and no counter. -/
def sched0 : Sched := { stall := 0, fin := false, pg := 7, pn := false, set := 7, wait := 0 }

/-- A format-R instruction. -/
def fr (dst sa : Opd) (perm : Perm) (sb sc : Opd) (ty : Ty) (rm : Rm) (sat : Bool) (mod : BitVec 11) : FmtR :=
  { sched := sched0, dst := dst, sa := sa, perm := perm, sb := sb, sc := sc, ty := ty, rm := rm, sat := sat, mod := mod }

/-- A format-I instruction. -/
def fi (dst sa : Opd) (perm : Perm) (imm : Word) (ty : Ty) (rm : Rm) : FmtI :=
  { sched := sched0, dst := dst, sa := sa, perm := perm, imm := imm, ty := ty, rm := rm }

/-- A format-M instruction. -/
def fm (dst sa : Opd) (scope : Scope) (ord : Ord) (ch : BitVec 2) (sb : Opd) (ofs : BitVec 24) (asp : Asp) : FmtM :=
  { sched := sched0, dst := dst, sa := sa, scope := scope, ord := ord, ch := ch, sb := sb, ofs := ofs, asp := asp }

/-- A word decodes to an instruction. -/
def reads (w : IWord) (r : Record) (i : Instr) : Bool := match decode w r with | .ok j => j == i | .error _ => false

/-- A word is refused with a cause. -/
def refuses (w : IWord) (r : Record) (e : DecodeTrap) : Bool := match decode w r with | .ok _ => false | .error x => x == e

/-! ### Words of every instruction, from Tables 6.4 to 6.14 -/

theorem test_words_control : ([
    (0x000077000000000000000000#96, .nop (fr (.v 0) (.v 0) .none (.v 0) (.v 0) .i32 .rne false 0x0)),
    (0x010077000000000000000AC0#96, .bra (fi (.v 0) (.v 0) .none 0x2B .i32 .rne)),
    (0x020077000040C00000000000#96, .brx (fr (.v 0) (.d 3) .none (.v 0) (.v 0) .i32 .rne false 0x0)),
    (0x030077010C00000000000680#96, .call (fi (.d 12) (.v 0) .none 0x1A .i32 .rne)),
    (0x040077010241400000000000#96, .callx (fr (.d 2) (.d 5) .none (.v 0) (.v 0) .i32 .rne false 0x0)),
    (0x050077000042400000000000#96, .ret (fr (.v 0) (.d 9) .none (.v 0) (.v 0) .i32 .rne false 0x0)),
    (0x060077000000000000000000#96, .exit (fr (.v 0) (.v 0) .none (.v 0) (.v 0) .i32 .rne false 0x0)),
    (0x070077000042000000004040#96, .trapSvc (fi (.v 0) (.d 8) .none 0x101 .i32 .rne)),
    (0x0710770000000000000001C0#96, .trapBkpt (fi (.v 0) (.v 0) .none 0x7 .i32 .rne)),
    (0x072077000000000000000240#96, .trapSys (fi (.v 0) (.v 0) .none 0x9 .i32 .rne)),
    (0x080077000000000000000001#96, .rtt (fr (.v 0) (.v 0) .none (.v 0) (.v 0) .i32 .rne false 0x1)),
    (0x090077000001000090500108#96, .region (fr (.v 0) (.v 4) .none (.v 9) (.v 20) .i32 .rne false 0x108)),
    (0x0A0077000000000000000000#96, .yield (fr (.v 0) (.v 0) .none (.v 0) (.v 0) .i32 .rne false 0x0)),
    (0x0B00770000410000601C0000#96, .sleept (fr (.v 0) (.d 4) .none (.v 6) (.v 7) .i32 .rne false 0x0))] : List (IWord × Instr)).all (fun p => reads p.1 0 p.2) = true := by decide +kernel

theorem test_words_integer : ([
    (0x10007700040088C030004800#96, .iadd (fr (.v 4) (.v 2) (.butterfly 3) (.v 3) (.v 0) .n32 .rne true 0x0)),
    (0x108077010440914000000448#96, .iaddI (fi (.d 4) (.d 2) (.rotate 5) 0x11 .i64 .rne)),
    (0x12007700040088C030004800#96, .isub (fr (.v 4) (.v 2) (.butterfly 3) (.v 3) (.v 0) .n32 .rne true 0x0)),
    (0x128077010440914000000448#96, .isubI (fi (.d 4) (.d 2) (.rotate 5) 0x11 .i64 .rne)),
    (0x13007700040088C030004800#96, .imul (fr (.v 4) (.v 2) (.butterfly 3) (.v 3) (.v 0) .n32 .rne true 0x0)),
    (0x138077010440914000000448#96, .imulI (fi (.d 4) (.d 2) (.rotate 5) 0x11 .i64 .rne)),
    (0x110077010140801034108000#96, .iadd3 (fr (.d 1) (.d 2) .none (.d 3) (.d 4) .i64 .rne false 0x0)),
    (0x140077000100800030000000#96, .imulh (fr (.v 1) (.v 2) .none (.v 3) (.v 0) .i32 .rne false 0x0)),
    (0x148077000100803FFFFFFFC0#96, .imulhI (fi (.v 1) (.v 2) .none 0xFFFFFFFF .i32 .rne)),
    (0x150077000100800030104800#96, .imad (fr (.v 1) (.v 2) .none (.v 3) (.v 4) .n32 .rne true 0x0)),
    (0x160077010100800034100000#96, .imadw (fr (.d 1) (.v 2) .none (.v 3) (.d 4) .i32 .rne false 0x0)),
    (0x170077000100800030000000#96, .imin (fr (.v 1) (.v 2) .none (.v 3) (.v 0) .i32 .rne false 0x0)),
    (0x178077000100800000000144#96, .iminI (fi (.v 1) (.v 2) .none 0x5 .n32 .rne)),
    (0x180077000100800030000000#96, .imax (fr (.v 1) (.v 2) .none (.v 3) (.v 0) .i32 .rne false 0x0)),
    (0x188077000100800000000140#96, .imaxI (fi (.v 1) (.v 2) .none 0x5 .i32 .rne)),
    (0x190077000100800000000800#96, .iabs (fr (.v 1) (.v 2) .none (.v 0) (.v 0) .i32 .rne true 0x0)),
    (0x1A0077010140800000008000#96, .ineg (fr (.d 1) (.d 2) .none (.v 0) (.v 0) .i64 .rne false 0x0)),
    (0x1B007700010080003000001F#96, .lea (fr (.v 1) (.v 2) .none (.v 3) (.v 0) .i32 .rne false 0x1F)),
    (0x1B8077000100800000001004#96, .leaI (fi (.v 1) (.v 2) .none 0x40 .n32 .rne)),
    (0x1C0077010140800030004004#96, .leaw (fr (.d 1) (.d 2) .none (.v 3) (.v 0) .n32 .rne false 0x4)),
    (0x1C8077010140800000001000#96, .leawI (fi (.d 1) (.d 2) .none 0x40 .i32 .rne))] : List (IWord × Instr)).all (fun p => reads p.1 0 p.2) = true := by decide +kernel

theorem test_words_logic : ([
    (0x200077000100800030000000#96, .and (fr (.v 1) (.v 2) .none (.v 3) (.v 0) .i32 .rne false 0x0)),
    (0x2080770001008000002AF340#96, .andI (fi (.v 1) (.v 2) .none 0xABCD .i32 .rne)),
    (0x210077000100800030000000#96, .or (fr (.v 1) (.v 2) .none (.v 3) (.v 0) .i32 .rne false 0x0)),
    (0x2180770001008000002AF340#96, .orI (fi (.v 1) (.v 2) .none 0xABCD .i32 .rne)),
    (0x220077000100800030000000#96, .xor (fr (.v 1) (.v 2) .none (.v 3) (.v 0) .i32 .rne false 0x0)),
    (0x2280770001008000002AF340#96, .xorI (fi (.v 1) (.v 2) .none 0xABCD .i32 .rne)),
    (0x240077000100800030000000#96, .shl (fr (.v 1) (.v 2) .none (.v 3) (.v 0) .i32 .rne false 0x0)),
    (0x2480770001008000002AF340#96, .shlI (fi (.v 1) (.v 2) .none 0xABCD .i32 .rne)),
    (0x250077000100800030000000#96, .shr (fr (.v 1) (.v 2) .none (.v 3) (.v 0) .i32 .rne false 0x0)),
    (0x2580770001008000002AF340#96, .shrI (fi (.v 1) (.v 2) .none 0xABCD .i32 .rne)),
    (0x260077000100800030000000#96, .sar (fr (.v 1) (.v 2) .none (.v 3) (.v 0) .i32 .rne false 0x0)),
    (0x2680770001008000002AF340#96, .sarI (fi (.v 1) (.v 2) .none 0xABCD .i32 .rne)),
    (0x280077000100800030000000#96, .rotl (fr (.v 1) (.v 2) .none (.v 3) (.v 0) .i32 .rne false 0x0)),
    (0x2880770001008000002AF340#96, .rotlI (fi (.v 1) (.v 2) .none 0xABCD .i32 .rne)),
    (0x2300770001008000301000E8#96, .lut3 (fr (.v 1) (.v 2) .none (.v 3) (.v 4) .i32 .rne false 0xE8)),
    (0x270077000100800030100001#96, .shf (fr (.v 1) (.v 2) .none (.v 3) (.v 4) .i32 .rne false 0x1)),
    (0x290077000100800030004000#96, .bfe (fr (.v 1) (.v 2) .none (.v 3) (.v 0) .n32 .rne false 0x0)),
    (0x298077000100800000020140#96, .bfeI (fi (.v 1) (.v 2) .none 0x805 .i32 .rne)),
    (0x2A0077000100800030100000#96, .bfi (fr (.v 1) (.v 2) .none (.v 3) (.v 4) .i32 .rne false 0x0)),
    (0x2B0077000100800000000000#96, .popc (fr (.v 1) (.v 2) .none (.v 0) (.v 0) .i32 .rne false 0x0)),
    (0x2C0077000100800000000000#96, .clz (fr (.v 1) (.v 2) .none (.v 0) (.v 0) .i32 .rne false 0x0)),
    (0x2D0077000100800000000000#96, .brev (fr (.v 1) (.v 2) .none (.v 0) (.v 0) .i32 .rne false 0x0)),
    (0x2E0077000100800030100000#96, .prmt (fr (.v 1) (.v 2) .none (.v 3) (.v 4) .i32 .rne false 0x0))] : List (IWord × Instr)).all (fun p => reads p.1 0 p.2) = true := by decide +kernel

theorem test_words_compare : ([
    (0x3000770309008000300040A0#96, .isetp (fr (.p 1) (.v 2) .none (.v 3) (.v 0) .n32 .rne false 0xA0)),
    (0x3080770309008000000000C0#96, .isetpI (fi (.p 1) (.v 2) .none 0x3 .i32 .rne)),
    (0x31007700010080003C300000#96, .isel (fr (.v 1) (.v 2) .none (.v 3) (.p 4) .i32 .rne false 0x0)),
    (0x3180770001008000000000C0#96, .iselI (fi (.v 1) (.v 2) .none 0x3 .i32 .rne)),
    (0x3200770309008000300201A3#96, .fsetp (fr (.p 1) (.v 2) .none (.v 3) (.v 0) .f32 .rne false 0x1A3)),
    (0x328077030900800FE0000020#96, .fsetpI (fi (.p 1) (.v 2) .none 0x3F800000 .f32 .rne)),
    (0x330077030C00800030028040#96, .hsetp2 (fr (.p 4) (.v 2) .none (.v 3) (.v 0) .bf16 .rne false 0x40)),
    (0x338077030A008000000F0024#96, .hsetp2I (fi (.p 2) (.v 2) .none 0x3C00 .f16 .rne)),
    (0x3400770309C28030BC300080#96, .plop (fr (.p 1) (.p 2) .none (.p 3) (.p 4) .i32 .rne false 0x80)),
    (0x350077000100000000000000#96, .p2v (fr (.v 1) (.v 0) .none (.v 0) (.v 0) .i32 .rne false 0x0)),
    (0x360077000000800000000055#96, .v2p (fr (.v 0) (.v 2) .none (.v 0) (.v 0) .i32 .rne false 0x55))] : List (IWord × Instr)).all (fun p => reads p.1 0 p.2) = true := by decide +kernel

theorem test_words_float : ([
    (0x400077000100800030022C1B#96, .fadd (fr (.v 1) (.v 2) .none (.v 3) (.v 0) .f32 .ru true 0x41B)),
    (0x410077000100980030020200#96, .fmul (fr (.v 1) (.v 2) .reverse (.v 3) (.v 0) .f32 .rne false 0x200)),
    (0x420077000100A2403012303F#96, .ffma (fr (.v 1) (.v 2) (.broadcast 9) (.v 3) (.v 4) .f32 .rd false 0x3F)),
    (0x408077000100801000000021#96, .faddI (fi (.v 1) (.v 2) .none 0x40000000 .f32 .rz)),
    (0x418077000100801000000021#96, .fmulI (fi (.v 1) (.v 2) .none 0x40000000 .f32 .rz)),
    (0x478077000100801000000021#96, .fscaleI (fi (.v 1) (.v 2) .none 0x40000000 .f32 .rz)),
    (0x430077000100800030020000#96, .fmin (fr (.v 1) (.v 2) .none (.v 3) (.v 0) .f32 .rne false 0x0)),
    (0x438077000100800000000060#96, .fminI (fi (.v 1) (.v 2) .none 0x1 .f32 .rne)),
    (0x440077000100800030020200#96, .fmax (fr (.v 1) (.v 2) .none (.v 3) (.v 0) .f32 .rne false 0x200)),
    (0x448077000100800000000060#96, .fmaxI (fi (.v 1) (.v 2) .none 0x1 .f32 .rne)),
    (0x450077000100800000023000#96, .frnd (fr (.v 1) (.v 2) .none (.v 0) (.v 0) .f32 .rd false 0x0)),
    (0x460077000100800000020000#96, .fclass (fr (.v 1) (.v 2) .none (.v 0) (.v 0) .f32 .rne false 0x0)),
    (0x470077000100800030020000#96, .fscale (fr (.v 1) (.v 2) .none (.v 3) (.v 0) .f32 .rne false 0x0))] : List (IWord × Instr)).all (fun p => reads p.1 0 p.2) = true := by decide +kernel

theorem test_words_packed : ([
    (0x500077000100800030025C00#96, .hadd2 (fr (.v 1) (.v 2) .none (.v 3) (.v 0) .f16 .rz true 0x400)),
    (0x5080770001008000000F002A#96, .hadd2I (fi (.v 1) (.v 2) .none 0x3C00 .bf16 .ru)),
    (0x510077000100800030025C00#96, .hmul2 (fr (.v 1) (.v 2) .none (.v 3) (.v 0) .f16 .rz true 0x400)),
    (0x5180770001008000000F002A#96, .hmul2I (fi (.v 1) (.v 2) .none 0x3C00 .bf16 .ru)),
    (0x520077000100800030128000#96, .hfma2 (fr (.v 1) (.v 2) .none (.v 3) (.v 4) .bf16 .rne false 0x0)),
    (0x530077000100800030024000#96, .hmin2 (fr (.v 1) (.v 2) .none (.v 3) (.v 0) .f16 .rne false 0x0)),
    (0x5380770001008000000F0024#96, .hmin2I (fi (.v 1) (.v 2) .none 0x3C00 .f16 .rne)),
    (0x540077000100800030024000#96, .hmax2 (fr (.v 1) (.v 2) .none (.v 3) (.v 0) .f16 .rne false 0x0)),
    (0x5480770001008000000F0024#96, .hmax2I (fi (.v 1) (.v 2) .none 0x3C00 .f16 .rne)),
    (0x580077000100800000029008#96, .cvt (fr (.v 1) (.v 2) .none (.v 0) (.v 0) .bf16 .rz false 0x8)),
    (0x590077010100800000008008#96, .f2i (fr (.d 1) (.v 2) .none (.v 0) (.v 0) .i64 .rne false 0x8)),
    (0x5A0077000100800000020001#96, .i2f (fr (.v 1) (.v 2) .none (.v 0) (.v 0) .f32 .rne false 0x1)),
    (0x5B007700010080003012C801#96, .pack (fr (.v 1) (.v 2) .none (.v 3) (.v 4) .e4m3 .rne true 0x1)),
    (0x5C007700010080000001C003#96, .unpk (fr (.v 1) (.v 2) .none (.v 0) (.v 0) .n8 .rne false 0x3))] : List (IWord × Instr)).all (fun p => reads p.1 0 p.2) = true := by decide +kernel

theorem test_words_sfu : ([
    (0x600077000100800000020200#96, .rcp (fr (.v 1) (.v 2) .none (.v 0) (.v 0) .f32 .rne false 0x200)),
    (0x601077000100800000020200#96, .rsq (fr (.v 1) (.v 2) .none (.v 0) (.v 0) .f32 .rne false 0x200)),
    (0x602077000100800000020200#96, .sqrt (fr (.v 1) (.v 2) .none (.v 0) (.v 0) .f32 .rne false 0x200)),
    (0x603077000100800000020200#96, .ex2 (fr (.v 1) (.v 2) .none (.v 0) (.v 0) .f32 .rne false 0x200)),
    (0x604077000100800000020200#96, .lg2 (fr (.v 1) (.v 2) .none (.v 0) (.v 0) .f32 .rne false 0x200)),
    (0x605077000100800000020200#96, .sin (fr (.v 1) (.v 2) .none (.v 0) (.v 0) .f32 .rne false 0x200)),
    (0x606077000100800000020200#96, .cos (fr (.v 1) (.v 2) .none (.v 0) (.v 0) .f32 .rne false 0x200)),
    (0x607077000100800000020200#96, .tanh (fr (.v 1) (.v 2) .none (.v 0) (.v 0) .f32 .rne false 0x200))] : List (IWord × Instr)).all (fun p => reads p.1 0 p.2) = true := by decide +kernel

theorem test_words_quant : ([
    (0x70007700010080003003400A#96, .qscale (fr (.v 1) (.v 2) .none (.v 3) (.v 0) .q8 .rne false 0xA)),
    (0x710077000100800030138010#96, .qnt (fr (.v 1) (.v 2) .none (.v 3) (.v 4) .q4 .rne false 0x10)),
    (0x720077000100800030034000#96, .dqnt (fr (.v 1) (.v 2) .none (.v 3) (.v 0) .q8 .rne false 0x0))] : List (IWord × Instr)).all (fun p => reads p.1 0 p.2) = true := by decide +kernel

theorem test_words_move : ([
    (0x8000770001C2800000000000#96, .mov (fr (.v 1) (.p 2) .none (.v 0) (.v 0) .i32 .rne false 0x0)),
    (0x8100770001000037AB6FBBC0#96, .movi (fi (.v 1) (.v 0) .none 0xDEADBEEF .i32 .rne)),
    (0x820077010140914000000000#96, .movd (fr (.d 1) (.d 2) (.rotate 5) (.v 0) (.v 0) .i32 .rne false 0x0)),
    (0x830077000100800000000000#96, .rget (fr (.v 1) (.v 2) .none (.v 0) (.v 0) .i32 .rne false 0x0)),
    (0x840077000000800030000000#96, .rset (fr (.v 0) (.v 2) .none (.v 3) (.v 0) .i32 .rne false 0x0)),
    (0x8800770001C2800000000003#96, .vote (fr (.v 1) (.p 2) .none (.v 0) (.v 0) .i32 .rne false 0x3)),
    (0x890077000140800000000000#96, .matchv (fr (.v 1) (.d 2) .none (.v 0) (.v 0) .i32 .rne false 0x0)),
    (0x8A0077000100800000021000#96, .redux (fr (.v 1) (.v 2) .none (.v 0) (.v 0) .f32 .rz false 0x0)),
    (0x8B007700010080000000400D#96, .scan (fr (.v 1) (.v 2) .none (.v 0) (.v 0) .n32 .rne false 0xD)),
    (0x8C0077010140800000000000#96, .first (fr (.d 1) (.d 2) .none (.v 0) (.v 0) .i32 .rne false 0x0)),
    (0x8D0077000300800010000000#96, .perm (fr (.v 3) (.v 2) .none (.v 1) (.v 0) .i32 .rne false 0x0))] : List (IWord × Instr)).all (fun p => reads p.1 0 p.2) = true := by decide +kernel

theorem test_words_global : ([
    (0x900077000740917090000400#96, .ld .b8 (fm (.v 7) (.d 2) .die .acq 1 (.p 1) 0x40 .global)),
    (0x901077000740917090000400#96, .ld .b16 (fm (.v 7) (.d 2) .die .acq 1 (.p 1) 0x40 .global)),
    (0x902077000740917090000400#96, .ld .b32 (fm (.v 7) (.d 2) .die .acq 1 (.p 1) 0x40 .global)),
    (0x903077010740917090000400#96, .ld .b64 (fm (.d 7) (.d 2) .die .acq 1 (.p 1) 0x40 .global)),
    (0x904077017E40917090000400#96, .ld .b128 (fm (.d 126) (.d 2) .die .acq 1 (.p 1) 0x40 .global)),
    (0x908077000740917090000400#96, .ld .s8 (fm (.v 7) (.d 2) .die .acq 1 (.p 1) 0x40 .global)),
    (0x909077000740917090000400#96, .ld .s16 (fm (.v 7) (.d 2) .die .acq 1 (.p 1) 0x40 .global)),
    (0x910077030040AC007FFFFFC3#96, .st .b8 (fm .zero (.d 2) .system .sc 0 (.v 7) 0xFFFFFC .pod)),
    (0x911077030040AC007FFFFFC3#96, .st .b16 (fm .zero (.d 2) .system .sc 0 (.v 7) 0xFFFFFC .pod)),
    (0x912077030040AC007FFFFFC3#96, .st .b32 (fm .zero (.d 2) .system .sc 0 (.v 7) 0xFFFFFC .pod)),
    (0x913077030040AC107FFFFFC3#96, .st .b64 (fm .zero (.d 2) .system .sc 0 (.d 7) 0xFFFFFC .pod)),
    (0x914077030040AC17EFFFFFC3#96, .st .b128 (fm .zero (.d 2) .system .sc 0 (.d 126) 0xFFFFFC .pod)),
    (0x920077020100800030000001#96, .ldfrag (fm (.t 1) (.v 2) .team .weak 0 (.v 3) 0x0 .spad)),
    (0x9300770001008A2030000002#96, .stfrag (fm (.v 1) (.v 2) .cluster .rel 0 (.t 3) 0x0 .window)),
    (0x94007700074080B000000000#96, .pgreq (fm (.v 7) (.d 2) .team .weak 2 .zero 0x0 .global)),
    (0x950077000740803000000003#96, .pgprobe (fm (.v 7) (.d 2) .team .weak 0 .zero 0x0 .pod))] : List (IWord × Instr)).all (fun p => reads p.1 0 p.2) = true := by decide +kernel

theorem test_words_atomic : ([
    (0xA000770001409B0030000000#96, .atom .addN32 (fm (.v 1) (.d 2) .device .ar 0 (.v 3) 0x0 .global)),
    (0xA010770101409B1030000000#96, .atom .addN64 (fm (.d 1) (.d 2) .device .ar 0 (.d 3) 0x0 .global)),
    (0xA020770001409B0030000000#96, .atom .minI32 (fm (.v 1) (.d 2) .device .ar 0 (.v 3) 0x0 .global)),
    (0xA030770001409B0030000000#96, .atom .maxI32 (fm (.v 1) (.d 2) .device .ar 0 (.v 3) 0x0 .global)),
    (0xA040770001409B0030000000#96, .atom .minN32 (fm (.v 1) (.d 2) .device .ar 0 (.v 3) 0x0 .global)),
    (0xA050770001409B0030000000#96, .atom .maxN32 (fm (.v 1) (.d 2) .device .ar 0 (.v 3) 0x0 .global)),
    (0xA060770001409B0030000000#96, .atom .andB32 (fm (.v 1) (.d 2) .device .ar 0 (.v 3) 0x0 .global)),
    (0xA070770001409B0030000000#96, .atom .orB32 (fm (.v 1) (.d 2) .device .ar 0 (.v 3) 0x0 .global)),
    (0xA080770001409B0030000000#96, .atom .xorB32 (fm (.v 1) (.d 2) .device .ar 0 (.v 3) 0x0 .global)),
    (0xA090770001409B0030000000#96, .atom .exchB32 (fm (.v 1) (.d 2) .device .ar 0 (.v 3) 0x0 .global)),
    (0xA0A0770101409B1030000000#96, .atom .exchB64 (fm (.d 1) (.d 2) .device .ar 0 (.d 3) 0x0 .global)),
    (0xA0B0770001409B1030000000#96, .atom .casB32 (fm (.v 1) (.d 2) .device .ar 0 (.d 3) 0x0 .global)),
    (0xA0C0770101409B17E0000000#96, .atom .casB64 (fm (.d 1) (.d 2) .device .ar 0 (.d 126) 0x0 .global)),
    (0xA0D0770001409B0030000000#96, .atom .addF32 (fm (.v 1) (.d 2) .device .ar 0 (.v 3) 0x0 .global)),
    (0xA10077000100810030000001#96, .atoms .addN32 (fm (.v 1) (.v 2) .team .acq 0 (.v 3) 0x0 .spad)),
    (0xA1C0770101008117E0000001#96, .atoms .casB64 (fm (.d 1) (.v 2) .team .acq 0 (.d 126) 0x0 .spad)),
    (0xA20077030A40A20030000000#96, .red .addN32 (fm (.p 2) (.d 2) .pod .rel 0 (.v 3) 0x0 .global)),
    (0xA21077030A40A21030000000#96, .red .addN64 (fm (.p 2) (.d 2) .pod .rel 0 (.d 3) 0x0 .global)),
    (0xA28077030A40A20030000000#96, .red .xorB32 (fm (.p 2) (.d 2) .pod .rel 0 (.v 3) 0x0 .global)),
    (0xA2D077030A40A20030000000#96, .red .addF32 (fm (.p 2) (.d 2) .pod .rel 0 (.v 3) 0x0 .global)),
    (0xA300770300C02C3000000000#96, .fence (fm .zero .zero .system .sc 0 .zero 0x0 .global))] : List (IWord × Instr)).all (fun p => reads p.1 0 p.2) = true := by decide +kernel

theorem test_words_spad : ([
    (0xB020770007008030000000C1#96, .lds .b32 (fm (.v 7) (.v 2) .team .weak 0 .zero 0xC .spad)),
    (0xB22077000700803000000002#96, .ldw .b32 (fm (.v 7) (.v 2) .team .weak 0 .zero 0x0 .window)),
    (0xB04077017E008030000000C1#96, .lds .b128 (fm (.d 126) (.v 2) .team .weak 0 .zero 0xC .spad)),
    (0xB24077017E00803000000002#96, .ldw .b128 (fm (.d 126) (.v 2) .team .weak 0 .zero 0x0 .window)),
    (0xB090770007008030000000C1#96, .lds .s16 (fm (.v 7) (.v 2) .team .weak 0 .zero 0xC .spad)),
    (0xB29077000700803000000002#96, .ldw .s16 (fm (.v 7) (.v 2) .team .weak 0 .zero 0x0 .window)),
    (0xB100770300008000700000C1#96, .sts .b8 (fm .zero (.v 2) .team .weak 0 (.v 7) 0xC .spad)),
    (0xB30077030000800070000002#96, .stw .b8 (fm .zero (.v 2) .team .weak 0 (.v 7) 0x0 .window)),
    (0xB130770300008010700000C1#96, .sts .b64 (fm .zero (.v 2) .team .weak 0 (.d 7) 0xC .spad)),
    (0xB33077030000801070000002#96, .stw .b64 (fm .zero (.v 2) .team .weak 0 (.d 7) 0x0 .window)),
    (0xB40077000140803000000000#96, .stagl (fr (.v 1) (.d 2) .none .zero (.v 0) .i32 .rne false 0x0)),
    (0xB50077010140800030000000#96, .stagi (fr (.d 1) (.d 2) .none (.v 3) (.v 0) .i32 .rne false 0x0)),
    (0xB60077000140803000000000#96, .stagx (fr (.v 1) (.d 2) .none .zero (.v 0) .i32 .rne false 0x0)),
    (0xB70077000100800030000001#96, .swopen (fr (.v 1) (.v 2) .none (.v 3) (.v 0) .i32 .rne false 0x1)),
    (0xB80077030900800000000000#96, .swclaim (fr (.p 1) (.v 2) .none (.v 0) (.v 0) .i32 .rne false 0x0)),
    (0xB90077030900800000000000#96, .swrel (fr (.p 1) (.v 2) .none (.v 0) (.v 0) .i32 .rne false 0x0)),
    (0xBA0077000140801034100000#96, .smove (fr (.v 1) (.d 2) .none (.d 3) (.d 4) .i32 .rne false 0x0))] : List (IWord × Instr)).all (fun p => reads p.1 0 p.2) = true := by decide +kernel

theorem test_words_barrier : ([
    (0xC00077030000800030000001#96, .barinit (fr .zero (.v 2) .none (.v 3) (.v 0) .i32 .rne false 0x1)),
    (0xC00077030000803000000002#96, .barinitFree (fr .zero (.v 2) .none .zero (.v 0) .i32 .rne false 0x2)),
    (0xC10077000100800000000002#96, .bararr (fr (.v 1) (.v 2) .none (.v 0) (.v 0) .i32 .rne false 0x2)),
    (0xC20077030000800030000001#96, .barexp (fr .zero (.v 2) .none (.v 3) (.v 0) .i32 .rne false 0x1)),
    (0xC30077030000800030000001#96, .barwait (fr .zero (.v 2) .none (.v 3) (.v 0) .i32 .rne false 0x1)),
    (0xC40077030900800030000000#96, .bartest (fr (.p 1) (.v 2) .none (.v 3) (.v 0) .i32 .rne false 0x0)),
    (0xC500770001C7C00000000000#96, .csign (fr (.v 1) (.c 7) .none (.v 0) (.v 0) .i32 .rne false 0x0)),
    (0xC500770001C6000030100001#96, .csignDecl (fr (.v 1) (.c 0) .none (.v 3) (.v 4) .i32 .rne false 0x1)),
    (0xC600770000C6C00030000000#96, .cwait (fr (.v 0) (.c 3) .none (.v 3) (.v 0) .i32 .rne false 0x0)),
    (0xC70077000000000000000080#96, .reggrow (fr (.v 0) (.v 0) .none (.v 0) (.v 0) .i32 .rne false 0x80)),
    (0xC80077000000000000000040#96, .regshrink (fr (.v 0) (.v 0) .none (.v 0) (.v 0) .i32 .rne false 0x40)),
    (0xC90077000140800030000000#96, .launch (fr (.v 1) (.d 2) .none (.v 3) (.v 0) .i32 .rne false 0x0)),
    (0xCA0077010100000000000800#96, .srd (fi (.d 1) (.v 0) .none 0x20 .i32 .rne)),
    (0xCB0077000000400000000840#96, .swr (fi (.v 0) (.v 1) .none 0x21 .i32 .rne))] : List (IWord × Instr)).all (fun p => reads p.1 0 p.2) = true := by decide +kernel

theorem test_words_matrix : ([
    (0xD0007702228000201002870F#96, .mma (fr (.a 2) (.t 0) .none (.t 1) (.v 0) .bf16 .rne false 0x70F)),
    (0xD10077023F81C02010A38309#96, .mmaq (fr (.a 31) (.t 7) .none (.t 1) (.v 40) .q4 .rne false 0x309)),
    (0xD200770222804000A02F4002#96, .mxout (fr (.a 2) (.t 1) .none (.v 10) (.v 11) .q8 .rne false 0x2)),
    (0xD30077022500000000000000#96, .mzero (fr (.a 5) (.v 0) .none (.v 0) (.v 0) .i32 .rne false 0x0)),
    (0xD40077022500400020020000#96, .mlda (fr (.a 5) (.v 1) .none (.v 2) (.v 0) .f32 .rne false 0x0)),
    (0xD50077020189400000029E01#96, .mrda (fr (.t 1) (.a 5) .none (.v 0) (.v 0) .bf16 .rz true 0x601)),
    (0xD60077022580400000020003#96, .mwra (fr (.a 5) (.t 1) .none (.v 0) (.v 0) .f32 .rne false 0x3)),
    (0xD700770309404000288ECC01#96, .mdrain (fr (.p 1) (.d 1) .none (.v 2) (.a 3) .e4m3 .rne true 0x401)),
    (0xD71077030000400F888E8002#96, .mdrainTq (fr .zero (.v 1) .none (.v 248) (.a 3) .bf16 .rne false 0x2))] : List (IWord × Instr)).all (fun p => reads p.1 0 p.2) = true := by decide +kernel

theorem test_words_engine : ([
    (0xE20077000140800030000000#96, .tchain (fr (.v 1) (.d 2) .none (.v 3) (.v 0) .i32 .rne false 0x0)),
    (0xE30077000100000030000002#96, .tcancel (fr (.v 1) (.v 0) .none (.v 3) (.v 0) .i32 .rne false 0x2)),
    (0xE40077010100000030000001#96, .tstat (fr (.d 1) (.v 0) .none (.v 3) (.v 0) .i32 .rne false 0x1)),
    (0xE50077000140800000000000#96, .coll (fr (.v 1) (.d 2) .none (.v 0) (.v 0) .i32 .rne false 0x0)),
    (0xE70077000140800040000000#96, .fpost (fr (.v 1) (.d 2) .none (.v 4) (.v 0) .i32 .rne false 0x0)),
    (0xE80077010100800000000001#96, .flogpop (fr (.d 1) (.v 2) .none (.v 0) (.v 0) .i32 .rne false 0x1)),
    (0xE90077000140A20070000000#96, .stm .b8 (fm (.v 1) (.d 2) .pod .rel 0 (.v 7) 0x0 .global)),
    (0xE94077000140A217E0000000#96, .stm .b128 (fm (.v 1) (.d 2) .pod .rel 0 (.d 126) 0x0 .global)),
    (0xEA0077000140A14030000000#96, .ldx .addF32 (fm (.v 1) (.d 2) .pod .acq 1 (.v 3) 0x0 .global)),
    (0xEA1077000140A14030000000#96, .ldx .maxF32 (fm (.v 1) (.d 2) .pod .acq 1 (.v 3) 0x0 .global)),
    (0xEA2077000140A14030000000#96, .ldx .minF32 (fm (.v 1) (.d 2) .pod .acq 1 (.v 3) 0x0 .global)),
    (0xEA3077000140A14030000000#96, .ldx .addI32 (fm (.v 1) (.d 2) .pod .acq 1 (.v 3) 0x0 .global)),
    (0xEA4077000140A14030000000#96, .ldx .addBf16x2 (fm (.v 1) (.d 2) .pod .acq 1 (.v 3) 0x0 .global))] : List (IWord × Instr)).all (fun p => reads p.1 0 p.2) = true := by decide +kernel

theorem test_words_cache : ([
    (0xF0007703004080B000000000#96, .prefetch (fm .zero (.d 2) .team .weak 2 .zero 0x0 .global)),
    (0xF10077030040A83000000000#96, .cflush (fm .zero (.d 2) .system .weak 0 .zero 0x0 .global)),
    (0xF20077030040983000000003#96, .cinval (fm .zero (.d 2) .device .weak 0 .zero 0x0 .pod)),
    (0xF30077000140800030000000#96, .pvfl (fm (.v 1) (.d 2) .team .weak 0 (.v 3) 0x0 .global)),
    (0xF40077030040800030000000#96, .woclr (fm .zero (.d 2) .team .weak 0 (.v 3) 0x0 .global))] : List (IWord × Instr)).all (fun p => reads p.1 0 p.2) = true := by decide +kernel

/-- A record, packed as Table 12.1 has it. -/
def shape0 : Shape := {
  mark := 0x0, swz := 0x3, bar := 0x10, dst := 0x2000, org3 := 0x0, org2 := 0x0, org1 := 0x15, org0 := 0x14,
  box3 := 0x0, box2 := 0x0, box1 := 0x3F, box0 := 0x3F, stride3 := 0x0, extent3 := 0x0, stride2 := 0x0,
  extent2 := 0x0, stride1 := 0x2000, extent1 := 0x1000, extent0 := 0x1000, rank := 0x1, dtype := 0xA, base := 0x20000000000 }

theorem test_words_records : ([
    (0xE00077010A0000000000000D#96, .tcopy ⟨fr (.d 10) (.v 0) .none (.v 0) (.v 0) .i32 .rne false 0xD, shape0⟩),
    (0xE10077030000000090000003#96, .tgather ⟨fr .zero (.v 0) .none (.v 9) (.v 0) .i32 .rne false 0x3, shape0⟩),
    (0xE60077010A01000050000005#96, .fsend ⟨fr (.d 10) (.v 4) .none (.v 5) (.v 0) .i32 .rne false 0x5, shape0⟩)] : List (IWord × Instr)).all (fun p => reads p.1 0x00000300100200000001514000000FC3F000000000000000000000000000000000200001000010005400020000000000#384 p.2) = true := by decide +kernel

/-- OP 0x0C is unassigned; FN 1 of IADD; FN 5 of LD; SCOPE 6; ORD 5; ASP 5; an address register of the wrong view; TY f32 of IADD; PERM on SA of view 3 (Table 6.15). -/
theorem test_words_illegal : ([
    0x0C0077000000000000000000#96,
    0x101077000400800030000000#96,
    0x905077000740803090000000#96,
    0x902077000740B03090000000#96,
    0x902077000740853090000000#96,
    0x902077000740803090000005#96,
    0x902077000700803090000000#96,
    0x100077000400800030020000#96,
    0x1000770004C008C030000000#96] : List IWord).all (fun w => refuses w 0 .illegalOp) = true := by decide +kernel

/-- SET 6; PG 7 with PN; PERM pattern 5; q 5 of a butterfly; d128; view 2 index 8; view 3 index 1; TY 15; MOD of IADD; SC of IADD; RM of IADD; SLOT 5 of BRA; IMM32[27] of BRA; DST of NOP (Table 6.15). -/
theorem test_words_reserved : ([
    0x100076000400800030000000#96,
    0x10007F000400800030000000#96,
    0x100077000400A80030000000#96,
    0x100077000400894030000000#96,
    0x100077000460000000000000#96,
    0xD00077022282000000000000#96,
    0x100077000400803010000000#96,
    0x10007700040080003003C000#96,
    0x100077000400800030000001#96,
    0x100077000400800030040000#96,
    0x100077000400800030001000#96,
    0x010077000000000000000140#96,
    0x010077000000000200000000#96,
    0x000077000100000000000000#96] : List IWord).all (fun w => refuses w 0 .reservedBits) = true := by decide +kernel

/-! ### Terms that are not well-formed, one for each check -/

/-- None of the terms is well-formed. -/
def refused (l : List Instr) : Bool := l.all fun i => !i.WellFormed

/-- IADD v4, v2, v3. -/
def add0 : FmtR := fr (.v 4) (.v 2) .none (.v 3) (.v 0) .i32 .rne false 0
/-- IADD_I v4, v2, 17. -/
def addI0 : FmtI := fi (.v 4) (.v 2) .none 17 .i32 .rne
/-- LD.b32 v7, [d2]. -/
def ld0 : FmtM := fm (.v 7) (.d 2) .team .weak 0 .zero 0 .global
/-- TCOPY d10. -/
def copy0 : FmtX := ⟨fr (.d 10) (.v 0) .none (.v 0) (.v 0) .i32 .rne false 0, shape0⟩

theorem test_wf_base : [Instr.iadd add0, .iaddI addI0, .ld .b32 ld0, .tcopy copy0].all (fun i => i.WellFormed) = true := by
  decide +kernel

theorem test_wf_sched : refused [
    .iadd { add0 with sched := { sched0 with set := 6 } },
    .iadd { add0 with sched := { sched0 with pn := true } },
    .iaddI { addI0 with sched := { sched0 with set := 6 } },
    .ld .b32 { ld0 with sched := { sched0 with set := 6 } }] = true := by decide +kernel

theorem test_wf_unused : refused [
    .nop { fr (.v 0) (.v 0) .none (.v 0) (.v 0) .i32 .rne false 0 with dst := .v 1 },
    .nop { fr (.v 0) (.v 0) .none (.v 0) (.v 0) .i32 .rne false 0 with sa := .v 1 },
    .iabs add0, .iadd { add0 with sc := .v 1 },
    .nop (fr (.v 0) (.v 0) .none (.v 0) (.v 0) .n32 .rne false 0), .iadd { add0 with rm := .rz }, .imulh { add0 with sat := true },
    .movi { addI0 with dst := .v 1 }, .bra (fi (.v 1) (.v 0) .none 3 .i32 .rne), .iaddI { addI0 with rm := .rz },
    .movi (fi (.v 1) (.v 0) .none 3 .n32 .rne)] = true := by decide +kernel

theorem test_wf_perm : refused [
    .brx (fr (.v 0) (.d 3) (.rotate 1) (.v 0) (.v 0) .i32 .rne false 0), .iadd { add0 with sa := .zero, perm := .reverse },
    .iaddI { addI0 with sa := .zero, perm := .reverse }, .movi (fi (.v 1) (.v 0) .reverse 3 .i32 .rne)] = true := by
  decide +kernel

theorem test_wf_mod : refused [
    .iadd { add0 with mod := 1 }, .isetp { add0 with dst := .p 1, mod := 6 * 32 }, .fsetp { add0 with dst := .p 1, ty := .f32, mod := 14 * 32 },
    .redux (fr (.v 1) (.v 2) .none (.v 0) (.v 0) .i32 .rne false 6), .cvt (fr (.v 1) (.v 2) .none (.v 0) (.v 0) .i32 .rz false 0),
    .pack (fr (.v 1) (.v 2) .none (.v 3) (.v 4) .f16 .rne false 0), .mma (fr (.a 2) (.t 0) .none (.t 1) (.v 0) .bf16 .rne false 0x600),
    .qscale (fr (.v 1) (.v 2) .none (.v 0) (.v 0) .q8 .rne false 5), .tcancel (fr (.v 1) (.v 0) .none (.v 3) (.v 0) .i32 .rne false 3),
    .barinitFree (fr .zero (.v 2) .none .zero (.v 0) .i32 .rne false 0), .csignDecl (fr (.v 1) (.c 0) .none (.v 3) (.v 4) .i32 .rne false 0),
    .reggrow (fr (.v 0) (.v 0) .none (.v 0) (.v 0) .i32 .rne false 0), .reggrow (fr (.v 0) (.v 0) .none (.v 0) (.v 0) .i32 .rne false 12),
    .regshrink (fr (.v 0) (.v 0) .none (.v 0) (.v 0) .i32 .rne false 264), .mwra (fr (.a 5) (.t 1) .none (.v 0) (.v 0) .f32 .rne false 0x200),
    .mrda (fr (.t 1) (.a 5) .none (.v 0) (.v 0) .bf16 .rne false 2),
    .region (fr (.v 0) (.v 4) .none (.v 9) (.v 20) .i32 .rne false 33)] = true := by decide +kernel

theorem test_wf_imm : refused [
    .bra (fi (.v 0) (.v 0) .none 5 .i32 .rne), .bra (fi (.v 0) (.v 0) .none 0x08000000 .i32 .rne),
    .trapSvc (fi (.v 0) (.d 8) .none 0x10000 .i32 .rne), .srd (fi (.v 1) (.v 0) .none 0x1000 .i32 .rne),
    .srd (fi (.v 1) (.v 0) .none 5 .i32 .rne), .srd (fi (.v 1) (.v 0) .none 0x20 .i32 .rne),
    .swr (fi (.v 0) (.v 1) .none 0x20 .i32 .rne)] = true := by decide +kernel

theorem test_wf_view : refused [
    .iadd { add0 with dst := .d 1 }, .iadd { add0 with sb := .p 1 }, .iadd { add0 with ty := .i64 }, .iadd { add0 with ty := .f32 },
    .isel { add0 with sc := .v 1 }, .hsetp2 { add0 with dst := .p 1, ty := .f16 }, .trapSvc (fi (.v 0) (.d 125) .none 0 .i32 .rne),
    .mmaq (fr (.a 2) (.t 0) .none (.t 1) (.v 253) .q4 .rne false 0), .mmaq (fr (.a 2) (.t 0) .none (.t 1) (.v 40) .q4 .rne false 0x10),
    .mxout (fr (.a 2) (.t 1) .none (.v 253) (.v 0) .f32 .rne false 0), .mdrainTq (fr .zero (.v 1) .none (.v 249) (.a 3) .f32 .rne false 0),
    .sleept (fr (.v 0) (.d 4) .none (.v 6) .zero .i32 .rne false 0), .first (fr (.d 1) (.v 2) .none (.v 0) (.v 0) .i32 .rne false 0),
    .qscale (fr (.v 1) (.v 2) .none (.v 0) (.v 0) .q8 .rne false 3), .redux (fr (.v 1) (.v 2) .none (.v 0) (.v 0) .i32 .rne false 3)] = true := by
  decide +kernel

theorem test_wf_memory : refused [
    .ld .b32 { ld0 with sa := .v 2 }, .ld .b128 { ld0 with dst := .d 127 }, .ld .b32 { ld0 with asp := .spad, sa := .v 2 },
    .ld .b64 { ld0 with dst := .d 1, asp := .acc, sa := .v 2 }, .ld .b32 { ld0 with ord := .rel }, .ld .b32 { ld0 with sb := .v 1 },
    .pgreq (fm (.v 7) (.d 2) .cluster .weak 0 .zero 0 .global), .pgreq (fm (.v 7) (.d 2) .team .weak 3 .zero 0 .global),
    .cflush (fm .zero (.d 2) .team .acq 0 .zero 0 .global), .lds .b32 (fm (.v 7) (.v 2) .team .weak 1 .zero 0 .spad),
    .red .exchB32 (fm (.p 1) (.d 2) .team .rel 0 (.v 3) 0 .global), .fence (fm .zero .zero .team .weak 0 .zero 0 .global),
    .fence (fm .zero .zero .team .sc 0 .zero 4 .global)] = true := by decide +kernel

theorem test_wf_record : refused [
    .tcopy { copy0 with shape := { shape0 with swz := 4 } }, .tcopy { copy0 with shape := { shape0 with dtype := 15 } },
    .tcopy { copy0 with shape := { shape0 with mark := 1 } }, .tcopy { copy0 with shape := { shape0 with mark := 2 } },
    .tcopy { copy0 with shape := { shape0 with mark := 4 } }, .tcopy { copy0 with shape := { shape0 with mark := 8, extent2 := 256 } },
    .tcopy { copy0 with shape := { shape0 with mark := 16, extent3 := 256 } }, .tcopy { copy0 with shape := { shape0 with mark := 32 } },
    .tcopy { copy0 with shape := { shape0 with mark := 64 } }, .tcopy { copy0 with shape := { shape0 with mark := 128, bar := 0xFFFF } },
    .tcopy { copy0 with shape := { shape0 with mark := 1, base := 3 } }, .tcopy { copy0 with shape := { shape0 with mark := 32, stride1 := 3 } }] = true := by
  decide +kernel

/-! ### A small state: one team on core 0 with its instruction in the issue latch -/

open Sys2Proof.Machine

/-- The issue latch: group 0 of the placed team, lanes 0 and 31. -/
def cur0 : Cur := {
  team := progTeam.id, group := 0, core := 0, pc := 0x200000, next := 0x200001, issued := 0x80000001, line := 0x200000, first := false }

/-- The module with a line of NOPs placed and nothing on the agenda. -/
def base : State := { State.reset.placeProgram 96 0x000077000000000000000000 with agenda := [], cur := some cur0, gtc := 1000 }

/-- That module with one team. -/
def st (t : Team) : State := { base with teams := [t] }

/-- What an instruction with guard p7 finds in a state. -/
def ixIn (s : State) (t : Team) : Ix := { s := s, cur := cur0, t := t, g := t.group 0, active := 0x80000001 }

/-- The same where the team is the only one. -/
def ix (t : Team) : Ix := ixIn (st t) t

/-- The placed team with values in registers of lanes 0 and 31 of its group 0. -/
def tm (l : List (Nat × Nat)) : Team := progTeam.modGroup 0 fun g => { g with
  regs := l.foldl (fun m p => smSet 0 (smSet 0 m p.1 (BitVec.ofNat 32 p.2)) (7936 + p.1) (BitVec.ofNat 32 p.2)) [] }

/-- The operands of an instruction pass their checks. -/
def passes (x : Ix) (o : Opds) : Bool := x.operandTrap (x.sources o) (x.t.desc.regsOf o.dst) = none

/-- Sources named outright, and a destination, pass their checks. -/
def names (x : Ix) (src : List Nat) (dst : Opd) : Bool := x.operandTrap (x.own src) (x.t.desc.regsOf dst) = none

/-- Sources, the first through PERM, and a destination pass their checks. -/
def namesVia (x : Ix) (p : Perm) (a src : List Nat) (dst : Opd) : Bool := x.operandTrap (x.via p a ++ x.own src) (x.t.desc.regsOf dst) = none

/-- The state of an outcome. -/
def nextOf (o : Host.Outcome State Fault Refusal) : State := match o with | .next t => t | .fault _ => base | .refused _ => base

/-- An outcome is a next state. -/
def goesOn (o : Host.Outcome State Fault Refusal) : Bool := match o with | .next _ => true | .fault _ => false | .refused _ => false

theorem goesOn_next {o : Host.Outcome State Fault Refusal} (h : goesOn o = true) : o = .next (nextOf o) := by
  cases o with
  | next t => rfl
  | fault _ => exact absurd h (by simp [goesOn])
  | refused _ => exact absurd h (by simp [goesOn])

theorem reads_decode {w : IWord} {r : Record} {i : Instr} (h : reads w r i = true) : decode w r = .ok i := by
  unfold reads at h
  split at h
  · next j hj => simp_all
  · exact absurd h (by simp)
/-! ### Premises that hold together, 1: the machine, encodings, register instructions

Each theorem gives a concrete state and operands that meet the premises of the statement it is named after. -/

/-- The placed machine with its instruction first on the agenda. -/
def startState : State := State.reset.placeProgram 96 0x000077000000000000000000

/-- The state after the fetch of the placed line. -/
def fetched : State :=
  match ({ startState with agenda := [] } : State).fetchLine 0 0 0x200000 with | .line _ u => u | .fail _ u => u

theorem witness_StepRunsDecoded :
    let w : IWord := 0x000077000000000000000000
    let l := progLine w 0
    let v := fetched.modGroup progTeam.id 0 fun g => g.waited (Sched.ofWord w)
    let i := Instr.nop (fr (.v 0) (.v 0) .none (.v 0) (.v 0) .i32 .rne false 0)
    let g := progTeam.group 0
    (startState.agenda = [.issue progTeam.id 0] ∧ startState.hub.power = .p0 ∧
      ({ startState with agenda := [] } : State).team? progTeam.id = some progTeam ∧ progTeam.core? = some 0 ∧
      progTeam.groupFree 0 true = true ∧ g.run.isSome = true ∧
      ({ startState with agenda := [] } : State).fetchLine 0 0 0x200000 = .line l fetched ∧ fetched.lineCause 0 0 0x200000 l = none ∧
      l.pair 0 = false ∧ l.isData 0 = false ∧ lineLets g l (g.minPc g.readyMask) = true ∧ lineRoom g l (g.minPc g.readyMask) = true ∧ waitCause g l (g.minPc g.readyMask) = none ∧
      isFormatX (slotOp w) = false) ∧
    reads w 0 i = true ∧ i.WellFormed = true ∧
    goesOn (exec i { v with cur := some { cur0 with issued := 0xFFFFFFFF } }) = true ∧
    Power.lets .p0 (Instr.eventKind .sliceBoundary) = true ∧
    goesOn (exec .sliceBoundary ({ base with agenda := [] } : State).clearHeld) = true := by
  decide +kernel

theorem witness_ResetAndTeamStart : 0 < progDesc.groupCount ∧ 31 < 32 ∧ 262 < 263 ∧ 7 < 8 := by decide +kernel

theorem witness_EveryStepSettles : step startState = .next (nextOf (step startState)) := goesOn_next (by decide +kernel)

/-- The module with one line in a bank. -/
def withLine : State := base.putLine {
  lci := 0, line := 96, data := List.replicate 128 7, lexp := 0, lv := false, wpod := 0, wfw := false, owner := none, dirty := 0,
  pois := 0, wr := false, cls := .rc, arec := none, cbusy := 0 }

theorem witness_LineWritesReadBack :
    let full := fun (n : Nat) => (withLine.bankOf 0 (n / 128 * 128)).any withLine.bankFull
    let line := fun (n : Nat) => withLine.lineFor 0 (n / 128) .rc
    [12415, 8191].all (fun n => decide (n % 128 + [9#8].length ≤ 128) && !withLine.hole n && (line n).data.length == 128 &&
        (line n).cls == .rc) = true ∧
      (withLine.bankLine? 0 (12415 / 128)).isSome = true ∧ (withLine.bankLine? 0 (8191 / 128)).isSome = false ∧ full 8191 = false ∧
      (withLine.modHub fun h => { h with retiredChannels := [mpaDie 8191 * 64 + mpaChannel 8191] }).hole 8191 = true ∧
      (12288 % 128 + 127 ≤ 128 ∧ 12288 + 127 ≤ 12415) := by decide +kernel

theorem witness_DecodeOfEncode :
    let i := Instr.tcopy ⟨fr (.d 10) (.v 0) .none (.v 0) (.v 0) .i32 .rne false 0xD, shape0⟩
    i.WellFormed = true ∧ (encode i).isSome = true := by decide +kernel

theorem witness_EncodeOfDecode :
    decode 0x10007700040088C030004800#96 0 = .ok (.iadd (fr (.v 4) (.v 2) (.butterfly 3) (.v 3) (.v 0) .n32 .rne true 0)) :=
  reads_decode (by decide +kernel)

theorem witness_CommonFieldsAndGuard :
    let i := Instr.iadd { fr (.v 4) (.v 2) (.butterfly 3) (.v 3) (.v 0) .n32 .rne true 0 with
      sched := { stall := 15, fin := true, pg := 0, pn := true, set := 5, wait := 0x21 } }
    decode 0x100F8D84040088C030004800#96 0 = .ok i ∧ (31 : Nat) < 32 := ⟨reads_decode (by decide +kernel), by decide⟩

theorem witness_NarrowingWrapsOrClamps :
    let table : List (Ty × Nat × Int × Int) := [(.i8, 8, -128, 127), (.n8, 8, 0, 255), (.i16, 16, -32768, 32767),
      (.n16, 16, 0, 65535), (.i32, 32, -2 ^ 31, 2 ^ 31 - 1), (.n32, 32, 0, 2 ^ 32 - 1), (.i64, 64, -2 ^ 63, 2 ^ 63 - 1),
      (.n64, 64, 0, 2 ^ 64 - 1)]
    table.all fun r => (r.2.2.1 == imin r.1) && (r.2.2.2 == imax r.1) && (r.2.1 == ibits r.1) &&
      iread r.1 (iwrite r.1 true (r.2.2.2 + 1)) == r.2.2.2 && iread r.1 (iwrite r.1 false (r.2.2.2 + 1)) == r.2.2.1 := by
  decide +kernel

theorem witness_BitFunctions : (1 : Word) ≠ 0 := by decide

/-- A format-R instruction whose destination and sources are the last registers. -/
def last : FmtR := fr (.v 255) (.v 254) (.rotate 7) (.d 127) (.p 6) .i32 .rne false 0
/-- A format-I instruction of that kind. -/
def lastI : FmtI := fi (.d 127) (.v 255) .reverse 0xFFFFFFFF .i32 .rne
/-- Destinations that keep nothing. -/
def lost : FmtR := fr .zero (.p 7) .none .zero .zero .i32 .rne false 0x403

/-- The premises of every statement that says `Computes` or `ComputesSr`, for every number of operands. -/
theorem witness_Computes : Latched (st (tm [])) last.sched (ix (tm [])) ∧
    [opsR0 last, opsR1 last, opsR2 last, opsR3 last, opsI0 lastI, opsI1 lastI, opsR1 lost, opsR2 lost, opsR3 lost].all
      (passes (ix (tm []))) = true ∧
    [0, 1, 2, 3].all (fun k => modField (BitVec.ofNat 11 k) 0 2 == k) = true := by unfold Latched; decide +kernel

theorem witness_PredicatePairsAndPerm :
    let x := ix (tm [(7, 31)])
    let h := fr (.p 6) (.v 254) .none (.v 255) .zero .f16 .rne false 3
    let v := fr .zero (.v 254) .none .zero .zero .i32 .rne false 127
    let p := fr (.v 255) (.v 8) .reverse (.v 7) .zero .i32 .rne false 0
    Latched (st (tm [(7, 31)])) h.sched x ∧ passes x (opsR2 h) = true ∧
      passes x (opsI1 (fi (.p 4) (.v 1) .none 5 .bf16 .rne)) = true ∧ x.operandTrap (x.sources (opsR1 v)) [] = none ∧
      x.operandTrap (((x.t.desc.regsOf p.sa).map fun n => (n, maskOf ((lanesOf x.cur.issued).map fun l => p.perm.from (x.rd l p.sb % 32)))) ++
        x.own (x.t.desc.regsOf p.sb)) (x.t.desc.regsOf p.dst) = none := by unfold Latched; decide +kernel

theorem witness_ComputedRegisterAccess :
    let f := fr (.v 1) (.v 2) .none (.v 3) .zero .i32 .rne false 0
    let clauses := fun (v : Nat) =>
      let x := ix (tm [(2, v)])
      let adr := fun (l : Nat) => (x.args (opsR1 f) l).a
      Latched (st (tm [(2, v)])) f.sched x ∧ passes x (opsR1 f) = true ∧ x.operandTrap (x.sources (opsR2 f)) [] = none ∧
        x.regSpaceTrap adr = none ∧ x.computedTrap adr false = none ∧ x.computedTrap adr true = none ∧
        (x.active &&& maskWhere fun l =>
          decide (0x10000 ≤ adr l) && smGet false x.t.accPoison ((adr l - 0x10000) / 4)) = 0
    clauses 0 ∧ clauses 1020 ∧ clauses 0x10000 ∧ clauses 0x1FFFC := by
  unfold Latched; decide +kernel

theorem witness_QuantisationInstructions :
    let f := fr (.v 1) (.v 2) .none (.v 3) (.v 4) .q4 .rne false 8
    let x := ix (tm [(4, 0xFFFFFFFF)])
    let y := ix (tm [(4, 0)])
    let ops := if modBit f.mod 3 then opsR2 f else opsR1 f
    Latched (st (tm [(4, 0xFFFFFFFF)])) f.sched x ∧ Latched (st (tm [(4, 0)])) f.sched y ∧ x.active ≠ 0 ∧
      x.operandTrap (x.sources ops) (x.t.desc.regsOf f.dst) = none ∧
      x.operandTrap (x.sources (opsR2 f) ++ x.own (x.t.desc.regsFrom f.sc 2)) (x.t.desc.regsOf f.dst) = none ∧
      y.operandTrap (y.sources (opsR2 f) ++ y.own (y.t.desc.regsFrom f.sc 2)) (y.t.desc.regsOf f.dst) = none ∧
      x.regsNat x.low (x.t.desc.regsFrom f.sc 2) % 2 ^ 32 = 0xFFFFFFFF ∧
      y.t.listCause (y.regsNat y.low (y.t.desc.regsFrom f.sc 2) % 2 ^ 32) = none ∧
      x.operandTrap (((x.t.desc.regsOf f.sa).map fun n => (n, dqntLanes f x.cur.issued)) ++ x.own (x.t.desc.regsOf f.sb))
        (x.t.desc.regsOf f.dst) = none := by unfold Latched; decide +kernel
/-! ### Premises that hold together, 2: control, scratchpad, barriers -/

theorem witness_LanesAdvanceWaitAndEnd :
    let f := fr .zero (.d 1) .none (.v 4) (.v 5) .i32 .rne false 0x108
    let x := ix (tm [(2, 1001), (4, 16)])
    let y := ix { tm [(2, 0), (4, 16)] with bars := [16] }
    Latched x.s f.sched x ∧ Latched y.s f.sched y ∧ x.active ≠ 0 ∧ x.beyond (x.regionRegs f) = none ∧ x.boundary true = none ∧
      namesVia x f.perm (x.t.desc.regsOf f.sa) (x.t.desc.regsOf f.sb ++ x.t.desc.regsOf f.sc) .zero = true ∧
      namesVia y f.perm (y.t.desc.regsOf f.sa) (y.t.desc.regsOf f.sb ++ y.t.desc.regsOf f.sc) .zero = true ∧
      (y.t.barCause (y.rd y.low f.sb) = none ∧ f.sb ≠ .zero) ∧ x.s.gtc < x.rdVia f.perm x.low f.sa ∧ y.rdVia f.perm y.low f.sa ≤ y.s.gtc := by
  unfold Latched; decide +kernel

theorem witness_TransfersMoveLanes :
    let f := fr (.d 2) (.d 1) .none .zero .zero .i32 .rne false 0
    let g := fi (.d 127) .zero .none 0 .i32 .rne
    let x := ix (tm [(2, 0x200000)])
    Latched x.s f.sched x ∧ names x (x.regsOpt (some f.sa)) f.dst = true ∧ names x (x.regsOpt none) g.dst = true ∧
      (checkTargets x.s x.cur.core x.t.id.lci (fun l => x.rd l f.sa) (lanesOf x.active)).1 = [] ∧
      (checkTargets x.s x.cur.core x.t.id.lci (fun _ => x.relTarget g.imm) (lanesOf x.active)).1 = [] := by
  unfold Latched; decide +kernel

/-- The placed team with a tag partition. -/
def tmTag (l : List (Nat × Nat)) : Team := { tm l with desc := { progDesc with tags := 8 } }

theorem witness_TagAndWindowInstructions :
    let f := fr (.p 0) (.d 1) .none (.v 4) .zero .i32 .rne false 0
    let o := fr (.v 1) (.v 2) .none (.v 4) .zero .i32 .rne false 0
    let x := ix (tmTag [(2, 5), (4, 7)])
    let y := ix (tm [(2, 3968), (4, 1)])
    let z := ix (tm [(2, 3969), (4, 0)])
    let c := fr (.p 0) (.v 2) .none .zero .zero .i32 .rne false 0
    let wins := fun (w : Window) => ix { tm [(2, 3999)] with windows := [(31, w)] }
    (Latched x.s f.sched x ∧ x.active ≠ 0 ∧ x.t.tagCount ≠ 0 ∧ passes x (opsR2 f) = true) ∧
      (Latched y.s o.sched y ∧ namesVia y o.perm (y.t.desc.regsOf o.sa) (y.t.desc.regsOf o.sb) o.dst = true ∧
        (y.rdVia o.perm y.low o.sa + 128 * y.rd y.low o.sb ≤ y.t.spadSize ∧ y.rdVia o.perm y.low o.sa % 128 = 0) ∧ y.awaitRel .cluster = none) ∧
      (Latched z.s o.sched z ∧ z.rd z.low o.sb = 0 ∧ z.awaitRel .cluster = none) ∧
      [(wins ⟨true, false, 0⟩), (wins ⟨true, true, 0⟩), (wins ⟨false, false, 0⟩), (wins ⟨true, true, 1⟩)].all (fun (w : Ix) =>
        w.s.latched c.sched == some w && w.operandTrap (w.via c.perm (w.t.desc.regsOf c.sa)) [] == none && w.t.desc.regsOf c.dst == [] &&
          w.s.spadAt w.t true (w.rdVia c.perm w.low c.sa) 1 == some (w.t, 3999) && w.s.readsDone w.t.id w.cur.group &&
          w.awaitRel .cluster == none) = true := by
  unfold Latched; decide +kernel

theorem witness_ScratchpadLoadsAndStores :
    let f := fm (.v 1) (.v 2) .team .weak 0 (.v 4) 0 .spad
    let w := fm (.v 1) (.v 2) .team .weak 0 (.v 4) 0 .window
    let g := fm (.d 10) (.v 2) .team .weak 0 (.v 4) 0 .spad
    let x := ix (tm [(2, 4088)])
    let y := ix { tm [(2, 4088)] with windows := [(31, ⟨true, true, 0⟩)] }
    let z := ix (tm [(2, 0), (4, 64)])
    let q := ix (tm [(2, 0), (20, 64)])
    let frag := fm (.v 20) (.v 2) .team .weak 0 (.v 4) 0 .spad
    let stfr := fm (.v 20) (.v 2) .team .weak 0 (.v 32) 0 .spad
    let ready := fun (x : Ix) (f : FmtM) (sync st : Bool) (al : Nat) (l : List SpadReq) =>
      x.active ≠ 0 ∧ x.awaitOrd f.ord (spadScope f.scope) (sync || f.ord != .weak) = none ∧
        x.spadTrap (f.asp == .window) st al l = none ∧ x.spadFoot (f.asp == .window) st l = none
    (Latched x.s f.sched x ∧ names x (x.t.desc.regsOf f.sa) g.dst = true ∧ ready x f false false 8 (x.laneReqs f 8) ∧
      names x (x.t.desc.regsOf f.sa ++ x.t.desc.stRegs .b64 (.d 3)) .zero = true ∧ ready x f false true 8 (x.laneReqs f 8)) ∧
      (Latched y.s w.sched y ∧ ready y w false false 8 (y.laneReqs w 8) ∧ ready y w false true 8 (y.laneReqs w 8)) ∧
      (Latched z.s frag.sched z ∧ names z (z.t.desc.regsOf frag.sa ++ z.t.desc.regsOf frag.sb) frag.dst = true ∧
        z.fragAlign (z.ea frag z.low) (z.rd z.low frag.sb) = none ∧
        ready z frag false false 16 (z.fragRows (z.ea frag z.low) (z.rd z.low frag.sb))) ∧
      (Latched q.s stfr.sched q ∧ names q (q.t.desc.regsOf stfr.sa ++ q.t.desc.regsOf stfr.dst ++ q.t.desc.regsOf stfr.sb) .zero = true ∧
        q.fragAlign (q.ea stfr q.low) (q.rd q.low stfr.dst) = none ∧
        ready q stfr false true 16 (q.fragRows (q.ea stfr q.low) (q.rd q.low stfr.dst))) := by
  unfold Latched; decide +kernel

theorem witness_ScratchpadStoreFrame :
    let x := ix (tm [])
    x.s.spadAt x.t false 4095 [1#8].length = some (x.t, 4095) ∧ x.s.team? x.t.id = some x.t := by decide +kernel

theorem witness_ScratchpadAtomics :
    let f := fm (.v 1) (.v 2) .team .weak 0 (.v 4) 0 .spad
    let x := ix (tm [(2, 4092)])
    Latched x.s f.sched x ∧ (x.active ≠ 0 ∧ x.awaitOrd f.ord (spadScope f.scope) true = none ∧
        x.spadTrap false true 4 (x.laneReqs f 4) = none ∧ x.spadFoot false true (x.laneReqs f 4) = none) ∧
      names x (x.t.desc.regsOf f.sa ++ x.t.desc.atomRegs .addN32 f.sb) f.dst = true ∧
      names x (x.t.desc.regsOf f.sa ++ x.t.desc.atomRegs .addN32 f.sb) .zero = true ∧ f.asp = .spad := by
  unfold Latched; decide +kernel

theorem witness_BarrierUpdateRule :
    let o := 2 * 2 ^ 8 + 2 * 2 ^ 19
    o < 2 ^ 128 ∧ barPending o < 3 ∧ (¬ (barOvf o = true ∨ barPending o < 2 ∨ ¬ countFits (barIn o) = true ∨ ¬ countFits (barOut o) = true)) ∧
      barPending o = 2 ∧ barPending o ≠ 1 := by decide +kernel

theorem witness_BarrierInstructions :
    let f := fr (.v 1) (.v 2) .none (.v 4) .zero .i32 .rne false 0
    let p := fr (.v 1) (.v 2) .none (.v 4) .zero .i32 .rne false 1
    let bar := fun (l : List (Nat × Nat)) => ({ tm l with bars := [4080], windows := [(31, ⟨true, false, 0⟩)] }.putBar 4080 (barInitial 0 2 true false))
    let x := ix (bar [(2, 4080), (4, 2047)])
    let n := ix (tm [(2, 4080), (4, 1)])
    let y := ix (bar [(2, 4080), (4, 32)])
    let own := fun (x : Ix) => x.active ≠ 0 ∧ namesVia x f.perm (x.t.desc.regsOf f.sa) (x.t.desc.regsOf f.sb) f.dst = true ∧ x.awaitRel .cluster = none
    (Latched x.s f.sched x ∧ own x ∧ x.rdVia f.perm x.low f.sa < x.t.spadSize ∧ x.rdVia f.perm x.low f.sa % 16 = 0 ∧ x.rd x.low f.sb < 2048 ∧
      x.t.bars.contains 4080 = true ∧ x.t.barCause 4080 = none ∧ barSleep (x.t.bar 4080) = false ∧ barOvf (x.t.bar 4080) = false) ∧
      (Latched n.s f.sched n ∧ own n ∧ n.t.bars.length < n.t.desc.bars) ∧
      (Latched y.s f.sched y ∧ own y ∧ y.rd y.low f.sb % 16 = 0 ∧ modBit f.mod 0 = false ∧ y.t.barCause 4080 = none ∧
        (y.s.barUpdate y.t.id 4080 (lanesOf y.active).length 2 0).2.isSome = true) ∧
      (Latched y.s p.sched y ∧ modBit p.mod 0 = true ∧ y.s.spadCheck y.t true false 4080 16 16 = none ∧
        y.s.spadAt y.t true 4080 16 = some (y.t, 4080) ∧ y.t.bars.contains 4080 = true) := by
  unfold Latched; decide +kernel

theorem witness_ConvergenceInstructions :
    let f := fr (.v 1) (.c 7) .none (.v 4) (.v 5) .i32 .rne false 0
    let x := ix (tm [(4, 1), (5, 1)])
    let k := convNum f.sa
    let c := x.t.convReg k
    let signed := x.t.setConv k (c.sign x.cur.group (x.t.countable c x.cur.group x.active))
    Latched x.s f.sched x ∧ x.active ≠ 0 ∧ names x [] f.dst = true ∧ x.awaitRel .team = none ∧
      (x.withState ((x.s.setTeam signed).evalPhase x.t.id x.cur.core k)).t.desc = x.t.desc ∧
      names x (x.t.desc.regsOf f.sb ++ x.t.desc.regsOf f.sc) f.dst = true ∧
      (x.withState ((x.s.completePhase x.t.id x.cur.core k).modTeam x.t.id fun t =>
        t.setConv k { t.convReg k with gmask := BitVec.ofNat 32 (x.rd x.low f.sb), lmask := BitVec.ofNat 32 (x.rd x.low f.sc) })).t.desc =
        x.t.desc ∧
      names x (x.t.desc.regsOf f.sb) .zero = true := by
  unfold Latched; decide +kernel

theorem witness_RegisterAndSpecialInstructions :
    let f := fr .zero .zero .none .zero .zero .i32 .rne false 256
    let s := fr .zero .zero .none .zero .zero .i32 .rne false 8
    let g := fi (.v 1) (.v 2) .none 0 .i32 .rne
    let h := fun (n : Nat) => fi .zero (.d 1) .none (BitVec.ofNat 32 n) .i32 .rne
    let x := ix (tm [])
    let y := ix ((tm []).modGroup 0 fun g => { g with alloc := 8 })
    let asked := { y.g with grow := some 256 }
    x.active ≠ 0 ∧ Latched x.s f.sched x ∧ Latched y.s f.sched y ∧ modField f.mod 0 9 ≤ x.g.alloc ∧
      (y.g.alloc < modField f.mod 0 9 ∧ modField f.mod 0 9 ≤ 256 ∧ (y.t.setGroup y.cur.group asked).rowDemand ≤ 512) ∧
      x.g.alloc ≤ modField f.mod 0 9 ∧ modField s.mod 0 9 < x.g.alloc ∧ names x [] g.dst = true ∧
      [0x21, 0x22, 0x30].all (fun n => x.operandTrap (x.via (h n).perm (x.t.desc.regsOf (h n).sa)) [] == none && Accept.srNum (h n).imm == n) = true := by
  unfold Latched; decide +kernel
/-! ### Premises that hold together, 3: memory -/

/-- The context and the lanes of a passed check. -/
def okPart (r : Checked) : Option (Ix × List LaneX) := match r with | .ok y l => some (y, l) | .stop _ => none

/-- A check passes with lanes that meet a condition. -/
theorem okPart_ok {r : Checked} {p : Ix → List LaneX → Bool} (h : (okPart r).any (fun q => p q.1 q.2) = true) :
    ∃ y l, r = .ok y l ∧ p y l = true := by
  cases r with
  | ok y l => exact ⟨y, l, rfl, by simpa [okPart] using h⟩
  | stop s => simp [okPart] at h

theorem witness_LoadsAndStoresIssue :
    let x := ix (tm [(2, 0x3FFFFFF8)])
    let f := fun (o : Ord) => fm (.d 3) (.d 1) .device o 0 (.d 4) 0 .global
    let fits := fun (o : Ord) => Latched x.s (f o).sched x ∧ x.active ≠ 0 ∧ (f o).asp ≠ .acc ∧
      x.awaitOrd o .device (o != .weak) = none ∧ names x (x.t.desc.regsOf (f o).sa) (.d 3) = true ∧
      names x (x.t.desc.regsOf (f o).sa ++ x.t.desc.stRegs .b64 (f o).sb) .zero = true
    (fits .weak ∧ fits .acq ∧ fits .rel ∧ fits .sc) ∧
      (∃ y l, x.memCheck (f .weak) 8 .read (badOrd .weak) = .ok y l ∧ (!anySc l || y.awaitSc .device == none) = true) ∧
      (∃ y l, x.memCheck (f .acq) 8 .read (badOrd .acq) = .ok y l ∧ (!anySc l || y.awaitSc .device == none) = true) ∧
      ∃ y l, x.memCheck (f .rel) 8 .write (badOrd .rel) = .ok y l ∧ (!anySc l || y.awaitSc .device == none) = true := by
  refine ⟨by unfold Latched; decide +kernel, okPart_ok ?_, okPart_ok ?_, okPart_ok ?_⟩ <;> decide +kernel

theorem witness_AccumulatorSpace :
    let x := ix (tm [(2, 65532)])
    let f := fm (.v 1) (.v 2) .team .weak 0 .zero 0 .acc
    let g := fm .zero (.v 2) .team .weak 0 (.v 4) 0 .acc
    Latched x.s f.sched x ∧ x.active ≠ 0 ∧ x.accTrap f = none ∧ x.accTrap g = none ∧ names x (x.t.desc.regsOf f.sa) f.dst = true ∧
      f.dst ≠ f.sb ∧ x.t.desc.regsOf f.sb = [] ∧ names x (x.t.desc.regsOf g.sa ++ x.t.desc.stRegs .b32 g.sb) .zero = true ∧
      x.t.desc.regsOf g.dst = [] := by unfold Latched; decide +kernel

theorem witness_GlobalAtomicsIssue :
    let x := ix (tm [(2, 0x3FFFFFFC)])
    let f := fm (.v 3) (.d 1) .device .weak 0 (.v 4) 0 .global
    (Latched x.s f.sched x ∧ x.active ≠ 0 ∧ x.awaitOrd f.ord f.scope true = none ∧
        names x (x.t.desc.regsOf f.sa ++ x.t.desc.atomRegs .addN32 f.sb) f.dst = true ∧
        names x (x.t.desc.regsOf f.sa ++ x.t.desc.atomRegs .addN32 f.sb) .zero = true ∧ f.asp ≠ .spad ∧ f.asp ≠ .window) ∧
      ∃ y l, x.memCheck f 4 .atomic (fun c => badOrd f.ord c || c == .wo) = .ok y l ∧
        (!anySc l || y.awaitSc f.scope == none) = true := by
  refine ⟨by unfold Latched; decide +kernel, okPart_ok ?_⟩; decide +kernel

theorem witness_FencePasses :
    let x := ix (tm [])
    let f := fun o => fm .zero .zero .device o 0 .zero 0 .global
    [Ord.acq, .rel, .ar, .sc].all (fun o => decide (x.s.latched (f o).sched = some x) && x.active != 0 &&
      x.boundary (o != .acq) == none && (o == .acq || x.s.relDone x.t.id x.cur.group Scope.device.code.toNat x.g.ord.pend)) = true := by
  decide +kernel

theorem witness_PageInstructions :
    let x := ix (tm [(2, 0x3FFFFFFF)])
    let y := ix (tm [(2, 0x40000000)])
    let f := fm (.v 3) (.d 1) .team .weak 0 .zero 0 .global
    let g := fm (.v 3) (.d 1) .team .weak 0 .zero (-3) .global
    let at_ := fun (x : Ix) => (lanesOf x.active).map fun l => (l, (x.ea f l).toNat)
    (Latched x.s f.sched x ∧ x.active ≠ 0 ∧ names x (x.t.desc.regsOf f.sa) f.dst = true ∧ x.rangeTrap g 4 = none ∧
        x.rangeTrap f 1 = none ∧ failedTrap (x.s.xlateWalks x.cur.core x.t.id.lci (isPodM f) (pgKind f.ch) (at_ x)).1 = none ∧
        (x.s.xlateWalks x.cur.core x.t.id.lci (isPodM f) (pgKind f.ch) (at_ x)).1.all (fun z => match z.out with | .here _ _ => true | _ => false)
          = true) ∧
      Latched y.s f.sched y ∧ y.rangeTrap f 1 = none := by unfold Latched; decide +kernel

/-- The module with the placed chip's memory mapped by another leaf. -/
def leafed (e : Nat) (c : Chip → Chip) (t : Team) : State :=
  { st t with mem := smWrite memDefault base.mem progTable (natLe 8 e), chips := [(0, c progChip)] }

/-- A page that is not resident and may be asked for, where the queue for stage-2 requests is on. -/
theorem witness_PageInstructions_asks :
    let t := tm [(2, 0x1000)]
    let f := fm (.v 3) (.d 1) .team .weak 0 .zero 0 .global
    let q : Prq := { Prq.init with size := 6 }
    let s := { leafed 0x3B2 (fun c => { c with prq := q }) t with
      hub := { base.hub with hypPrq := [(0, q)] } }
    let x := ixIn s t
    let walk := x.s.xlateWalks x.cur.core x.t.id.lci (isPodM f) (pgKind f.ch) ((lanesOf x.active).map fun l => (l, (x.ea f l).toNat))
    Latched x.s f.sched x ∧ x.rangeTrap f 1 = none ∧ failedTrap walk.1 = none ∧
      walk.1.all (fun z => match z.out with
        | .nonres kind a _ => ((x.withState walk.2).s.prqOf ((x.withState walk.2).s.pageVf x.t.id.lci kind a)
            (if kind = 0 then 0 else 1)).enabled
        | _ => false) = true := by
  unfold Latched; decide +kernel

theorem witness_CacheMaintenance :
    let x := ix (tm [(2, 0x300000), (4, 8192)])
    let f := fm (.v 3) (.d 1) .system .weak 0 (.d 2) 0 .global
    let r := x.s.xlateLanes x.cur.core x.t.id.lci (isPodM f) .read ((lanesOf x.active).map fun l => (l, (x.ea f l).toNat))
    (Latched x.s f.sched x ∧ x.active ≠ 0 ∧ names x (x.t.desc.regsOf f.sa) .zero = true ∧ x.rangeTrap f 1 = none ∧
        failedTrap r.1 = none ∧ names x (x.t.desc.regsOf f.sa ++ x.t.desc.regsOf f.sb) f.dst = true) ∧
      ∃ v l, x.rangeCheck f (fun _ => false) = .ok v l ∧ (l != []) = true := by
  refine ⟨by unfold Latched; decide +kernel, okPart_ok ?_⟩; decide +kernel

theorem witness_CacheMaintenance_written :
    let t := tm [(2, 0x300000), (4, 8192)]
    let x := ixIn (leafed 0x7EA id t) t
    let f := fm (.v 3) (.d 1) .system .weak 0 (.d 2) 0 .global
    Latched x.s f.sched x ∧ names x (x.t.desc.regsOf f.sa ++ x.t.desc.regsOf f.sb) f.dst = true ∧
      ∃ v l, x.rangeCheck f (fun c => c != .wo) = .ok v l ∧ (l != []) = true := by
  refine ⟨by unfold Latched; decide +kernel, by decide +kernel, okPart_ok ?_⟩; decide +kernel

/-! ### Premises that hold together, 4: sets of chips, moves, launches, tiles -/

/-- A place-table word: valid, of a kind, with a target (Table 1.10). -/
def placeWord (kind target : Nat) : Word := BitVec.ofNat 32 (2 ^ 31 + kind * 2 ^ 29 + target)

/-- The placed chip with multicast set 1 of itself alone, core 5 of its place table at core 1, and chip 3 at chip 0. -/
def chip4 : Chip := { progChip with mcast := [(1, 1)], places := [(5, placeWord 0 1), (2067, placeWord 2 0)] }

/-- The module with that chip. -/
def st4 (t : Team) : State := { st t with chips := [(0, chip4)] }

theorem witness_MulticastIssues :
    let t := tm [(2, 0x300000), (4, 1)]
    let x := ixIn (st4 t) t
    let f := fm (.v 4) (.d 1) .pod .weak 0 (.v 5) 0 .global
    let g := fm (.v 6) (.d 1) .pod .weak 0 (.v 4) 0 .global
    let mem := chip4.multicast 1
    let at_ := fun k => x.freshWalks f k
    let one := fun k => (lanesOf x.active).map fun l =>
      ({ lane := l, ea := (x.ea f l).toNat, out := (at_ k).s.stageOne (dieOf x.cur.core) x.t.id.lci (x.ea f l).toNat k } : LaneX)
    let per := fun k => mem.zipIdx.map fun p => (p.2, p.1, (one k).map ((at_ k).atMember k p.1))
    let pv := fun (c : Cls) => c == .pv
    Latched x.s f.sched x ∧ x.active ≠ 0 ∧ x.awaitOrd f.ord f.scope (f.ord != .weak) = none ∧
      names x (x.t.desc.regsOf f.sa ++ x.t.desc.stRegs .b32 f.sb ++ x.t.desc.regsOf f.dst) f.dst = true ∧
      names x (x.t.desc.regsOf g.sa ++ x.t.desc.regsOf g.sb) g.dst = true ∧ x.rd x.low f.dst % 256 = 1 ∧ mem ≠ [] ∧
      [AccKind.read, .write].all (fun k => x.rangeTrap f 4 == none && failedTrap (one k) == none && classTrap (one k) pv == none &&
        classTrap ((per k).flatMap fun p => p.2.2) pv == none && (at_ k).footTrap (k == .write) 4 (fun l => (x.ea f l).toNat) == none &&
        !anySc (one k)) = true := by unfold Latched; decide +kernel

theorem witness_SmoveAndLaunchPost :
    let t := tm [(2, 3968), (3, 0xFFFFFFFF), (4, 0), (5, 0xFFFFFFFF), (6, 1), (7, 1 * 4096 + 5), (10, 0x300000), (12, 3)]
    let x := ixIn (st4 t) t
    let f := fr (.v 8) (.d 1) .none (.d 2) (.d 3) .i32 .rne false 0
    let g := fr (.v 8) (.d 5) .none (.v 12) .zero .i32 .rne false 0
    (Latched x.s f.sched x ∧ x.active ≠ 0 ∧
        names x (x.t.desc.regsOf f.sa ++ x.t.desc.regsOf f.sb ++ x.t.desc.regsOf f.sc) f.dst = true ∧
        x.smoveTrap (x.rd x.low f.sa) (x.rd x.low f.sb) (x.rd x.low f.sc) = none) ∧
      (namesVia x g.perm (x.t.desc.regsOf g.sa) (x.t.desc.regsOf g.sb) g.dst = true ∧ x.boundary true = none ∧ x.awaitRel .device = none) ∧
      ∃ y l, x.launchCheck (x.rdVia g.perm x.low g.sa) = .ok y l ∧ (l != []) = true := by
  refine ⟨by unfold Latched; decide +kernel, by decide +kernel, okPart_ok ?_⟩; decide +kernel

/-- A second team on core 1. -/
def team2 : Team := { tm [] with id := { lci := 0, handle := 1, index := 1 }, place := .resident 1 0, bars := [64] }

theorem witness_SmoveEvents :
    let m : Smove := {
      id := 7, src := progTeam.id, group := 0, dst := team2.id, core := 1, a := 0, b := 3968, len := 1, sbar := none, rbar := some 64,
      accepted := false, ctr := none, stDst := .v 8, active := 1 }
    let b : BarUpd := { id := 8, team := team2.id, ofs := 64, n := 1, u := 0, sender := progTeam.id, sgroup := 0 }
    let s := fun (m : Smove) =>
      { base with teams := [tm [], team2], traffic := { base.traffic with smoves := [m], barUpds := [b] } }
    ((s m).smove? 7 = some m ∧ (s m).smoveAnswer m = 0) ∧
      ((s { m with len := 2 }).smove? 7 = some { m with len := 2 } ∧ (s { m with len := 2 }).smoveAnswer { m with len := 2 } ≠ 0) ∧
      ((s { m with accepted := true }).smove? 7 = some { m with accepted := true } ∧
        (s { m with accepted := true }).team? m.src = some (tm []) ∧ (tm []).spadBad m.a 128 = false ∧
        m.bytes = [] ∧ m.marks = [] ∧ m.landed = 0 ∧ 0 < m.len ∧ m.got + 1 ≤ m.len ∧
        (let got := { m with accepted := true, bytes := (tm []).spadRead m.a 128 }
         let read := ((s { m with accepted := true }).putSmove got).countAt m.src m.sbar 0 (-8)
         read.smove? 7 = some got ∧ (read.putSmove { got with landed := m.len }).team? m.dst = some team2)) ∧
      ((s m).traffic.barUpds.find? (fun k => k.id == 8) = some b ∧
        (∀ v ∈ (s m).traffic.barUpds, v.team = b.team → v.sender = b.sender → v.sgroup = b.sgroup → b.id ≤ v.id) ∧
        (s m).team? b.team = some team2 ∧ team2.bars.contains b.ofs = true) := by decide +kernel

theorem witness_MatrixContributions :
    let f := fr (.a 3) (.t 0) .none (.t 1) (.v 40) .q4 .rne false 0x709
    let c : Contrib := { group := 0, quant := true, f := f, pc := 0, guard := 1, sets := [], dones := [] }
    let x := ix (tm [])
    let y := ix { tm [] with conv := [(1, { (tm []).convReg 1 with contribs := [c] })] }
    let z := ix { tm [] with conv := [(1, { (tm []).convReg 1 with gmask := 0 })] }
    let regs := fun (q : Bool) => x.t.desc.regsOf f.sa ++ x.t.desc.regsOf f.sb ++ (if q then x.t.desc.regsFrom f.sc 4 else [])
    [x, y, z].all (fun x => x.s.latched f.sched == some x && x.tileTrap f.dst == none &&
        [true, false].all fun q => x.nameTrap ((regs q).map fun n => (n, 0xFFFFFFFF)) [] == none) = true ∧
      ((x.t.convReg 1).contribs.find? (fun d => d.group == 0) = none ∧ x.t.countable (x.t.convReg 1) 0 x.active ≠ 0) ∧
      (z.t.convReg 1).contribs = [] ∧ z.t.countable (z.t.convReg 1) 0 z.active = 0 ∧
      (y.t.convReg 1).contribs.find? (fun d => d.group == 0) = some c ∧ c.quant = true ∧ sameFields c.f f = true := by
  decide +kernel

/-- The placed team with 64 KiB of scratchpad. -/
def tmBig (l : List (Nat × Nat)) : Team := { tm l with spadSize := 65536, desc := { progDesc with spad := 64 } }

theorem witness_TileOperationsPost :
    let x := ix (tmBig [(2, 49152), (4, 256), (20, 64), (21, 0), (22, 64), (23, 0)])
    let m := fr (.a 3) (.v 2) .none (.v 4) .zero .f32 .rne false 0
    let w := fr (.a 0) (.v 100) .none .zero .zero .f32 .rne false 0
    let o := fr (.a 0) (.t 1) .none (.v 20) (.v 40) .q4 .rne false 0
    let r := fr (.v 100) (.a 3) .none .zero .zero .f32 .rne false 0
    let d := x.t.desc
    let ofs := x.rd x.low m.sa
    let pitch := x.rd x.low m.sb
    let rows := (List.range 64).map fun k => (ofs + k * pitch, 256)
    let par := fun (k : Nat) => x.reg x.low ((d.regsFrom o.sb 4).getD k 0)
    let entries := (List.range (par 2)).map fun j => (par 0 + 8 + 8 * (par 1 + j), 8)
    (Latched x.s m.sched x ∧ x.active ≠ 0 ∧ x.tableFull = false) ∧
      (x.tileTrap m.dst = none ∧ x.nameTrap [] [] = none ∧ x.nameTrap (x.own (d.regsOf m.sa ++ d.regsOf m.sb)) [] = none ∧
        x.t.runOut rows = none ∧ ofs % 16 = 0 ∧ pitch % 16 = 0 ∧ 64 * elBytes m.ty ≤ pitch ∧ x.t.runCause false rows = none) ∧
      (x.tileTrap w.dst = none ∧ x.nameTrap (x.own (d.regsOf w.sa)) [] = none) ∧
      (x.nameTrap (((mxoutRegs d o).map fun n => (n, 0xFFFFFFFF)) ++ x.own (d.regsFrom o.sb 4)) [] = none ∧
        x.t.listCause (par 0) = none ∧ 0 < par 2 ∧ par 2 ≤ 64 ∧ x.t.runOut entries = none ∧ x.t.runCause false entries = none) ∧
      (x.tileTrap r.sa = none ∧ x.nameTrap [] (d.regsOf r.dst) = none) := by unfold Latched; decide +kernel

/-- The state and flags of a passed drain check. -/
def drainPart (r : DrainCheck) : Option (Ix × Bool × Bool) := match r with | .ok y a b _ => some (y, a, b) | .stop _ => none

theorem drainPart_ok {r : DrainCheck} {p : Ix → Bool → Bool → Bool} (h : (drainPart r).any (fun q => p q.1 q.2.1 q.2.2) = true) :
    ∃ y a b l, r = .ok y a b l ∧ p y a b = true := by
  cases r with
  | ok y a b l => exact ⟨y, a, b, l, rfl, by simpa [drainPart] using h⟩
  | stop s => simp [drainPart] at h

/-- What a drain checks before its destination. -/
def drainReady (f : FmtR) (tq : Bool) (x : Ix) : Bool :=
  let gl := modBit f.mod 0
  let pars := x.t.desc.regsFrom f.sb (if tq then 8 else 1)
  let par := fun (k : Nat) => x.reg x.low (pars.getD k 0)
  let runs := drainRuns f tq (x.rd x.low f.sa) par
  x.s.latched f.sched == some x && x.active != 0 && x.tileTrap f.sc == none && x.nameTrap (x.own (x.t.desc.regsOf f.sa ++ pars)) [] == none &&
    (!gl || runs.all fun r => decide (r.1 + r.2 ≤ 2 ^ 57)) && (gl || x.t.runOut runs == none) &&
    drainOdd f tq (x.rd x.low f.sa) par == none && (!(tq && modBit f.mod 6) || x.t.listCause (par 4) == none) &&
    (drainPart (x.drainReach gl runs)).any fun q => q.1.tableFull == false && (!q.2.1 || q.1.awaitSc .device == none)

theorem witness_DrainsPost :
    drainReady (fr (.p 0) (.v 2) .none (.v 4) (.a 3) .f32 .rne false 0) false (ix (tmBig [(2, 49152), (4, 256)])) = true ∧
      drainReady (fr (.p 0) (.d 1) .none (.v 4) (.a 3) .f32 .rne false 1) false (ix (tmBig [(2, 0x300000), (4, 256)])) = true ∧
      drainReady (fr (.p 0) (.v 2) .none (.v 8) (.a 0) .q4 .rne false 0x0) true
        (ix (tmBig [(2, 0), (8, 64), (9, 8192), (10, 64), (11, 16384)])) = true := by decide +kernel

theorem witness_MatrixEvents :
    let r : MxReq := {
      id := 5, team := progTeam.id, group := 0, passes := [], op := some (.mzero 0), ctr := none, pc := 0, prio := 0, age := 0, frags := [],
      acc := none }
    let d : Drain := { id := 6, acc := 9, team := progTeam.id, group := 0, isGlobal := false, writes := [(0, [1], false)] }
    let s := fun (k : Cluster) => { st (tm []) with clusters := [(0, k)] }
    let k : Cluster := { table := [r], postbuf := [], granted := none, grants := 0, drains := [d] }
    ((s k).cluster 0).granted = none ∧ (s k).pickReq ((s k).cluster 0) = some r ∧ (s k).team? r.team = some (tm []) ∧
      ((s { k with table := [], granted := some { r with op := none } }).cluster 0).granted = some { r with op := none } ∧
      (s k).clusters.findSome? (fun c => (c.2.drains.find? fun d => d.id == 6).map fun d => (c.1, d)) = some (0, d) ∧
      d.isGlobal = false := by decide +kernel
/-! ### Premises that hold together, 5: traps, engines, messages -/

theorem witness_TrapEntry :
    let f := fi .zero .zero .none 0xFFFF .i32 .rne
    let x := ix { tm [] with desc := { progDesc with trapv := 0x200000 } }
    let y := ix (tm [])
    let d := { st (tm []) with chips := [(0, { progChip with dbg := { progChip.dbg with holder := some .pf } })] }
    let ok := fun (c : Nat) => match (x.s.trace x.cur.core x.t x.cur.group 1 c x.cur.pc.toNat).checkTarget x.cur.core x.t.id.lci
        x.t.desc.trapv.toNat with | .ok _ => true | .bad _ _ _ => false
    (Latched x.s f.sched x ∧ x.active ≠ 0 ∧ x.t.desc.trapv ≠ 0 ∧ x.g.trap.handler = false ∧ ok Cause.svc = true ∧ ok Cause.bkpt = true ∧
        x.s.attached x.t.id.lci = false) ∧
      (Latched y.s f.sched y ∧ ¬ (y.t.desc.trapv ≠ 0 ∧ y.g.trap.handler = false)) ∧
      (Latched d f.sched (ixIn d (tm [])) ∧ d.attached 0 = true) ∧
      (let g := { (tm []).group 0 with trap := { handler := true, tcause := 4, tpc := 0, tlanes := 1, taddr := 0, tpcWritten := false } };
        g.trap.handler = true ∧ g.issuedMask.getLsbD 0 = true) := by unfold Latched; decide +kernel

theorem witness_ServiceCallAndReturn :
    let svc : SvcRing := { SvcRing.init with qbase := 0x300000, qsize := 4 }
    let t := tm [(16, 7)]
    let one := { cur0 with issued := 0x80000000 }
    let s := { st t with chips := [(0, { progChip with svc := svc })], cur := some one }
    let f := fi .zero (.d 8) .none 0x101 .i32 .rne
    let x : Ix := { s := s, cur := one, t := t, g := t.group 0, active := 0x80000000 }
    let u := x.put (x.advance ((x.g.bump (setCtr f.sched)).due (setCtr f.sched)))
    let r := fr .zero .zero .none .zero .zero .i32 .rne false 0
    let h := fun (w : Bool) => (tm []).modGroup 0 fun g => { g with
      trap := { handler := true, tcause := 4, tpc := 0x200000, tlanes := 1, taddr := 0, tpcWritten := w } }
    (Latched x.s f.sched x ∧ x.active ≠ 0 ∧ names x (x.t.desc.regsFrom f.sa 4) .zero = true ∧ x.s.chip? 0 = some { progChip with svc := svc } ∧
        svc.reqOn = true ∧
        ((lanesOf x.active).foldl (x.postLane (f.imm.toNat % 65536) (dNum f.sa)) (u, x.s.svcClear x.t.id.lci, [])).2.2 = []) ∧
      [true, false].all (fun w => let z := ix (h w)
        z.s.latched r.sched == some z && z.g.trap.handler && z.g.trap.tpcWritten == w &&
          (match z.s.checkTarget 0 0 (z.rttTarget (modBit r.mod 0)) with | .ok _ => true | .bad _ _ _ => !w)) = true := by
  unfold Latched; decide +kernel

theorem witness_NamesBeyondAllocationTrap :
    let f := fr (.v 8) (.v 1) .none (.v 2) (.v 3) .i32 .rne false 0
    let x := ix ((tm []).modGroup 0 fun g => { g with alloc := 8 })
    let named := fun (o : Opds) => x.t.desc.regsOf o.dst ++ (x.sources o).map (·.1)
    Latched x.s f.sched x ∧ x.beyond (named (opsR1 f)) = some 8 ∧ x.beyond (named (opsR2 f)) = some 8 ∧
      x.beyond (named (opsR3 f)) = some 8 := by unfold Latched; decide +kernel

/-- A record of rank 2 whose boxes are single rows. -/
def shapeG : Shape := { shape0 with rank := 1, box1 := 0, bar := 0xFFFFFFFF }

theorem witness_EngineInstructionsPost :
    let t := { tmBig [(2, 3 + 4096), (4, 63)] with bars := [256] }
    let x := ixIn (st4 t) t
    let f : FmtX := ⟨fr (.v 1) (.v 2) .none (.v 4) .zero .i32 .rne false 0, shape0⟩
    let g : FmtX := ⟨fr (.v 1) (.v 2) .none (.v 4) .zero .i32 .rne false 1, shapeG⟩
    let box := fun (sh : Shape) (span : Bool) (p : Box → Bool) => match x.resolve sh span with | .inr b => p b | .inl _ => false
    let fence := fun (kind : JobKind) (b : Box) (out : Bool) => x.awaitRel (if x.planFar
      { kind := kind, dir := if out then 1 else 0, box := b, rows := 64, prio := 0, arr := false } then .pod else .device) == none
    (Latched x.s f.r.sched x ∧ Latched x.s g.r.sched x ∧ x.active ≠ 0 ∧ names x (x.regsX f) f.r.dst = true ∧ names x (x.regsX g) g.r.dst = true ∧
        x.s.queued (dieOf x.cur.core) (coreChan x.cur.core) < 16 ∧ x.boundary true = none ∧ x.awaitRel .pod = none) ∧
      box shape0 true (fun b => x.boxTrap b b.rowCount true == none && fence .copy b false) = true ∧
      box shapeG false (fun b => gatherBad b (x.indices g.r.sb) == none && x.boxTrap b (x.indices g.r.sb).length false == none &&
        fence (.gather (x.indices g.r.sb)) b true) = true ∧
      (match x.sendPlace (x.rd x.low f.r.sa) with | .inr _ => true | .inl _ => false) = true ∧
      box shape0 true (fun b => x.boxTrap b b.rowCount false == none && decide (b.rowCount * b.rowBytes ≤ 2 ^ 26)) = true := by
  unfold Latched; decide +kernel

theorem witness_ChannelInstructions :
    let x := ix (tm [(2, 0x300080), (3, 0), (4, 0)])
    let f := fr (.v 1) (.d 1) .none (.v 4) .zero .i32 .rne false 0
    Latched x.s f.sched x ∧ x.active ≠ 0 ∧ names x (x.t.desc.regsOf f.sa ++ x.t.desc.regsOf f.sb) f.dst = true ∧ x.chanOf f.sb = .inr 0 ∧
      x.chanOf .zero = .inr 0 ∧ x.rd x.low f.sa % 128 = 0 ∧ x.boundary true = none ∧ x.awaitRel .device = none := by
  unfold Latched; decide +kernel

/-- A collective's card: two members, of which this is the first, 32 elements, one barrier. -/
def card0 : Nat := 1 + 2 * 2 ^ 40 + 32 * 2 ^ 256 + 4096 * 2 ^ 288 + 2 ^ 472

/-- The bytes of a read. -/
def readPart (r : HwRead) : Option (List Byte × State) := match r with | .bytes l v => some (l, v) | .waits _ => none | .nonres => none | .fail _ _ => none

theorem witness_CollectiveAndMessageInstructions :
    let f := fr (.v 1) (.d 1) .none (.v 20) .zero .i32 .rne false 0
    let card := fun (n k : Nat) (bars : List Nat) =>
      let t := { tm [(2, 0x300000)] with bars := bars }
      let s := { st t with mem := smWrite memDefault base.mem 0x300000 (natLe 128 n) }
      let s := s.modTraffic fun y => { y with cards := List.replicate k { cardOf 1 0 0 0 0 progTeam.id none 0 card0 with started := true } }
      let x := ixIn s t
      x.s.latched f.sched == some x && x.active != 0 && x.operandTrap (x.via f.perm (x.t.desc.regsOf f.sa)) (x.t.desc.regsOf f.dst) == none &&
        decide (x.rd x.low f.sa < 2 ^ 57) && x.rd x.low f.sa % 128 == 0 && x.boundary true == none && x.awaitRel .pod == none &&
        (readPart (x.s.hwRead 0 x.cardOwner 0 (x.rd x.low f.sa) 128)).any fun p => (x.withState p.2).t.desc == x.t.desc &&
          cardOk (leNat p.1) == (n != 0) && p.2.cardsFull 0 == (k != 0) &&
          ((cardOf 1 0 0 0 0 progTeam.id none 0 (leNat p.1)).counted.findSome? fun o => x.t.barCause o).isSome == (n != 0 && bars.isEmpty) && (x.withState p.2.fresh.2).t.desc == x.t.desc
    let post := fun (q : Nat) =>
      let x := ix (tm [(2, 0x300040), (20, q), (21, 128), (22, 0xFFFFFFFF), (23, 0)])
      x.s.latched f.sched == some x && names x (x.t.desc.regsOf f.sa ++ x.t.desc.regsFrom f.sb 4) f.dst && x.rd x.low f.sa % 64 == 0
    let log : RxLog := { base := 0x300000, size := 6, head := 0, tail := 0, waitq := 0, popped := false, entries := [], fullPosted := false }
    let t := tm [(2, 63)]
    let s := { st t with chips := [(0, { progChip with logs := [(63, log)] })] }
    let x := ixIn s t
    let g := fr (.d 1) (.v 2) .none .zero .zero .i32 .rne false 0
    (card 0 0 [0] = true ∧ card card0 0 [0] = true ∧ card card0 64 [0] = true ∧ card card0 0 [] = true) ∧ (post 63 = true ∧ post 64 = true ∧ (base.chip? 0).isSome = true) ∧
      (Latched x.s g.sched x ∧ names x (x.t.desc.regsOf g.sa) g.dst = true ∧ x.rd x.low g.sa ≤ 63 ∧ (x.s.rxLog 0 63).enabled = true) := by
  unfold Latched; decide +kernel
/-! ### Premises that hold together, 6: firmware commands -/

/-- A packet: byte 0 is the command, byte 1 its length in 16-byte units, then values of `n` bytes at byte offsets. -/
def packet (op : Nat) (l : List (Nat × Nat)) : List Byte :=
  natLe (16 * cmdLen op) (op + 256 * cmdLen op + (l.map fun p => p.2 * 2 ^ (8 * p.1)).sum)

/-- The header of a packet in slot 0 without a completion record. -/
def hdr (fn : Fn) : CmdHdr := { fn := fn, slot := 0, tag := 0, evt := false, cpla := 0 }

/-- A ring with packets at its base. -/
def qd (base : Nat) : QDesc := { base := base, size := 6, head := 0, tail := 4, state := 1, erra := 0 }

/-- The placed chip without its teams. -/
def chip0 : Chip := { progChip with cmdq := qd 0x300000 }

/-- The module with a packet at the head of the PF's queue, another at the head of chip 0's, and host memory. -/
def cmdSt (c : Chip) (host vf : List (Nat × List Byte)) : State :=
  { base with
    teams := []
    chips := [(0, c)]
    hub := { base.hub with cmdq := qd 0x10000 }
    mem := vf.foldl (fun m p => smWrite memDefault m p.1 p.2)
      (host.foldl (fun m p => smWrite memDefault m (2 ^ 50 + p.1) p.2) base.mem) }

/-- The state after HEAD has moved past a packet. -/
def past (s : State) (fn : Fn) (i : Instr) : State :=
  match s.atHead (hdr fn) .cmd i with | some b => (s.pastPacket fn .cmd b).markSeen fn (byteAt b 0) | none => s

/-- A command's packet stands at HEAD and is clean. -/
def stands (s : State) (fn : Fn) (i : Instr) : Bool := (s.atHead (hdr fn) .cmd i).any cmdClean

theorem stands_commanded {s : State} {fn : Fn} {i : Instr} (h : stands s fn i = true) :
    Commanded s (hdr fn) i (past s fn i) := by
  unfold stands at h
  cases hb : s.atHead (hdr fn) .cmd i with
  | none => simp [hb] at h
  | some b => exact ⟨b, 0, .rc, hb, by simp [State.cplaAt, hdr], by simpa [hb] using h, by unfold past; rw [hb]; rfl⟩

/-- A command stands at the head of a queue, and what is left with HEAD past it meets a condition. -/
def stood (c : Chip) (fn : Fn) (op : Nat) (l : List (Nat × Nat)) (mem : List (Nat × List Byte)) (i : CmdHdr → Instr)
    (p : State → Bool) : Bool :=
  let s := match fn with
    | .pf => cmdSt c ((0x10000, packet op l) :: mem) []
    | .vf _ => cmdSt c mem [(0x300000, packet op l)]
  stands s fn (i (hdr fn)) && p (past s fn (i (hdr fn)))

/-- An issuer read gives bytes that meet a condition. -/
def bytesOf (r : IssuerRead) (p : List Byte → Bool) : Bool := match r with | .bytes b => p b | .nonres _ _ => false | .fail => false

/-- A quality-of-service block: the smallest values of Table 15.2 with one cluster and one bank. -/
def qosBlock : List Byte :=
  ([1, 1, 0, 0, 0, 0, 1, 0, 1, 100, 0, 1000, 0, 0, 0xFFFFFFFF, 0] : List Nat).flatMap (natLe 4)

/-- The PF's commands about chip 0, which nothing in the background names. -/
def onChip0 (op : Nat) (l : List (Nat × Nat)) (mem : List (Nat × List Byte)) (i : CmdHdr → Instr) (p : State → Bool) : Bool :=
  stood chip0 .pf op l mem i fun u => u.chip? 0 == some chip0 && !u.chipBusy 0 && !chip0.ident.incoming && p u

theorem witness_ChipCommands :
    let create := [(16, 5), (17, 4), (18, 1), (20, 1), (24, 0x400001), (32, 0x20000)]
    let vc := fun h => Instr.vcCreate h 5 4 1 1 false 0x400001 0x20000
    let q := Qos.init.ofBlock qosBlock 0xFFFF
    let lockChip := { chip0 with ident := { chip0.ident with tdi := 1 } }
    let destroy := fun h => Instr.vcDestroy h 0
    let qosChip := { chip0 with qos := { chip0.qos with minb := 32 } }
    stood chip0 (.vf 0) 2 create [] vc (fun _ => true) = true ∧
      stood chip0 .pf 2 create [(0x20000, qosBlock)] vc (fun u => u.chip? 5 == none && !u.guestBusy 1 &&
        u.identOk { gid := 1, pchip := 1, chw := 4, incoming := false, tdi := 0 } && s2CtxOk 0x400001 &&
        bytesOf (u.issuerRead .pf 0x20000 64) (fun b => b == qosBlock) && q.ok && bindOf qosBlock 0xFFFF == none && u.sumsFit 5 q &&
        decide (q.minb ≤ u.freeBanks.length) && decide (q.mind ≤ u.freeChannels.length)) = true ∧
      onChip0 3 [(16, 0)] [] destroy (fun _ => !chip0.locked) = true ∧
      stood lockChip .pf 3 [(16, 0)] [] destroy (fun u => u.chip? 0 == some lockChip && !u.chipBusy 0 && lockChip.locked) = true ∧
      stood qosChip .pf 4 [(16, 0), (24, 0x20000)] [(0x20000, (natLe 60 (2 ^ 256 + 100 * 2 ^ 288)) ++ natLe 4 (2 ^ 8 + 2 ^ 9))]
        (fun h => Instr.vcQos h 0 0x20000) (fun u => u.chip? 0 == some qosChip && !u.chipBusy 0 && !qosChip.ident.incoming &&
          bytesOf (u.issuerRead .pf 0x20000 64) fun b =>
            let q := qosChip.nextMin.ofBlock b (packetNat b 60 4)
            q.ok && bindOf b (packetNat b 60 4) == none && q.minb == qosChip.qos.minb && q.flb == qosChip.qos.flb && u.sumsFit 0 q &&
              q.minb != 0 && decide (q.minb - qosChip.res.banks.length ≤ u.freeBanks.length) &&
              decide (q.mind - qosChip.res.channels.length ≤ u.freeChannels.length)) = true ∧
      onChip0 5 [(16, 1), (17, 0), (32, 3)] [] (fun h => Instr.map h 1 0 3) (fun u => s1CtxOk chip0.ident 3 && u.stripeBaseKept chip0 3) = true ∧
      [1, 2].all (fun n => onChip0 6 [(16, 0), (17, n), (19, 5), (24, 1), (32, 2)] []
        (fun h => Instr.shoot h 0 (BitVec.ofNat 8 n) false 5 1 2) (fun _ => true)) = true ∧
      onChip0 7 [(16, 0), (17, 1), (18, 1), (20, 9), (22, 3)] [] (fun h => Instr.pageReply h 0 1 1 9 3) (fun _ => true) = true ∧
      onChip0 8 [(16, 0)] [] (fun h => Instr.eventArm h ((0 : BitVec 8).setWidth 16)) (fun _ => true) = true := by decide +kernel

/-- A table of zeros names nothing, and every entry of it is one that the table takes. -/
theorem zeros_placeOk (s : State) (n k : Nat) : s.placeOk (packetNat (List.replicate n 0) (4 * k) 4) = true := by
  have h : ∀ n, leNat (List.replicate n (0 : Byte)) = 0 := by
    intro n
    induction n with
    | zero => rfl
    | succ n ih => simp_all [List.replicate_succ, leNat]
  rw [packetNat, List.drop_replicate, List.take_replicate, h]
  simp [State.placeOk, bits]

theorem witness_ChipCommands_placeLoad :
    let i := Instr.placeLoad (hdr .pf) 0 0x20000
    let c := { chip0 with res := { chip0.res with resident := false } }
    let s := { cmdSt c [] [] with
      mem := smWrite memDefault [] (2 ^ 50 + 0x10000) (packet 0x10 [(16, 0), (24, 0x20000)]) }
    let u := past s .pf i
    stands s .pf i = true ∧ u.chip? 0 = some c ∧ u.chipBusy 0 = false ∧ c.ident.incoming = false ∧ c.locked = false ∧
      c.res.resident = false ∧ bytesOf (u.issuerRead .pf 0x20000 12352) (fun b => b == List.replicate 12352 0) = true := by
  decide +kernel
/-- The module with guest 1 paused, with more host memory, and a packet at the PF's HEAD. -/
def pausedGuest (done : Bool) (s : State) : State := s.setGuest 1 { s.guest 1 with paused := true, pauseDone := done }

/-- A PF command about guest 1, which is paused. -/
def onGuest1 (done : Bool) (op : Nat) (l : List (Nat × Nat)) (mem : List (Nat × List Byte)) (i : CmdHdr → Instr) (p : State → Bool) : Bool :=
  let s := pausedGuest done (cmdSt chip0 ((0x10000, packet op l) :: mem) [])
  stands s .pf (i (hdr .pf)) && !(past s .pf (i (hdr .pf))).guestBusy 1 && p (past s .pf (i (hdr .pf)))

/-- A list of one run. -/
def oneRun : List Byte := natLe 8 0x30000 ++ natLe 8 4096

/-- Host memory can be written wherever it exists: the premise of ATTEST. -/
theorem witness_GuestCommands_attest (s : State) (k a n : Nat) (h : a + n ≤ 2 ^ 50) : s.issuerBlock .pf k a n = none := by
  induction k generalizing a n with
  | zero => rfl
  | succ k ih =>
    unfold State.issuerBlock
    by_cases hn : n = 0
    · simp [hn]
    · have h1 : a < 2 ^ 50 := by omega
      have h2 : min n (4096 - a % 4096) ≤ n := Nat.min_le_left _ _
      simp only [hn, if_false, State.issuerAt, h1, if_true]
      exact ih _ _ (by omega)

theorem witness_GuestCommands :
    (stood chip0 .pf 0 [] [] .nopCmd (fun _ => true) = true ∧
        (cmdSt chip0 [(0x10000, packet 0 [])] []).nopQueue (hdr .pf) = .cmd) ∧
      stood chip0 .pf 0x11 [] [] .getver (fun _ => true) = true ∧
      (stood chip0 .pf 0x12 [(16, 2), (17, 1)] [] (fun h => .setver h 2 1) (fun _ => true) = true ∧
        (cmdSt chip0 [] []).hub.seenCmd.contains (Fn.num .pf) = false) ∧
      stood chip0 .pf 0x13 [(16, 5), (48, 0x20000)] [] (fun h => .attest h 5 0x20000) (fun _ => true) = true ∧
      (stood chip0 .pf 0xB [(18, 15), (19, 7), (20, 0xFFFF)] [] (fun h => .counterAcq h 0 0 15 7 0xFFFF) (fun u => u.onDie .pf 15 &&
          (acquire .pf 0 (smGet CtrBank.init u.mod.banks 127).holder).isSome) = true) ∧
      [0, 1].all (fun k => onGuest1 false 0xC [(16, 1), (18, k), (19, 16 * k), (24, 0x20000), (32, 1023), (36, 1)] [(0x20000, natLe 8 0)]
        (fun h => .routeLoad h 1 (BitVec.ofNat 8 k) (BitVec.ofNat 8 (16 * k)) 0x20000 1023 1) (fun u =>
          u.routeSelOk 1 k (16 * k) && bytesOf (u.issuerRead .pf 0x20000 8) fun b => entriesOk k [packetNat b 0 8])) = true ∧
      onGuest1 false 0xD [(16, 1)] [] (fun h => .guestPause h 1) (fun _ => true) = true ∧
      onGuest1 true 0xE [(16, 1)] [] (fun h => .guestResume h 1) (fun _ => true) = true ∧
      onGuest1 true 9 [(16, 1), (24, 0x20000)] [(0x20000, oneRun)] (fun h => .ckpt h 1 false 0x20000 0 0) (fun u =>
        (u.guest 1).paused && (u.guest 1).pauseDone && u.runList .pf runListMax 0x20000 == some [(0x30000, 4096)]) = true ∧
      stood chip0 .pf 0xF [(16, 0), (18, 5), (24, 0x20000)]
        [(0x20000, natLe 8 2 ++ natLe 8 0 ++ natLe 8 0 ++ natLe 8 5 ++ natLe 8 0)] (fun h => .vcMigrate h 0 5 0x20000) (fun u =>
          u.chip? 0 == some chip0 && !u.chipBusy 0 && !chip0.ident.incoming && !chip0.locked && u.hub.position == 0 &&
            bytesOf (u.issuerRead .pf 0x20000 8) (fun b => leNat b == 2) &&
            bytesOf (u.issuerRead .pf 0x20008 32) fun b => (routeBlock b 2).any fun l =>
              (u.podModules 1 5).all fun m => l.any fun r => r.1 == m) = true := by decide +kernel

/-- A chip off its cores, and what a save left of it. -/
def chipAway : Chip := { chip0 with res := { chip0.res with resident := false, suspended := some 0 } }
/-- The image of that chip. -/
def image0 : Image := {
  gid := 1, dest := 0x30000, source := 0, lci := 0, chip := chipAway, teams := [], traffic := Traffic.init, counters := [], pages := [],
  frames := [], poison := [], routes := [], savedAt := 0, size := 0 }

theorem witness_GuestCommands_restore :
    let i := Instr.restore (hdr .pf) 1 0x20000
    let s := (cmdSt chipAway [(0x10000, packet 0xA [(16, 1), (24, 0x20000)]), (0x20000, oneRun)] []).modHub fun h => { h with
      images := [image0] }
    let u := past s .pf i
    stands s .pf i = true ∧ u.guestBusy 1 = false ∧ u.runList .pf runListMax 0x20000 = some [(0x30000, 4096)] ∧
      u.imagesAt 1 (firstRun (some [(0x30000, 4096)])) = [image0] ∧ (u.imageChip image0).isSome = true := by decide +kernel

/-- A kernel descriptor of one group of 8 registers. -/
def descWord : Nat := 1 + 2 ^ 64 + 2 ^ 96 + 2 ^ 128 + 2 ^ 336 + 2 ^ 512 * (0x200000 + 2 ^ 64 + 8 * 2 ^ 73)

/-- The handle and state of an acceptance. -/
def acceptPart (r : Accepted) : Bool := match r with | .ok _ _ => true | .waits _ => false | .refused _ _ => false

/-- A bound launch queue. -/
def boundQueue : LQueue := { hq := 1, weight := 1, vt := 0, blocked := false, grids := [] }

theorem witness_GuestCommands_launch :
    let b := packet 1 [(16, 0x300000)]
    let s0 := cmdSt { chip0 with disp := { chip0.disp with pfQueues := [(3, boundQueue)] } } [(0x10000, b)]
      [(0x300000, natLe 256 descWord)]
    let s := s0.modHub fun h => { h with lqd := [(3, { qd 0x10000 with tail := 2 })] }
    s.front .pf (.launch 3) = .packet b ∧ s.queue? .pf (.launch 3) = some { qd 0x10000 with tail := 2 } ∧ s.launchChip .pf 3 = some 0 ∧
      s.hub.power ≠ .p2 ∧ byteAt b 0 = 1 ∧ cmdHdr .pf 0 b = hdr .pf ∧ packetNat b 16 64 = 0x300000 ∧ s.cplaAt (hdr .pf) = .at_ 0 .rc ∧
      acceptPart (s.accept 0 3 true 0x300000 true (2 ^ 43 + 257 * 3 + Fn.num .pf)) = true := by decide +kernel
/-! ### Premises that hold together, 7: debugging, registers, power -/

/-- The placed chip with the PF as holder of its debug control, and core 5 of its place table at core 1. -/
def chipDbg : Chip := { chip4 with dbg := { chip4.dbg with holder := some .pf } }

theorem witness_DebugWrites :
    let t := tm []
    let stopped := { t with dbg := { t.dbg with state := 2 } }
    let s := fun (t : Team) (c : Chip) => { st t with chips := [(0, c)] }
    (s t chipDbg).chip? 0 = some chipDbg ∧ ¬ (progChip.dbg.holder = some Fn.pf) ∧ chipDbg.dbg.holder = some .pf ∧
      ((s t chipDbg).team? t.id = some t ∧ t.ended = false ∧ t.place = .resident 0 0) ∧
      ((s stopped chipDbg).team? t.id = some stopped ∧ stopped.ended = false ∧ stopped.dbg.state = 2 ∧ (stopped.group 0).readyMask ≠ 0 ∧
        0 < stopped.desc.groupCount) ∧ chipDbg.place placeCore 0 5 = some 1 ∧ (0 : BitVec 8).toNat = t.id.lci := by decide +kernel

theorem witness_RegisterAndPowerEvents :
    let svc := fun (n : Nat) => ({ SvcRing.init with rbase := 0x300000, rsize := n, rtail := 1 } : SvcRing)
    let s := fun (c : Chip) => { base with chips := [(0, c)] }
    let c := { progChip with svc := svc 4 }
    let bank := { CtrBank.init with holder := some Fn.pf }
    base.queue? .pf .cmd = some base.hub.cmdq ∧ base.queue? (.vf 0) (.launch 9) = some QDesc.init ∧
      ((s c).chip? 0 = some c ∧ ringUsed 16 c.svc.rhead ≤ 2 ^ c.svc.rsize ∧ c.replies = true ∧
        (s c).reach 0 (ringAddr c.svc.rbase c.svc.rsize 32 c.svc.rhead) false = .at_ 0x300000 .rc ∧ (s c).peekBad 0 0x300000 32 = false) ∧
      (progChip.svc.repOn = false ∧ base.chip? 0 = some progChip) ∧
      (smGet CtrBank.init ({ base.mod with banks := [(127, bank)] } : Module).banks 127).holder = some .pf ∧ (0xF : BitVec 16).toNat ≤ 0xF ∧
      base.fwReady = true ∧ State.reset.hub.power = .off ∧ progChip.ident.tdi = 0 := by decide +kernel

/-! ### Premises that hold together, 8: scheduling -/

/-- The placed team with lane 31 waiting, and the others ended. -/
def tmWait (w : Wait) : Team := (tm []).modGroup 0 fun g => { g with
  run := none, lanes := (List.range 32).map fun l => (l, if l = 31 then { g.lane l with st := .waiting, wait := some w }
    else { g.lane l with st := .exited, wait := none }) }

/-- The placed team with no run. -/
def tmIdle : Team := (tm []).modGroup 0 fun g => { g with run := none }

/-- A gang of one team. -/
theorem gangOf_one {s : State} {k : TeamId} {t : Team} (h : (s.teams.filter fun t => t.gangKey == k) = [t]) : s.gangOf k = [t] := by
  simp [State.gangOf, h, List.mergeSort_singleton]

theorem witness_SchedulingEvents_pick : ∃ c, (st tmIdle).slotFree 0 3 = true ∧
    ((st tmIdle).claims 0).mergeSort Claim.before = c :: [] ∧ c.id = tmIdle.id := by
  refine ⟨((st tmIdle).claims 0).headD ⟨⟨0, 0, 0⟩, 0, false, 0, 0, 0, 0⟩, by decide +kernel, ?_, by decide +kernel⟩
  have h : (st tmIdle).claims 0 = [((st tmIdle).claims 0).headD ⟨⟨0, 0, 0⟩, 0, false, 0, 0, 0, 0⟩] := by decide +kernel
  rw [h]
  simp [List.mergeSort_singleton]

theorem witness_SchedulingEvents :
    let drop := (tm []).modGroup 0 fun g => { g with ord := { g.ord with sb := [(2, 1)], drops := [2] } }
    let grow := (tmWait .grow).modGroup 0 fun g => { g with alloc := 8, grow := some 256 }
    let sleep := tmWait (.sleep 0x200000 1000 none)
    let done := tmIdle.modGroup 0 fun g => { g with lanes := (List.range 32).map fun l => (l, { g.lane l with st := .exited }) }
    let q : LaunchReq := {
      id := 9, team := tmIdle.id, group := 0, lq := 3, va := 0x300000, priv := false, dst := .v 8, active := 1, ctr := none }
    let c := { progChip with disp := { progChip.disp with queues := [(3, boundQueue)] } }
    let l := { st tmIdle with
      chips := [(0, c)], mem := smWrite memDefault (smWrite memDefault base.mem 0x300000 (natLe 64 0x300100)) 0x300100 (natLe 256 descWord),
      traffic := { base.traffic with launches := [q] } }
    (2 ∈ (drop.group 0).ord.drops) ∧ (st grow).grantable 0 = some (grow.id, 0) ∧
      ((tm []).core? = some 0 ∧ ((tm []).group 0).sleepsDue (st (tm [])).gtc = []) ∧
      (sleep.core? = some 0 ∧ (sleep.group 0).sleepsDue (st sleep).gtc = [(0x200000, 1000, none)]) ∧
      (done.core? = some 0 ∧ done.ended = false ∧ done.stopping = false ∧ done.allExited = true ∧ (st done).mayLeave done = true) ∧
      (l.traffic.launches.find? (fun q => q.team.lci == 0 && q.lq % 2 ^ 32 == 3) = some q ∧ l.chip? 0 = some c ∧
        (c.lqueue? 3 false).isSome = true ∧ (readPart (l.hwRead 0 q.id 0 q.va 64)).any (fun p =>
          acceptPart (p.2.accept 0 3 false (leNat p.1) q.priv q.id)) = true) := by decide +kernel

theorem witness_SchedulingEvents_park :
    let t := tmWait (.barrier 0x200000 0 0 false)
    let away := { t with place := .parked }
    let leave := { t with leave := 1 }
    let wake := { tmWait (.sleep 0x200000 1000 none) with place := .parked }
    let c := { progChip with disp := { progChip.disp with resume := [tmIdle.id] }, qos := { progChip.qos with save := 1 } }
    let s := { st { tmIdle with place := .preempted } with chips := [(0, c)] }
    (t.leave = 0 ∧ { st t with gtc := 10 ^ 9 }.parkEligible t = true ∧ { st t with gtc := 10 ^ 9 }.gangOf t.gangKey = [t]) ∧
      (leave.core? = some 0 ∧ leave.ended = false ∧ (st leave).gangMayLeave ((st leave).gangOf leave.gangKey) = true ∧
        { st leave with chips := [(0, c)] }.chip? 0 = some c ∧ { st leave with chips := [(0, c)] }.parkedCount 0 + 1 ≤ c.qos.save) ∧
      (wake.place = .parked ∧ wake.ended = false ∧ wake.wakeMet (st wake).gtc = true) ∧ away.core? = none ∧
      (s.chip? 0 = some c ∧ c.dispatches = true ∧ c.disp.nextResume = some tmIdle.id ∧ (s.fitUnit c (s.gangOf tmIdle.id)).isSome = true) := by
  refine ⟨⟨by decide +kernel, by decide +kernel, gangOf_one (by decide +kernel)⟩, ⟨by decide +kernel, by decide +kernel, ?_,
    by decide +kernel, by decide +kernel⟩, by decide +kernel, by decide +kernel, by decide +kernel, by decide +kernel, ?_⟩
  · rw [gangOf_one (t := { tmWait (.barrier 0x200000 0 0 false) with leave := 1 }) (by decide +kernel)]
    decide +kernel
  · rw [gangOf_one (t := { tmIdle with place := .preempted }) (by decide +kernel)]
    decide +kernel
/-! ### Premises that hold together, 9: memory and engines -/

/-- An outcome of a translation lies in this module. -/
def isHere (x : Xl) : Bool := match x with | .here _ _ => true | .remote _ _ => false | .nonres _ _ _ => false | .fail _ _ => false

/-- A load of one word by lane 31 of the placed team. -/
def txn0 (k : TxnKind) : Txn := {
  id := 5, acc := some 4, team := some progTeam.id, group := 0, core := 0, kind := k, home := .here 0 0x300000, cls := .rc, s2cls := false,
  scope := .team, sync := false, lease := 0, install := false, lanes := [{ lane := 31, addr := 0x300000, bytes := 4, data := [], ea := 0x300000 }],
  agent := { pchip := 0, die := 0, clus := 0, core := 0, launch := 1, team := 0 }, contribs := [], msgid := 0, member := none }

/-- An access of the placed team with everything answered. -/
def access0 : Access := {
  id := 4, team := progTeam.id, group := 0, pc := 0, ctr := some 2, dst := .store .zero, active := 1, sync := false, isSc := false,
  isLoad := false, isStore := true, scope := .team, answers := [], open_ := [], effect := 900, followed := false }

theorem witness_MemoryEvents :
    let s := fun (f : Traffic → Traffic) => { st (tm []) with traffic := f base.traffic }
    let w : Wcb := {
      id := 3, lci := 0, pchip := 1, line := 77, pod := 0, cls := .rc, scope := .device, bytes := [], accs := [], groups := [],
      agent := (txn0 .load).agent, since := 7 }
    let old := { st (tm []) with cores := [(0, { (base.core 0) with wcb := [w] })], gtc := 2007 }
    let sh : Shoot := {
      seq := 6, lci := 0, stage := 2, all := true, cls := none, first := 0, count := 0, removed := [], acked := [], cmd := none, ctx := none, start := 0, moved := false }
    let z := { base with gtc := 1000000 }.modHub fun h => { h with shoots := [sh] }
    (((st (tm [])).residents 0).any (fun u => u.id.lci == 0) = true ∧ isHere ((st (tm [])).walkOn (dieOf 0) 0 false 0x3FFFFFFF .read).1 = true) ∧
      (s (fun x => { x with txns := [txn0 .store] })).readyTxn 5 = some (txn0 .store) ∧ (txn0 .store).kind ≠ .load ∧
      (s (fun x => { x with txns := [txn0 .load] })).readyTxn 5 = some (txn0 .load) ∧ (txn0 .load).kind = .load ∧
      ((s (fun x => { x with accesses := [access0] })).traffic.accesses.find? (fun a => a.id == 4) = some access0 ∧ access0.open_ = [] ∧
        (s id).team? access0.team = some (tm []) ∧ access0.isClear = false) ∧
      (old.core 0).wcb.filter (fun w => w.pchip == 1 && w.line == 77 && decide (w.since + 2000 ≤ old.gtc)) = [w] ∧
      (z.hub.shoots = [sh] ∧ (z.shootStep sh 0).hub.shoots.any (fun x => x.seq == 6) = true ∧ sh.start + 1000000 ≤ z.gtc ∧ 15 ∉ sh.acked ∧ 15 ∉ z.hub.retiredDies) := by
  decide +kernel

theorem witness_MemoryEvents_cause : access0.cause = none ∧ (∀ d k p, access0.dst ≠ .woclr d k p) := by
  constructor
  · simp [Access.cause, access0]
  · intro d k p h; simp [access0] at h

/-- A copy of one row of 64 bytes. -/
def job0 : Job :=
  ({ kind := .copy, dir := 0, rows := 1, prio := 0, arr := false,
     box := { base := 0x300000, dtype := .i8, rank := 1, ext := [64], stride := [0], box := [64], org := [0], dst := 0, swz := 0, bar := none } } :
    JobPlan).job 7 (tm []) 0

/-- The state of a finished load. -/
def donePart (r : RunOut) : Option (State × List Byte) :=
  match r with | .done s l _ => some (s, l) | .wait _ => none | .page _ _ _ _ _ => none | .far _ _ => none | .fault _ _ _ => none

theorem witness_EngineEvents :
    let s := fun (j : Job) => { st (tm []) with traffic := { base.traffic with jobs := [j] } }
    let run := { job0 with started := true }
    let fin := { run with rows := [] }
    let chan := fun (va : Nat) => (st (tm [])).modChannel 0 31 fun c => { c with walk := some va, walkTeam := some progTeam.id }
    let c := cardOf 9 0 0 0 0 progTeam.id none 0x300000 (card0 + 0x300100 * 2 ^ 64)
    let cs := fun (c : Card) => { st4 (tm []) with
      mem := smWrite memDefault base.mem 0x300100 (natLe 2 3 ++ natLe 2 3), traffic := { base.traffic with cards := [c] } }
    let landing := { c with started := true, chunks := [0], counting := [(0, 1000)] }
    let ended := { c with started := true, outcome := 2, skip := true }
    (((s job0).chanJobs 0 0).find? (fun j => !j.started && j.outcome == 0) = some job0 ∧ job0.held = false ∧ (s job0).chipRuns 0 = true ∧
        (s job0).depCount 0 < 256 ∧ job0.kind = .copy) ∧
      ((s run).job? 7 = some run ∧ (s run).mayRow run 0 = true ∧ run.kind = .copy) ∧
      ((s fin).job? 7 = some fin ∧ (s fin).jobOver fin = true ∧ fin.record = none) ∧
      [0x300001, 0x300080].all (fun va => ((chan va).channel 0 31).walk == some va && ((chan va).channel 0 31).walkTeam == some progTeam.id &&
        (chan va).chipRuns 0 && decide ((chan va).queued 0 31 < 16) &&
        (va == 0x300001 || (readPart ((chan va).hwRead 0 (walkOwner 0 31) 0 va 128)).isSome)) = true ∧
      ((cs c).card? 9 = some c ∧ (cs c).chip? 0 = some chip4 ∧ c.started = false ∧ c.outcome = 0 ∧ c.held = false ∧
        chip4.res.resident = true ∧ (cs c).cardTurn c = true ∧ (cs c).depCount c.die < 256 ∧
        (donePart ((cs c).loadRun (c.job c.id) 0 (2 * c.nmem) (RowPart.mk c.memb 0 (2 * c.nmem) false).parts)).any (fun p =>
          match (p.1.dropFetches c.id 0).resolveMembers chip4 (memberFields p.2 c.nmem) with | .inr _ => true | .inl _ => false) = true) ∧
      ((cs landing).card? 9 = some landing ∧ 0 ∈ landing.chunks ∧ landing.held = false ∧ (cs landing).chipRuns 0 = true ∧
        landing.counting.find? (fun p => p.1 == 0) = some (0, 1000) ∧ 1000 ≤ (cs landing).gtc) ∧
      ((cs ended).card? 9 = some ended ∧ ended.begun = [] ∧ ended.counting = [] ∧ ended.held = false ∧ ended.effect ≤ (cs ended).gtc ∧
        ended.outcome ≠ 0 ∧ ended.skip = true) := by decide +kernel
/-! ### Premises that hold together, 10: the fabric, timers and the background -/

/-- Packets of chip 1 (at cell position 5) and chip 0 of guest 1 come in at port 15 under label 4095. -/
def linkSt (f : Traffic → Traffic) : State :=
  ({ st (tm []) with traffic := f base.traffic }.modPort 15 fun p => { p with
    up := true, routes := [(4095, BitVec.ofNat 64 (2 ^ 38 + 0xFF * 2 ^ 40 + 2 ^ 48))] }).setGuest 1
      { base.guest 1 with table := [(0, progHome 0), (1, progHome 5)] }

/-- An arriving packet. -/
def pkt (ty msgid : Nat) (beats : List Beat) : Packet := {
  atag := 0, addr := 0, src := 1, dst := 0, route := 4095, lseq := 0, msgid := BitVec.ofNat 16 msgid, prio := 0, cls := 1, scope := 2,
  epoch := false, strand := 7, len := BitVec.ofNat 4 beats.length, type := BitVec.ofNat 5 ty, beats := beats, authentic := true }

/-- A packet is delivered to chip 0. -/
def comesIn (s : State) (p : Packet) (ty : Nat) : Bool :=
  p.type.toNat == ty && (s.die 15).port.up && s.ingress 15 p == .deliver 0

/-- A packet that comes in is delivered. -/
theorem comesIn_delivered {s : State} {p : Packet} {ty : Nat} (h : comesIn s p ty = true) : Delivered s 15 p ty 0 := by
  simp only [comesIn, Bool.and_eq_true, beq_iff_eq] at h
  exact ⟨h.1.1, fun _ => h.1.2, h.2⟩

/-- A message from chip 1 to queue 5 of chip 0. -/
def msg0 : MsgReq := {
  id := 6, die := 15, lci := 0, src := 1, queue := 5, msgid := 9, len := 100, prio := 0, tag := 0, arrived := 0, lastToken := 0,
  place := .buffer 0x300000 4096 none progTeam.id, landed := [], granted := 0, regrant := [], deferred := false, trunc := false,
  fault := false, orphAt := some 1000, peer := 5, effect := 0, headed := false, spad := false }

/-- A message from chip 0 to chip 1 whose refusal has been waited out. -/
def send0 : Send := {
  id := 8, job := 7, die := 15, lci := 0, pchip := 1, queue := 5, msgid := 9, len := 100, prio := 0, tag := 0, data := [], sentTo := 0,
  tokens := [], deferSent := false, nakUntil := some 1000, covered := [], team := progTeam.id, spad := false }

/-- The load of `txn0` with its home at chip 1. -/
def farTxn : Txn := { txn0 .load with home := .remote (2 ^ 44 + 0x300000), msgid := 9 }

theorem witness_FabricPackets :
    let s := linkSt id
    let msgs := linkSt fun y => { y with msgs := [msg0] }
    let sends := linkSt fun y => { y with sends := [send0] }
    let far := linkSt fun y => { y with txns := [farTxn] }
    let posted := s.modChip 0 fun c => { c with posts := [(5, [{ va := 0x300000, cap := 4096, bar := none, filter := 0, team := progTeam.id }])] }
    let req := pkt 6 9 [BitVec.ofNat 256 (100 + 5 * 2 ^ 64)]
    ([(0, 1), (2, 2), (4, 2), (13, 1), (8, 1), (9, 1), (10, 1)].all (fun p => comesIn s (pkt p.1 9 (List.replicate p.2 0)) p.1) = true ∧
        beatGet (pktCtl (pkt 13 9 [0])) 0 8 = 0) ∧
      (let copy := pkt 6 9 [BitVec.ofNat 256 (100 + 2 ^ 89)]
       comesIn s copy 6 = true ∧ beatGet (pktCtl copy) 89 1 = 1 ∧ s.grantsFull (portDie 15) = false) ∧
      (comesIn posted req 6 = true ∧ beatGet (pktCtl req) 89 1 = 0 ∧ s.chipHome (s.gidOf 0) 1 = .peer 5 0 ∧
        (match posted.arriveMsg 15 0 1 5 9 100 0 0 false 5 with | .taken _ => true | .nak _ => false) = true) ∧
      (comesIn msgs (pkt 7 9 [0, 0]) 7 = true ∧ msgs.dataReq 15 0 (pkt 7 9 [0, 0]) = some msg0) ∧
      ([(1, 1), (3, 1), (5, 1), (12, 1)].all (fun p => let q := pkt p.1 9 (List.replicate p.2 0)
        comesIn far q p.1 && far.answeredWcb q == none && far.answeredTxn 0 q == some farTxn) = true) ∧
      (let q := pkt 11 9 [BitVec.ofNat 256 (5 * 2 ^ 32)]
       comesIn sends q 11 = true ∧ sends.traffic.sends.find? (fun x => x.lci == 0 && x.pchip == q.src.toNat &&
          x.queue == beatGet (pktCtl q) 32 12 && x.msgid == q.msgid.toNat) = some send0) := by decide +kernel

theorem witness_LinkEvents :
    let s := fun (r : Nat) => base.modPort 15 fun p => { p with up := true, unacked := [pkt 0 9 [0]], resends := r }
    let k := linkKey 1 0 1
    (((s 15).die 15).port.up = true ∧ ((s 15).die 15).port.unacked ≠ [] ∧ ((s 15).die 15).port.resends < 16) ∧
      (((s 16).die 15).port.up = true ∧ ((s 16).die 15).port.unacked ≠ [] ∧ 16 ≤ ((s 16).die 15).port.resends) ∧
      ((base.die 15).port.up = false ∧ 1 ≤ 1) ∧ 2 ^ 31 ≤ smGet 0 [(k, 2 ^ 32)] k / 2 ∧ base.portPeers 17 = [] ∧ 30 < (-31 : Int).natAbs ∧
      [(0, (5, 6))].find? (fun q => q.1 == (0 : BitVec 8).toNat) = some (0, (5, 6)) := by decide +kernel

/-- The grant table's next request, whatever the round trip is measured to be. -/
theorem witness_TimersAndBackground_grant :
    let s := linkSt fun y => { y with msgs := [msg0] }
    (s.traffic.msgs.filter fun m => m.die == 15) = [msg0] ∧ (s.traffic.sends.filter fun x => x.die == 15) = [] ∧ s.msgFinish 6 = s ∧
      s.refuseLogged msg0 = s ∧ (s.traffic.tokens.filter fun k => k.die == 15).length < 1024 ∧ ∀ rtt, s.nextGrant 15 rtt = some msg0 := by
  refine ⟨by decide +kernel, by decide +kernel, by decide +kernel, by decide +kernel, by decide +kernel, fun rtt => ?_⟩
  have hm : (linkSt fun y => { y with msgs := [msg0] }).traffic.msgs = [msg0] := rfl
  have h : (linkSt fun y => { y with msgs := [msg0] }).mayGrant msg0 rtt = true := by
    simp only [State.mayGrant, Bool.and_eq_true, decide_eq_true_eq]
    refine ⟨⟨by decide +kernel, lt_of_lt_of_le ?_ (le_max_left _ _)⟩, by decide +kernel⟩
    decide +kernel
  unfold State.nextGrant
  rw [hm]
  simp only [List.filter_cons, h, List.filter_nil]
  decide +kernel

theorem witness_TimersAndBackground :
    let k : Token := { num := 3, die := 15, req := 6, ofs := 0, len := 100, expiry := 1000 }
    let s := linkSt fun y => { y with msgs := [msg0], tokens := [k], sends := [send0] }
    let bg := fun (b : Background) => s.modHub fun h => { h with background := [b] }
    let c := { progChip with qos := { progChip.qos with cgroup := 4, slice := 100000 }, res := { progChip.res with drainAt := some 2000, out := [] } }
    let stopping := { tm [] with place := .parked, dbg := { (tm []).dbg with state := 1 } }
    (s.traffic.tokens.find? (fun k => k.die == 15 && k.num == 3) = some k ∧ s.tokenReq k = some msg0 ∧ (s.guest (s.gidOf 0)).paused = false ∧
        k.expiry ≤ s.gtc) ∧
      (s.msg? 6 = some msg0 ∧ msg0.orphAt = some 1000 ∧ msg0.die = 15 ∧ s.orphanRuns msg0 = true) ∧
      (s.send? 8 = some send0 ∧ send0.nakUntil = some 1000 ∧
        ((s.modSend 8 fun y => { y with nakUntil := none, sentTo := 0 }).send? 8).isSome = true) ∧
      (base.podUnacked 1 = false ∧ (bg (.pause (hdr .pf) 1)).hub.background = [.pause (hdr .pf) 1]) ∧
      (base.allLeft 1 = true ∧ (bg (.ckpt (hdr .pf) 1 false 0 0)).hub.background = [.ckpt (hdr .pf) 1 false 0 0]) ∧
      (base.chip? 0 = some progChip ∧ (bg (.migrate (hdr .pf) 0 5 [])).hub.background = [.migrate (hdr .pf) 0 5 []]) ∧
      (c.res.drainAt = some 2000 ∧ s.gtc < 2000 ∧ s.outEmpty 0 c.res.out = true) ∧ (c.qos.cgroup = 4 ∧ s.gtc ≤ 900 + c.qos.slice) ∧
      ((st stopping).team? stopping.id = some stopping ∧ stopping.dbg.state = 1 ∧ stopping.core? = none) := by decide +kernel
/-! ### Premises that hold together, 11: completion -/

theorem witness_MovesLaunchesCardEndsAndDrainsComplete_issue :
    let t := tm [(2, 3968), (3, 0xFFFFFFFF), (4, 0), (5, 0xFFFFFFFF), (6, 1), (7, 1 * 4096 + 5), (10, 0x300000), (12, 3)]
    let x := ixIn (st4 t) t
    let f := fr (.v 8) (.d 1) .none (.d 2) (.d 3) .i32 .rne false 0
    let g := fr (.v 8) (.d 5) .none (.v 12) .zero .i32 .rne false 0
    let a := x.rd x.low f.sa
    let c := x.rd x.low f.sc
    let len := bits (c / 2 ^ 32) 12 12
    let va := x.rdVia g.perm x.low g.sa
    (Latched x.s f.sched x ∧ x.active ≠ 0 ∧
        names x (x.t.desc.regsOf f.sa ++ x.t.desc.regsOf f.sb ++ x.t.desc.regsOf f.sc) f.dst = true ∧ 1 ≤ len ∧ len ≤ 2560 ∧
        bits (c / 2 ^ 32) 24 8 = 0 ∧ a % 2 ^ 32 % 128 = 0 ∧ x.rd x.low f.sb % 2 ^ 32 % 128 = 0 ∧ smoveBar (a / 2 ^ 32) = none ∧
        a % 2 ^ 32 + 128 * len ≤ x.t.spadSize ∧ x.t.rightsOk (a % 2 ^ 32) (128 * len) = true ∧ x.s.rangesUsed x.cur.core < 64 ∧
        x.s.chip? x.t.id.lci = some chip4 ∧ chip4.place placeCore x.cur.core (bits (c / 2 ^ 32) 0 12) = some 1) ∧
      (namesVia x g.perm (x.t.desc.regsOf g.sa) (x.t.desc.regsOf g.sb) g.dst = true ∧ x.boundary true = none ∧
        x.awaitRel .device = none ∧ va < 2 ^ 57 ∧ va % 64 = 0 ∧
        failedTrap (x.s.xlateLanes x.cur.core x.t.id.lci false .read [(x.low, va)]).1 = none) := by
  unfold Latched; decide +kernel

/-- The two cards that end: one whose chunks are done, and one that failed and no longer owns its memory. -/
theorem witness_MovesLaunchesCardEndsAndDrainsComplete_events :
    let c := cardOf 9 0 0 0 0 progTeam.id none 0x300000 card0
    let cs := fun (c : Card) => { st4 (tm []) with traffic := { base.traffic with cards := [c] } }
    let fin := { c with started := true, chunks := [] }
    let lost := { c with started := true, outcome := 2, skip := true }
    let due := fun (t : Nat) => { progChip with res := { progChip.res with drainAt := some t, out := [0] } }
    [fin, lost].all (fun (c : Card) => (cs c).card? 9 == some c && c.begun.isEmpty && c.counting.isEmpty && !c.held &&
        decide (c.effect ≤ (cs c).gtc) && (c.outcome != 0 || (c.started && c.chunks.isEmpty &&
          ((cs c).matched c).all fun x => x.chunks.isEmpty || x.outcome != 0))) = true ∧
      (fin.skip = false ∧ (donePart (((cs fin).modCard 9 fun x => { x with outcome := 1 }).endRecord (fin.job fin.id) endKey fin.va 64
        (16 * fin.dt + 2 * fin.op) (statusWord (cs fin).gtc 1 fin.cause fin.qsat))).isSome = true) ∧ lost.skip = true ∧
      [0, 2000].all (fun t => ({ st (tm []) with chips := [(0, due t)] } : State).chip? 0 == some (due t) &&
        (due t).res.drainAt == some t) = true := by decide +kernel

/-! ### Results that the spec works out -/

/-- Key `k` of lane 31 after an instruction of the placed team. -/
def after (t : Team) (i : Instr) (k : Nat) : Nat := (((nextOf (exec i (st t))).teams.headD t).group 0 |>.key 31 k).toNat

/-- Chapter 5 and log 6: the first step runs the placed instruction: IADD v4, v2, 17 leaves 17. -/
theorem test_first_step :
    (((nextOf (step (State.reset.withFetchWord 96 0x108077000400800000000440))).teams.headD progTeam).group 0).key 31 4 = 17 := by
  decide +kernel

/-- 07 R215: modulo 2^32 without SAT, clamped with it. -/
theorem test_iadd_wraps_and_clamps :
    let t := tm [(2, 0x7FFFFFFF), (3, 1)]
    after t (.iadd (fr (.v 1) (.v 2) .none (.v 3) .zero .i32 .rne false 0)) 1 = 0x80000000 ∧
      after t (.iadd (fr (.v 1) (.v 2) .none (.v 3) .zero .i32 .rne true 0)) 1 = 0x7FFFFFFF := by decide +kernel

/-- 08 R238: counts are compared, never masked; a right shift of 32 or more leaves the sign. -/
theorem test_shift_by_width :
    let t := tm [(2, 0x80000001), (3, 32)]
    after t (.shl (fr (.v 1) (.v 2) .none (.v 3) .zero .i32 .rne false 0)) 1 = 0 ∧
      after t (.sar (fr (.v 1) (.v 2) .none (.v 3) .zero .i32 .rne false 0)) 1 = 0xFFFFFFFF := by decide +kernel

/-- 08 R238's example: with 0xCA, SC selects between SA and SB. -/
theorem test_lut3_selects :
    after (tm [(2, 0x12345678), (3, 0x9ABCDEF0), (4, 0x0000FFFF)]) (.lut3 (fr (.v 1) (.v 2) .none (.v 3) (.v 4) .i32 .rne false 0xCA)) 1 =
      0x1234DEF0 := by decide +kernel

/-- 07's example: 470.0 to e4m3 by RNE, with SAT, and by RZ. -/
theorem test_cvt_e4m3 :
    let t := tm [(2, 0x43EB0000)]
    let cvt := fun (rm : Rm) (sat : Bool) => after t (.cvt (fr (.v 1) (.v 2) .none .zero .zero .e4m3 rm sat 8)) 1
    cvt .rne false = 0x7F ∧ cvt .rne true = 0x7E ∧ cvt .rz false = 0x7E := by decide +kernel

/-- 07 R219's example: 1.0625 to e4m3 under SR from state 1, twice. -/
theorem test_stochastic_rounding :
    let one := roundTo .e4m3 (fdecode .f32 0x3F880000) (.sr (srStep 1)) false
    srStep 1 = 0x00042021 ∧ one = 0x39 ∧ srStep (srStep 1) = 0x04080601 := by decide +kernel

/-- 07 R226's example: the auto mode of a q4 block. -/
theorem test_q4_block :
    let x := [0x40A00000, 0xC0200000, 0x3E99999A] ++ List.replicate 29 0
    let q := encodeBlock false none none none (x.map (fdecode .f32))
    q.scale = 0x30 ∧ packCodes false q.codes = 0xE5 :: List.replicate 15 0 := by decide +kernel

/-- 07 R229's example: an outlier of a block with fixed TYPE 0 goes to the list. -/
theorem test_outlier :
    let x := (List.replicate 32 0).set 5 0x49742400 |>.set 9 0x40400000
    let t := { tm [] with spad := smWrite 0 [] 0x40 (natLe 8 (4 * 2 ^ 32)) }
    let s := encodeBlock false (some 0) none none (x.map (fdecode .f32))
    s.scale = 0x2F ∧ (qntBlock false 0x2F t 0x40 0 x).1.codes.getD 9 0 = 6 ∧ (qntBlock false 0x2F t 0x40 0 x).1.codes.getD 5 0 = 0 ∧
      leNat (smRead 0 (qntBlock false 0x2F t 0x40 0 x).1.spad 0x48 8) = 5 + 0x49742400 * 2 ^ 32 := by decide +kernel

/-- 07 R230's example: one exact sum, one rounding. -/
theorem test_matrix_sum :
    roundTo .f32 (fsum false [fdecode .f32 0x4B800000, fdecode .f32 0x3F800000, fdecode .f32 0xCB800000, fdecode .f32 0x3F000000])
      (.rm .rne) false = 0x3FC00000 := by decide +kernel

/-- 08 R251's example: REDUX and SCAN sum exactly. -/
theorem test_redux_exact :
    reduceVals 0 .f32 .rne false ([0x4B800000, 0x3F800000, 0xCB800000] ++ List.replicate 13 0) = 0x3F800000 ∧
      reduceVals 0 .f32 .rne false [0x4B800000, 0x3F800000] = 0x4B800000 := by decide +kernel

/-- 09 R267's example, to the phase that completes at 160. -/
theorem test_barrier_example :
    let o := barInitial 0 2 true false
    let a := barStep o 0 (-256) 0
    let b := barStep a.2 1 768 0
    let c := barStep b.2 0 (-512) 0
    let d := barStep c.2 1 0 0
    barPending a.2 = 2 ∧ barIn a.2 = -256 ∧ b.1 = some 0 ∧ barPending b.2 = 1 ∧ barIn b.2 = 512 ∧ barIn c.2 = 0 ∧ barPending c.2 = 1 ∧
      d.1 = some 0x10 ∧ barGen d.2 = 1 ∧ barPhase d.2 = 1 ∧ barPending d.2 = 2 := by decide +kernel

/-- 03 R86's example: the bank of an address. -/
theorem test_bank_hash :
    let s := { base with chips := [(5, { progChip with res := { progChip.res with banks := (List.range 8).map fun k => 3 * 32 + 4 + k } })] }
    s.bankOf 5 0xC1234625C0 = some (3 * 32 + 4) := by decide +kernel

/-- 01 R35's example: a relative place field. -/
theorem test_place_field :
    let c := { progChip with
      res := { progChip.res with clusters := [137] }
      places := [(34, 0x80000226#32), (37, placeWord 0 548)] }
    c.place placeCore 548 0xFFD = some 550 := by decide +kernel

/-- 09 R252's example: the target of a CALL in the line at 0x2000. -/
theorem test_call_target :
    ({ ix (tm []) with cur := { cur0 with pc := 0x2001 } } : Ix).relTarget 0x1A = 0x20C2 := by decide +kernel

/-- 10 R290, as R283's example with two lanes: the lower lane's compare succeeds, and the other reads its value. -/
theorem test_atoms_cas :
    let t := (tm [(2, 0), (6, 0), (7, 3)])
    let i := Instr.atoms .casB32 (fm (.v 1) (.v 2) .team .weak 0 (.d 3) 0 .spad)
    after t i 1 = 3 ∧ leNat (smRead 0 ((nextOf (exec i (st t))).teams.headD t).spad 0 4) = 3 := by decide +kernel

/-- Table 8.1, 06 R203: FTZ is no bit of HSETP2, and is reserved there. -/
theorem test_hsetp2_ftz : refuses 0x330077030C00800030028240 0 .reservedBits = true := by decide +kernel

/-- 01 R17, R18: an address below the allocation's end is in range, and is then held to its alignment. -/
theorem test_misaligned_at_end :
    let x := ix (tm [(2, 4092)])
    ((x.spadTrap false false 8 (x.laneReqs (fm (.d 10) (.v 2) .team .weak 0 .zero 0 .spad) 8)).map Trap.cause) = some Cause.misaligned := by
  decide +kernel

/-- 08 R245: SQRT rounds correctly, and RCP of -0 is -Inf. -/
theorem test_sqrt_and_rcp : sfuEval .sqrt 0x40800000 (fdecode .f32 0x40800000) = 0x40000000 ∧
    sfuEval .rcp 0x80000000 (fdecode .f32 0x80000000) = 0xFF800000 := by decide +kernel

/-- 14 R372: a trap without a handler stops the team. -/
theorem test_trap_stops :
    ((nextOf (exec (.trapSys (fi .zero .zero .none 9 .i32 .rne)) (st (tm [])))).teams.headD (tm [])).stopping = true := by decide +kernel

/-- 04 R123, Table 4.1: a store to scratchpad lands at once, little-endian. -/
theorem test_sts_bytes :
    let t := tm [(2, 64), (3, 0x11223344)]
    let i := Instr.sts .b32 (fm .zero (.v 2) .team .weak 0 (.v 3) 4 .spad)
    smRead 0 ((nextOf (exec i (st t))).teams.headD t).spad 67 6 = [0, 0x44, 0x33, 0x22, 0x11, 0] := by decide +kernel

end Sys2Proof.Tests
end

section
/-! SUPPORT. LD and ST in accumulator space (01 R24, 03 R111): the writes of a load whose poisoned lanes get their predicate
alone, the team that a store leaves, and statement O32. -/

namespace Sys2Proof.Machine

/-! ### Shared operations -/

/-- An instruction with an active lane, whose operands pass their checks, runs. -/
theorem onMem_runs {x : Ix} {srcs dsts : List Nat} (hop : x.operandTrap (x.own srcs) dsts = none) (ha : x.active ≠ 0) (sc : Sched)
    (k : Unit → State) : x.onMem sc srcs dsts k = k () := by
  simp only [Ix.onMem, hop, if_neg ha]

/-- Distinct destinations, one of which names no register, share no key: predicates stand above all registers (06 R189). -/
theorem puts_disjoint {d : Desc} {o p : Opd} (ho : ∀ n ∈ d.regsOf o, n < 256) (hp : d.regsOf p = []) (hne : o ≠ p) (v w k : Nat) :
    d.puts o v k = none ∨ d.puts p w k = none := by
  cases p with
  | v n => simp [Desc.regsOf] at hp
  | d n => simp [Desc.regsOf] at hp
  | t n => exact .inr rfl
  | a n => exact .inr rfl
  | zero => exact .inr rfl
  | c n => exact .inr rfl
  | p j =>
    by_cases hk : k = predKey j.toNat
    · left
      cases o with
      | v n =>
        have := ho (d.vwv / 4 + n.toNat) (by simp [Desc.regsOf])
        exact if_neg (by rw [hk, predKey]; omega)
      | d n =>
        have := ho (d.vwv / 4 + 2 * n.toNat + 1) (by simp [Desc.regsOf])
        rw [Desc.puts, if_neg (by rw [hk, predKey]; omega), if_neg (by rw [hk, predKey]; omega)]
      | p i =>
        have hij : i.toNat ≠ j.toNat := fun h => hne (congrArg Opd.p (BitVec.eq_of_toNat_eq h))
        exact if_neg (by rw [hk, predKey, predKey]; omega)
      | t n => rfl
      | a n => rfl
      | zero => rfl
      | c n => rfl
    · exact .inr (if_neg fun h => hk h.2)

/-- The writes of two such destinations, each in lanes of its own. -/
theorem wr_disjoint {x : Ix} {o p : Opd} (ho : ∀ n ∈ x.t.desc.regsOf o, n < 256) (hp : x.t.desc.regsOf p = []) (hne : o ≠ p)
    (m n : Mask) (f g : Nat → Nat) (l k : Nat) : x.wr m o f l k = none ∨ x.wr n p g l k = none := by
  unfold Ix.wr
  rcases puts_disjoint ho hp hne (f l) (g l) k with h | h
  · left; simp [h]
  · right; simp [h]

/-- A destination that is left out in the lanes of a mask, and one that is written in every lane. -/
theorem mem_writes_except {α : Type} {m b : Mask} {f g : Nat → List α} {r : α} :
    (r ∈ (lanesOf m).flatMap fun l => (if b.getLsbD l then [] else f l) ++ g l) ↔
      r ∈ (lanesOf (m &&& ~~~b)).flatMap f ∨ r ∈ (lanesOf m).flatMap g := by
  simp only [List.mem_flatMap, mem_lanesOf, List.mem_append, BitVec.getLsbD_and, BitVec.getLsbD_not, Bool.and_eq_true]
  constructor
  · rintro ⟨l, ⟨hl, hm⟩, h | h⟩
    · split at h
      · simp at h
      · rename_i hb
        exact .inl ⟨l, ⟨hl, hm, by simpa [hl] using hb⟩, h⟩
    · exact .inr ⟨l, ⟨hl, hm⟩, h⟩
  · rintro (⟨l, ⟨hl, hm, hb⟩, h⟩ | ⟨l, ⟨hl, hm⟩, h⟩)
    · have : b.getLsbD l = false := by simpa [hl] using hb
      exact ⟨l, ⟨hl, hm⟩, .inl (by simpa [this] using h)⟩
    · exact ⟨l, ⟨hl, hm⟩, .inr h⟩

/-- The writes of a load: its value in the lanes that are not bad, its predicate in every lane. -/
theorem writes_dst_except {x : Ix} {o p : Opd} (ho : ∀ n ∈ x.t.desc.regsOf o, n < 256) (hp : x.t.desc.regsOf p = []) (hne : o ≠ p)
    (m b : Mask) (f g : Nat → Nat) :
    Writes ((lanesOf m).flatMap fun l => (if b.getLsbD l then [] else x.dst l o (f l)) ++ x.dst l p (g l))
      (orWrite (x.wr (m &&& ~~~b) o f) (x.wr m p g)) :=
  writes_or (writes_dst ho _ f) (writes_dst (by simp [hp]) m g) (fun _ => mem_writes_except)
    fun l k _ _ => wr_disjoint ho hp hne _ _ f g l k

/-- A deferred cause leaves a group's lanes as they are (04 R141). -/
@[simp] theorem deferCause_lane (x : Ix) (sc : Sched) (cause : Nat) (lanes : Mask) (addr l : Nat) :
    (x.deferCause sc cause lanes addr).lane l = x.g.lane l := by
  unfold Ix.deferCause
  split <;> rfl

/-- A lane's step follows its group's lanes. -/
theorem stepped_congr {x y : Ix} (hc : y.cur = x.cur) (hl : ∀ l, y.g.lane l = x.g.lane l) : y.stepped = x.stepped := by
  funext l
  simp only [Ix.stepped, hc, hl]

/-! ### Accumulator space -/

/-- The lanes whose accumulator element is poisoned (03 R111). -/
def Ix.accBad (x : Ix) (f : FmtM) : Mask := x.active &&& maskWhere fun l => smGet false x.t.accPoison ((x.ea f l).toNat / 4)

/-- The context of a load in accumulator space once its poisoned lanes hold POISON. -/
def Ix.accDeferred (x : Ix) (f : FmtM) : Ix :=
  { x with g := x.deferCause f.sched Cause.poison (x.accBad f) (4 * ((x.ea f (lowLane (x.accBad f))).toNat / 4)) }

/-- The team after the lanes of a list, in its order, have stored their elements. -/
def Ix.accStored (x : Ix) (f : FmtM) (ls : List Nat) (t : Team) : Team :=
  ls.foldl (fun (t : Team) l =>
    { t with acc := smSet 0 t.acc ((x.ea f l).toNat / 4) (BitVec.ofNat 32 (x.rd l f.sb)) }) t

/-- Stored elements leave the team's groups as they are. -/
@[simp] theorem accStored_groups (x : Ix) (f : FmtM) (ls : List Nat) (t : Team) : (x.accStored f ls t).groups = t.groups := by
  induction ls generalizing t with
  | nil => rfl
  | cons l r ih => exact ih _

/-- A load in accumulator space whose addresses pass: poisoned elements are not delivered (01 R24, 03 R111). -/
theorem accLoad_ends {x : Ix} {f : FmtM} (ht : x.accTrap f = none) (hd : ∀ n ∈ x.t.desc.regsOf f.dst, n < 256)
    (hp : x.t.desc.regsOf f.sb = []) (hne : f.dst ≠ f.sb) :
    Ends (x.accDeferred f) f.sched
      (orWrite (x.wr (x.active &&& ~~~x.accBad f) f.dst fun l => (smGet 0 x.t.acc ((x.ea f l).toNat / 4)).toNat)
        (x.wr x.active f.sb fun _ => 1)) x.stepped (x.accLoad f) := by
  have hs : (x.accDeferred f).stepped = x.stepped := stepped_congr rfl fun l => deferCause_lane x _ _ _ _ l
  have he := finish_ends (x.accDeferred f) f.sched none
    (writes_dst_except hd hp hne x.active (x.accBad f) (fun l => (smGet 0 x.t.acc ((x.ea f l).toNat / 4)).toNat) fun _ => 1)
  rw [hs] at he
  rw [Ix.accLoad, ht]
  exact he

/-- A store in accumulator space whose addresses pass: elements are written in lane order (01 R24), and their poison
marks stand, since R111 does not name ST among what clears one. -/
theorem accStore_ends {s : State} {x : Ix} {f : FmtM} (h : Latched s f.sched x) (ht : x.accTrap f = none)
    (hp : x.t.desc.regsOf f.dst = []) :
    Ends (x.withTeam (x.accStored f (lanesOf x.active) x.t)) f.sched (x.wr x.active f.dst fun _ => 1) x.stepped (x.accStore f) := by
  obtain ⟨-, hg, -, -⟩ := latched_facts h
  have hgr : (x.withTeam (x.accStored f (lanesOf x.active) x.t)).g = x.g := by
    simp only [hg, Ix.withTeam, Team.group, accStored_groups]
  have hs := stepped_congr (x := x) (y := x.withTeam (x.accStored f (lanesOf x.active) x.t)) rfl fun l => by rw [hgr]
  have he := finish_ends (x.withTeam (x.accStored f (lanesOf x.active) x.t)) f.sched none
    (writes_dst (x := x) (o := f.dst) (by simp [hp]) x.active fun _ => 1)
  rw [hs] at he
  rw [Ix.accStore, ht]
  exact he

/-- LD in accumulator space with an active lane, past the checks of its operands. -/
theorem exec_ld_acc {s : State} {x : Ix} {ls : LdSize} {f : FmtM} (h : Latched s f.sched x) (ha : x.active ≠ 0) (hasp : f.asp = .acc)
    (hop : x.operandTrap (x.own (x.t.desc.regsOf f.sa)) (x.t.desc.ldRegs ls f.dst) = none) :
    exec (.ld ls f) s = .next (x.accLoad f) := by
  change execLd ls f s = _
  rw [execLd, issue_latched h, onMem_runs hop ha, if_pos hasp]

/-- ST in accumulator space with an active lane, past the checks of its operands. -/
theorem exec_st_acc {s : State} {x : Ix} {ss : StSize} {f : FmtM} (h : Latched s f.sched x) (ha : x.active ≠ 0) (hasp : f.asp = .acc)
    (hop : x.operandTrap (x.own (x.t.desc.regsOf f.sa ++ x.t.desc.stRegs ss f.sb)) [] = none) :
    exec (.st ss f) s = .next (x.accStore f) := by
  change execSt ss f s = _
  rw [execSt, issue_latched h, onMem_runs hop ha, if_pos hasp]

/-- Settles O32: past its checks LD or ST runs `accLoad` or `accStore`, whose ends are known. -/
theorem accumulatorSpace : Obligations.AccumulatorSpace := by
  unfold Obligations.AccumulatorSpace
  intro ls ss f s x hx ha hasp ht k bad
  constructor
  · rintro hop rfl hne hp
    exact ⟨_, exec_ld_acc hx ha hasp hop, accLoad_ends ht (names_lt hop) hp hne⟩
  · intro hop hp
    exact ⟨_, exec_st_acc hx ha hasp hop, accStore_ends hx ht hp⟩

end Sys2Proof.Machine
end

section
/-! SUPPORT. Lines of the shared cache (03 R87): bytes replaced in place, the resident copy of a line after one has been put,
stores by hardware and firmware (04 R155), and statement O4. -/

namespace Sys2Proof.Machine

/-! ### Bytes replaced in place -/

/-- A byte of a list after a run of its bytes has been replaced. -/
theorem patch_getElem? {l new : List Byte} {n : Nat} (h : n + new.length ≤ l.length) (i : Nat) :
    (patch l n new)[i]? = if n ≤ i ∧ i < n + new.length then new[i - n]? else l[i]? := by
  have hn : (l.take n).length = n := List.length_take_of_le (by omega)
  rw [patch, List.append_assoc, List.getElem?_append, hn]
  split
  · rw [List.getElem?_take, if_pos ‹_›, if_neg (by omega)]
  · rw [List.getElem?_append]
    split
    · rw [if_pos (by omega)]
    · rw [if_neg (by omega), List.getElem?_drop]
      congr 1
      omega

/-- The bytes that replace others read back. -/
theorem patch_read_same {l new : List Byte} {n : Nat} (h : n + new.length ≤ l.length) :
    ((patch l n new).drop n).take new.length = new := by
  have hn : (l.take n).length = n := List.length_take_of_le (by omega)
  rw [patch, List.append_assoc, List.drop_append_of_le_length (by omega), List.drop_of_length_le (by omega), List.nil_append,
    List.take_left']
  rfl

/-- Bytes beside those replaced read as before. -/
theorem patch_read_apart {l new : List Byte} {n i k : Nat} (h : n + new.length ≤ l.length) (ha : i + k ≤ n ∨ n + new.length ≤ i) :
    ((patch l n new).drop i).take k = (l.drop i).take k := by
  apply List.ext_getElem?
  intro j
  simp only [List.getElem?_take, List.getElem?_drop, patch_getElem? h]
  split
  · rw [if_neg (by omega)]
  · rfl

/-- Bits set one by one, where a condition holds. -/
theorem getLsbD_foldl_setBits {w : Nat} (p : Nat → Bool) (l : List Nat) (m : BitVec w) (j : Nat) (hj : j < w) :
    (l.foldl (fun m k => if p k then m ||| BitVec.ofNat w (2 ^ k) else m) m).getLsbD j =
      (m.getLsbD j || (l.contains j && p j)) := by
  have hb : ∀ k, (BitVec.ofNat w (2 ^ k)).getLsbD j = decide (k = j) := fun k => by
    rw [BitVec.getLsbD_ofNat, Nat.testBit_two_pow]
    simp [hj]
  induction l generalizing m with
  | nil => simp
  | cons k r ih =>
    rw [List.foldl_cons, ih, List.contains_cons]
    have hm : (if p k then m ||| BitVec.ofNat w (2 ^ k) else m).getLsbD j = (m.getLsbD j || (decide (k = j) && p k)) := by
      cases p k with
      | false => simp
      | true => rw [if_pos rfl, BitVec.getLsbD_or, hb, Bool.and_true]
    rw [hm]
    by_cases hk : k = j
    · subst hk
      cases p k <;> simp
    · have hne : (j == k) = false := beq_false_of_ne (Ne.symm hk)
      simp [hk, hne]

/-- The sectors of a run of bytes are those that hold one of its bytes. -/
theorem sectorsOf_getLsbD (o n j : Nat) (hj : j < 4) :
    (sectorsOf o n).getLsbD j = (decide (32 * j < o + n) && decide (o < 32 * j + 32)) := by
  have h := getLsbD_foldl_setBits (w := 4) (fun k => decide (32 * k < o + n) && decide (o < 32 * k + 32)) (List.range 4) 0 j hj
  simpa [sectorsOf, hj] using h

/-! ### A line that has been put -/

/-- The die of a line does not depend on the lines that the banks hold. -/
@[simp] theorem putLine_lineDie (s : State) (b : BankLine) (lci a : Nat) : (s.putLine b).lineDie lci a = s.lineDie lci a := rfl

/-- A die's line of a number after one has been put at the front of the others. -/
theorem find?_replaced (l : List BankLine) (b : BankLine) (lci line : Nat) :
    ((b :: l.filter fun x => !(x.lci == b.lci && x.line == b.line)).find? fun x => x.lci == lci && x.line == line) =
      if b.lci = lci ∧ b.line = line then some b else l.find? fun x => x.lci == lci && x.line == line := by
  by_cases h : b.lci = lci ∧ b.line = line
  · simp [h]
  · rw [if_neg h, List.find?_cons_of_neg (by simpa using h), List.find?_filter]
    congr 1
    funext x
    have hx : x.lci = lci ∧ x.line = line → ¬ (x.lci = b.lci ∧ x.line = b.line) := by
      rintro ⟨rfl, rfl⟩ ⟨h1, h2⟩
      exact h ⟨h1.symm, h2.symm⟩
    grind

/-- The resident copy of a line after one has been put. -/
theorem bankLine?_putLine (s : State) (b : BankLine) (lci line : Nat) :
    (s.putLine b).bankLine? lci line = if b.lci = lci ∧ b.line = line then some b else s.bankLine? lci line := by
  rw [State.bankLine?, putLine_lineDie, State.putLine, State.modDie, State.die_setDie]
  split
  · next hd => rw [find?_replaced, hd, State.bankLine?]
  · next hd =>
    rw [if_neg, State.bankLine?]
    rintro ⟨rfl, rfl⟩
    exact hd rfl

/-- A put line leaves every bank's LFLOOR. -/
theorem putLine_leaseFloor (s : State) (b : BankLine) (lci a : Nat) : (s.putLine b).leaseFloor lci a = s.leaseFloor lci a := by
  have hf : ∀ d, ((s.putLine b).die d).lfloor = (s.die d).lfloor := by
    intro d
    rw [State.putLine, State.modDie, State.die_setDie]
    split
    · next h => rw [h]
    · rfl
  have hb : (s.putLine b).bankOf lci a = s.bankOf lci a := rfl
  simp only [State.leaseFloor, hb, hf]

/-- A line filled from memory is the same after another has been put. -/
theorem putLine_fillLine (s : State) (b : BankLine) (lci line : Nat) (cls : Cls) :
    (s.putLine b).fillLine lci line cls = s.fillLine lci line cls := by
  simp only [State.fillLine, putLine_leaseFloor]
  rfl

/-- The line that a request finds after one has been put. -/
theorem lineFor_putLine (s : State) (b : BankLine) (lci line : Nat) (cls : Cls) :
    (s.putLine b).lineFor lci line cls = if b.lci = lci ∧ b.line = line then b else s.lineFor lci line cls := by
  rw [State.lineFor, bankLine?_putLine, putLine_fillLine]
  split <;> rfl

/-- A request finds the line that it names. -/
theorem lineFor_names (s : State) (lci line : Nat) (cls : Cls) :
    (s.lineFor lci line cls).lci = lci ∧ (s.lineFor lci line cls).line = line := by
  rw [State.lineFor]
  cases h : s.bankLine? lci line with
  | none => exact ⟨rfl, rfl⟩
  | some b => simpa using List.find?_some h

/-! ### Reads, and stores by hardware and firmware -/

/-- A line of class RC or SC is never read as unwritten. -/
theorem not_unwritten {b : BankLine} (h : b.cls = .rc ∨ b.cls = .sc) (now : Nat) : b.unwritten now = false := by
  rcases h with h | h <;> simp [BankLine.unwritten, h]

/-- A line of class RC or SC takes a store of hardware or firmware (03 R92). -/
theorem poked_rc_sc {b : BankLine} (h : b.cls = .rc ∨ b.cls = .sc) (o : Nat) (l : List Byte) (c : Nat) :
    b.poked o l c = { b with
      data := patch b.data o l, dirty := b.dirty ||| sectorsOf o l.length, pois := b.pois &&& ~~~ granulesOf o l.length,
      wfw := true, wpod := 0, cbusy := max b.cbusy c } := by
  rcases h with h | h <;> simp [BankLine.poked, h]

/-- A line of class RC or SC completes a store after its latest lease (04 R120). -/
theorem completion_rc_sc (s : State) {b : BankLine} (h : b.cls = .rc ∨ b.cls = .sc) :
    s.completion b = max s.gtc (if b.lv = true then b.lexp else 0) + 4 := by
  rcases h with h | h <;> simp [State.completion, Cls.leased, h]

/-- A read in a line finds the line's bytes. -/
theorem peekLine_eq {s : State} {lci a n : Nat} {cls : Cls} (h : (s.lineFor lci (a / 128) cls).unwritten s.gtc = false) :
    s.peekLine lci a n cls = ((s.lineFor lci (a / 128) cls).data.drop (a % 128)).take n := by
  rw [State.peekLine, State.lineBytes, if_neg (by simp [h])]

/-- A read in the line that has been put, of class RC or SC. -/
theorem peekLine_putLine_same {s : State} {w : BankLine} {lci a n : Nat} {cls : Cls} (h : w.lci = lci ∧ w.line = a / 128)
    (hc : w.cls = .rc ∨ w.cls = .sc) : (s.putLine w).peekLine lci a n cls = (w.data.drop (a % 128)).take n := by
  have hf : (s.putLine w).lineFor lci (a / 128) cls = w := by rw [lineFor_putLine, if_pos h]
  rw [peekLine_eq (by rw [hf]; exact not_unwritten hc _), hf]

/-- A read in another line than the one that has been put. -/
theorem peekLine_putLine_ne {s : State} {w : BankLine} {lci a n : Nat} {cls : Cls} (h : ¬ (w.lci = lci ∧ w.line = a / 128)) :
    (s.putLine w).peekLine lci a n cls = s.peekLine lci a n cls := by
  simp only [State.peekLine, State.lineBytes, lineFor_putLine, if_neg h]
  rfl

/-- A bank makes no room for a line that it holds, nor while it has a free line. -/
theorem pokeRoom_idle {s : State} {lci line : Nat}
    (h : (s.bankLine? lci line).isSome = true ∨ ∀ n, s.bankOf lci (line * 128) = some n → s.bankFull n = false) :
    s.pokeRoom lci line = s := by
  unfold State.pokeRoom
  split
  · next h1 h2 =>
    rcases h with h | h
    · simp [h1] at h
    · rw [if_neg (by simp [h _ h2])]
  · rfl

/-- In a hole a store is discarded and reported (03 R114). -/
theorem pokeLine_hole {s : State} {mpa : Nat} (h : s.hole mpa = true) (lci : Nat) (l : List Byte) (cls : Cls) :
    s.pokeLine lci mpa l cls = (s.postPf 0x0022 (mpa / 128 * 128) lci, s.gtc) := if_pos h

/-- A store to a line that needs no room. -/
theorem pokeLine_put {s : State} {lci mpa : Nat} (h : s.hole mpa = false)
    (hr : (s.bankLine? lci (mpa / 128)).isSome = true ∨ ∀ n, s.bankOf lci (mpa / 128 * 128) = some n → s.bankFull n = false)
    (l : List Byte) (cls : Cls) :
    s.pokeLine lci mpa l cls =
      (s.putLine ((s.lineFor lci (mpa / 128) cls).poked (mpa % 128) l (s.completion (s.lineFor lci (mpa / 128) cls))),
        s.completion (s.lineFor lci (mpa / 128) cls)) := by
  rw [State.pokeLine, if_neg (by simp [h]), pokeRoom_idle hr]

/-- Settles O4: the store puts the patched line in its bank, and reads of a line find what was put. -/
theorem lineWritesReadBack : Obligations.LineWritesReadBack := by
  unfold Obligations.LineWritesReadBack
  intro s lci mpa l hlen b r
  refine ⟨fun hh => pokeLine_hole hh lci l .rc, fun hh hdata hcls hroom => ?_⟩
  have hr : r = (s.putLine (b.poked (mpa % 128) l (s.completion b)), s.completion b) := pokeLine_put hh hroom l .rc
  have hw := poked_rc_sc hcls (mpa % 128) l (s.completion b)
  obtain ⟨hlci, hline⟩ : b.lci = lci ∧ b.line = mpa / 128 := lineFor_names s lci (mpa / 128) .rc
  generalize b.poked (mpa % 128) l (s.completion b) = w at hr hw
  have hwl : w.lci = lci ∧ w.line = mpa / 128 := by rw [hw]; exact ⟨hlci, hline⟩
  have hwc : w.cls = .rc ∨ w.cls = .sc := by rw [hw]; exact hcls
  have hwd : w.data = patch b.data (mpa % 128) l := by rw [hw]
  have hfits : mpa % 128 + l.length ≤ b.data.length := by omega
  rw [hr]
  refine ⟨?_, fun a k hak hap => ?_, completion_rc_sc s hcls, ⟨w, ?_, by rw [hw], by rw [hw], by rw [hw], ?_, fun k hk => ?_⟩,
    rfl, rfl, rfl, rfl, rfl, rfl, rfl⟩
  · rw [peekLine_putLine_same hwl hwc, hwd, patch_read_same hfits]
  · by_cases ha : a / 128 = mpa / 128
    · rw [peekLine_putLine_same (ha ▸ hwl) hwc, hwd, patch_read_apart hfits (by omega)]
      rw [peekLine_eq (by rw [ha]; exact not_unwritten hcls _), ha]
    · exact peekLine_putLine_ne fun h => ha (h.2.symm.trans hwl.2)
  · rw [bankLine?_putLine, if_pos hwl]
  · rw [hw]
    exact le_max_right _ _
  · rw [hw, BitVec.getLsbD_or, sectorsOf_getLsbD _ _ _ (by omega)]
    simp only [Bool.or_eq_true, Bool.and_eq_true, decide_eq_true_eq]
    omega

end Sys2Proof.Machine
end

section
/-! SUPPORT. Events of the memory system: what a walk leaves in a core's TLBs (02 R60 to R63), what the end of an access makes
of its group (10 R284, 04 R125 to R129), the dies' part of a shootdown (02 R75, R78), and statement O55. -/

namespace Sys2Proof.Machine

/-! ### Walks -/

/-- Of a new entry and the entries that its walk keeps, only the new one can cover the address. -/
theorem eq_of_mem_kept {tl : List Tlb} {lci : Nat} {p : Bool} {a : Nat} {t v : Tlb}
    (h : v ∈ t :: (tl.filter fun u => !u.covers lci p a).filter fun u => !u.meets t) (hc : v.covers lci p a = true) : v = t := by
  rcases List.mem_cons.1 h with h | h
  · exact h
  · have hn := (List.mem_filter.1 (List.mem_filter.1 h).1).2
    rw [hc] at hn
    exact absurd hn (by decide)

/-- A TLB with room for an entry holds the one that a walk leaves. -/
theorem mem_tlbWalked (n : Nat) (tl : List Tlb) (lci : Nat) (p : Bool) (a : Nat) (t : Tlb) :
    t ∈ tlbWalked (n + 1) tl lci p a (some t) := by simp [tlbWalked]

/-- No older entry of an address stands in a TLB after its walk (02 R63). -/
theorem tlbWalked_covers {n : Nat} {tl : List Tlb} {lci : Nat} {p : Bool} {a : Nat} {new : Option Tlb} {v : Tlb}
    (h : v ∈ tlbWalked n tl lci p a new) (hc : v.covers lci p a = true) : new = some v := by
  cases new with
  | none => simp [tlbWalked, hc] at h
  | some t => rw [eq_of_mem_kept (List.mem_of_mem_take h) hc]

/-- The second-level TLB holds the entry that a walk leaves. -/
theorem mem_stlbWalked (tl : List Tlb) (lci : Nat) (p : Bool) (a : Nat) (t : Tlb) : t ∈ stlbWalked tl lci p a (some t) := by
  simp only [stlbWalked]
  split <;> exact List.mem_cons_self

/-- No older entry of an address stands in the second-level TLB after its walk (02 R63). -/
theorem stlbWalked_covers {tl : List Tlb} {lci : Nat} {p : Bool} {a : Nat} {new : Option Tlb} {v : Tlb}
    (h : v ∈ stlbWalked tl lci p a new) (hc : v.covers lci p a = true) : new = some v := by
  cases new with
  | none => simp [stlbWalked, hc] at h
  | some t =>
    simp only [stlbWalked] at h
    split at h
    · rw [eq_of_mem_kept h hc]
    · have hk := (List.mem_cons.1 h).imp_right fun h => List.mem_reverse.1 (List.mem_of_mem_eraseP (List.mem_reverse.1 h))
      rw [eq_of_mem_kept (List.mem_cons.2 hk) hc]

/-- Every entry of an address in a core's TLBs after its walk is the one that the walk leaves. -/
theorem walked_covers {c : Core} {f : Bool} {lci : Nat} {p : Bool} {a : Nat} {t v : Tlb}
    (h : v ∈ (c.walked f lci p a (some t)).dtlb ++ (c.walked f lci p a (some t)).itlb ++ (c.walked f lci p a (some t)).stlb)
    (hc : v.covers lci p a = true) : v = t := by
  rcases List.mem_append.1 h with h | h
  · have h : (if f then none else some t) = some v ∨ (if f then some t else none) = some v :=
      (List.mem_append.1 h).imp (tlbWalked_covers · hc) (tlbWalked_covers · hc)
    cases f <;> simpa [eq_comm] using h
  · exact (Option.some.inj (stlbWalked_covers h hc)).symm

/-- A core after its walk of an address. -/
theorem walkCore_core (s : State) (n lci : Nat) (p : Bool) (a : Nat) (k : AccKind) :
    (s.walkCore n lci p a k).2.core n =
      (s.core n).walked (k == .fetch) lci p a (s.walkOn (dieOf n) lci p a k).1.entry? := by
  rw [State.walkCore, State.modCore, State.core_setCore, if_pos rfl]
  rfl

/-- A walk by a core with a resident team of the chip leaves its outcome where the address lies in this module. -/
theorem exec_walk_here {s : State} {n : Nat} {lci : BitVec 8} {va : DWord} {k : BitVec 2} {t : Tlb} {a : Nat}
    (hr : ∃ u ∈ s.residents n, u.id.lci = lci.toNat)
    (hw : (s.walkOn (dieOf n) lci.toNat false va.toNat (walkKind k)).1 = .here t a) :
    exec (.translationWalk n lci va k) s = .next (s.walkCore n lci.toNat false va.toNat (walkKind k)).2 := by
  have hany : (s.residents n).any (fun u => u.id.lci == lci.toNat) = true := by simpa using hr
  have hx : (s.walkCore n lci.toNat false va.toNat (walkKind k)).1 = .here t a := hw
  change execTranslationWalk n lci va k s = _
  simp only [execTranslationWalk, hany, hx]
  rfl

/-! ### The end of an access -/

/-- Pending times after those of a list of scopes have been raised (04 R125). -/
theorem smGet_raised (t : Nat) (ks : List Nat) (p : SMap Nat) (k : Nat) :
    smGet 0 (ks.foldl (fun p k => smSet 0 p k (max t (smGet 0 p k))) p) k =
      if k ∈ ks then max t (smGet 0 p k) else smGet 0 p k := by
  induction ks generalizing p with
  | nil => simp
  | cons j r ih =>
    rw [List.foldl_cons, ih, smGet_smSet]
    by_cases hj : j = k
    · subst hj
      simp
    · have : k ≠ j := fun h => hj h.symm
      simp [hj, this]

/-- A raised scope's pending time is at least the time of the write, whatever is then raised at system scope. -/
theorem le_raised (g : Group) (team : Bool) (t p : Nat) {k : Nat} (hk : k ∈ raisedScopes team) :
    t ≤ smGet 0 ((g.raise team t).raiseSystem p).ord.pend k := by
  have h : t ≤ smGet 0 (g.raise team t).ord.pend k := by
    rw [Group.raise, smGet_raised, if_pos hk]
    exact le_max_left _ _
  rw [Group.raiseSystem, smGet_smSet]
  split
  · next h5 => exact h.trans (h5 ▸ le_max_right _ _)
  · exact h

/-- A counter's drop that falls due changes nothing else. -/
theorem Group.due_eq (g : Group) (j : Option Nat) :
    g.due j = { g with ord := { g.ord with drops := g.ord.drops ++ j.toList } } := by
  cases j with
  | none => simp [Group.due]
  | some k => rfl

/-- Landed writes leave what a group's order keeps but the writes in flight (05 R166). -/
theorem Group.land_ord (g : Group) (ws : List Wr) (acc : Nat) : ∃ fl, (g.land ws acc).ord = { g.ord with flights := fl } := by
  unfold Group.land
  dsimp only
  rw [Group.foldl_setKey_eq]
  exact ⟨_, rfl⟩

/-- Landed writes change a lane in its predicates alone. -/
theorem Group.land_lane (g : Group) (ws : List Wr) (acc l : Nat) : ∃ p, (g.land ws acc).lane l = { g.lane l with preds := p } :=
  Group.lane_foldl_setKey _ _ l

/-- A group after an access: its writes have landed, and of the rest only its order has changed. -/
theorem Group.ended_eq (g : Group) (a : Access) (d : Desc) (eff : Nat) :
    ∃ fl sc, let u := g.land (a.writes d) a.id
      g.ended a d eff = { u with ord := { g.ord with
        flights := fl, scUntil := sc, holds := g.ord.holds.filter fun h => h != Hold.answer a.id
        pend := if a.isStore then ((g.raise (a.isSc || a.isClear) eff).raiseSystem a.posted).ord.pend else g.ord.pend
        drops := g.ord.drops ++ a.ctr.toList } } := by
  obtain ⟨fl, hfl⟩ := Group.land_ord g (a.writes d) a.id
  refine ⟨fl, if a.isSc && a.isStore then max g.ord.scUntil eff else g.ord.scUntil, ?_⟩
  simp only [Group.ended, Group.due_eq, hfl]
  cases a.isStore <;> rfl

/-- An access whose parts are all answered, that clears nothing and brings no cause, ends for its group (10 R284). -/
theorem exec_accessAnswer {s : State} {n : Nat} {a : Access} {t : Team}
    (ha : s.traffic.accesses.find? (fun a => a.id == n) = some a) (ho : a.open_ = []) (ht : s.team? a.team = some t)
    (hcl : a.isClear = false) (hd : ∀ d k p, a.dst ≠ .woclr d k p) (hc : a.cause = none) :
    exec (.accessAnswer n) s =
      .next ((s.modTraffic fun x => { x with accesses := x.accesses.filter fun b => b.id != a.id }).landGroup a.team a.group
        fun g => g.ended a t.desc a.effect) := by
  have hu : ∀ f, (s.modTraffic f).team? a.team = some t := fun _ => ht
  have hb : ∀ u : State, u.bringCause a t = u := fun u => by simp only [State.bringCause, hc]
  change execAccessAnswer n s = _
  simp only [execAccessAnswer, ha, ho, List.isEmpty_nil, if_true, State.finishAccess, hu, hb, hcl, Bool.false_eq_true, if_false]

/-! ### Shootdowns -/

/-- A die takes its part of the shootdown that runs; the last acknowledgement leads to its step 3 (02 R75). -/
theorem exec_shootDieAck {s : State} {n : Nat} {die : BitVec 4} {sh x : Shoot} {r : List Shoot} (hs : s.hub.shoots = sh :: r)
    (hq : sh.seq = n) (hx : (s.shootStep sh die.toNat).hub.shoots.find? (fun x => x.seq == n) = some x) :
    exec (.shootDieAck n die) s = .next ((s.shootStep sh die.toNat).shootGoesOn x) := by
  change execShootDieAck n die s = _
  simp only [execShootDieAck, hs, hq, hx, ne_eq, not_true_eq_false, if_false]

/-- A shootdown goes on when every die in service has acknowledged it. -/
theorem shootGoesOn_eq (s : State) (sh : Shoot) :
    let v := if sh.moved then s else s.askTransition sh
    s.shootGoesOn sh = if s.shootAcked sh then (if v.shootHeard sh.seq then v.endShoot sh stOk else v) else s := by
  unfold State.shootGoesOn
  cases s.shootAcked sh <;> rfl

/-- A die that has not acknowledged in time ends the shootdown and is retired (02 R78). -/
theorem exec_shootTimeout {s : State} {n : Nat} {die : BitVec 4} {sh : Shoot} {r : List Shoot} (hs : s.hub.shoots = sh :: r)
    (hq : sh.seq = n) (hl : sh.start + 1000000 ≤ s.gtc) (ha : die.toNat ∉ sh.acked) (hd : die.toNat ∉ s.hub.retiredDies) :
    exec (.shootTimeout n die) s = .next (((s.endShoot sh stTimeout).postPf 0x0024 n die.toNat).retireDie die.toNat) := by
  change execShootTimeout n die s = _
  simp only [execShootTimeout, hs]
  rw [if_neg]
  simp only [Bool.or_eq_true, decide_eq_true_eq, List.contains_iff_mem, not_or]
  exact ⟨⟨⟨fun h => h hq, by omega⟩, ha⟩, hd⟩

/-- Settles O55: each event under its condition, and what the end of an access makes of its group. -/
theorem memoryEvents : Obligations.MemoryEvents := by
  unfold Obligations.MemoryEvents
  refine ⟨fun s n => ⟨?_, ?_, ?_, ?_, ?_, ?_, ?_, ?_⟩, fun g a d eff => ?_⟩
  · intro lci va t a hr hw
    refine ⟨_, exec_walk_here (k := 0) hr hw, ?_⟩
    rw [walkCore_core]
    have he : (s.walkOn (dieOf n) lci.toNat false va.toNat (walkKind 0)).1.entry? = some t := congrArg Xl.entry? hw
    rw [he]
    exact ⟨mem_tlbWalked _ _ _ _ _ _, mem_stlbWalked _ _ _ _ _, fun v hv hc => walked_covers hv hc, rfl, rfl, rfl⟩
  · intro t ht hk
    change execStoreAccept n s = _
    simp [execStoreAccept, ht, hk]
  · intro t ht hk
    change execReadService n s = _
    simp [execReadService, ht, hk]
  · exact fun a t ha ho ht hcl hd hc => exec_accessAnswer ha ho ht hcl hd hc
  · exact fun _ _ => rfl
  · intro pchip line w hw
    change execWcbAgeExpiry n pchip line s = _
    rw [execWcbAgeExpiry, hw]
    rfl
  · intro die sh r x hs hq hx
    have hxq : x.seq = n := by simpa using List.find?_some hx
    rw [exec_shootDieAck hs hq hx, shootGoesOn_eq, hxq]
  · exact fun die sh r hs hq hl ha hd => exec_shootTimeout hs hq hl ha hd
  · obtain ⟨fl, sc, he⟩ := Group.ended_eq g a d eff
    dsimp only
    rw [he]
    refine ⟨?_, fun k hk hne => ?_, rfl, rfl, fun hst k hk => ?_, fun hst => if_neg (by simp [hst]), fun l _ => ?_⟩
    · simp
    · exact List.mem_filter.2 ⟨hk, by simpa using hne⟩
    · simpa [hst] using le_raised g _ eff a.posted hk
    · obtain ⟨p, hp⟩ := Group.land_lane g (a.writes d) a.id l
      exact ⟨(congrArg Lane.pc hp :), (congrArg Lane.st hp :)⟩

end Sys2Proof.Machine
end

section
/-! SUPPORT. Bytes of a team's scratchpad after a store (03 R96, 11 R324), the team that a change leaves, and statement O25. -/

namespace Sys2Proof.Machine

/-! ### Teams after a change -/

/-- A change of a team that exists replaces it. -/
theorem modTeam_eq {s : State} {id : TeamId} {t : Team} (h : s.team? id = some t) (f : Team → Team) :
    s.modTeam id f = s.setTeam { f t with id := id } := by
  rw [State.modTeam, h]

/-- A team that has been changed. -/
theorem team?_modTeam_same {s : State} {id : TeamId} {t : Team} (h : s.team? id = some t) (f : Team → Team) :
    (s.modTeam id f).team? id = some { f t with id := id } := by
  rw [modTeam_eq h, State.team?_setTeam, if_pos rfl, h]
  rfl

/-- Another team than the one that has been changed. -/
theorem team?_modTeam_ne {s : State} {i id : TeamId} (h : id ≠ i) (f : Team → Team) : (s.modTeam i f).team? id = s.team? id := by
  unfold State.modTeam
  split
  · rw [State.team?_setTeam, if_neg h]
  · rfl

/-! ### Bytes -/

/-- A key of a map whose entries have been filtered by their keys. -/
theorem smGet_filter_key {α : Type} (d : α) (m : SMap α) (p : Nat → Bool) (k : Nat) :
    smGet d (m.filter fun e => p e.1) k = if p k then smGet d m k else d := by
  induction m with
  | nil => simp
  | cons e r ih =>
    obtain ⟨j, v⟩ := e
    rw [List.filter_cons]
    by_cases hk : j = k
    · subst hk
      by_cases hj : p j = true <;> simp [hj, smGet, ih]
    · by_cases hj : p j = true <;> simp [hj, hk, smGet, ih]

/-- A byte that a store writes. -/
theorem spadWrite_byte_in (t : Team) (ofs : Nat) (l : List Byte) {k : Nat} (h : k < l.length) :
    smGet 0 (t.spadWrite ofs l).spad (ofs + k) = l.getD k 0 := by
  rw [Team.spadWrite, smGet_smWrite, dif_pos ⟨by omega, by omega⟩]
  simp [h]

/-- A byte beside those that a store writes. -/
theorem spadWrite_byte_out (t : Team) (ofs : Nat) (l : List Byte) {k : Nat} (h : k < ofs ∨ ofs + l.length ≤ k) :
    smGet 0 (t.spadWrite ofs l).spad k = smGet 0 t.spad k := by
  rw [Team.spadWrite, smGet_smWrite, dif_neg (by omega)]

/-- The poison marks that a store leaves: none of the bytes it writes, and all the others (11 R324). -/
theorem spadWrite_poison (t : Team) (ofs : Nat) (l : List Byte) (k : Nat) :
    smGet false (t.spadWrite ofs l).spadPoison k = if ofs ≤ k ∧ k < ofs + l.length then false else smGet false t.spadPoison k := by
  rw [Team.spadWrite, smGet_filter_key false t.spadPoison (fun i => !(decide (ofs ≤ i) && decide (i < ofs + l.length)))]
  by_cases h : ofs ≤ k ∧ k < ofs + l.length
  · rw [if_pos h, if_neg (by simp [h])]
  · rw [if_neg h, if_pos (by simp; omega)]

/-- Settles O25: the store writes the owner's bytes (`Team.spadWrite`) and replaces that team alone. -/
theorem scratchpadStoreFrame : Obligations.ScratchpadStoreFrame := by
  unfold Obligations.ScratchpadStoreFrame
  intro s t o win a l ofs hat ho
  have hput : s.spadPut t win a l = s.modTeam o.id fun u => u.spadWrite ofs l := by rw [State.spadPut, hat]
  rw [hput]
  refine ⟨o.spadWrite ofs l, team?_modTeam_same ho _, modTeam_eq ho _, fun k hk => spadWrite_byte_in o ofs l hk,
    fun k hk => spadWrite_byte_out o ofs l hk, fun k hk => ?_, fun k hk => ?_, Team.spadWrite_frame o ofs l⟩
  · rw [spadWrite_poison, if_neg (by omega)]
  · rw [spadWrite_poison, if_pos (by omega)]

end Sys2Proof.Machine
end

section
/-! SUPPORT. Instructions that post a request and are answered later (09 R276, 10 R304): what their issue leaves, the posted
SMOVE and LAUNCH, and statement O38. -/

namespace Sys2Proof.Machine

/-! ### Groups that wait for an answer -/

/-- The counters of a group are no keys. -/
@[simp] theorem Group.bump_key (g : Group) (j : Option Nat) (l k : Nat) : (g.bump j).key l k = g.key l k := by
  cases j <;> rfl

/-- A counter that rises leaves the lanes. -/
@[simp] theorem Group.bump_lane (g : Group) (j : Option Nat) (l : Nat) : (g.bump j).lane l = g.lane l := by
  cases j <;> rfl

/-- The issued lanes step, and no other lane. -/
theorem advance_lane (x : Ix) (g : Group) {l : Nat} (hl : l < 32) :
    (x.advance g).lane l = if x.cur.issued.getLsbD l then { g.lane l with pc := x.cur.next } else g.lane l :=
  Group.lane_modLanes g x.cur.issued (fun _ y => { y with pc := x.cur.next }) l hl

/-- Lanes alone change as they step. -/
theorem advance_eq (x : Ix) (g : Group) : x.advance g = { g with lanes := (x.advance g).lanes } := Group.modLanes_eq _ _ _

/-- Stepping lanes keep their registers and predicates. -/
theorem advance_key (x : Ix) (g : Group) {l : Nat} (hl : l < 32) (k : Nat) : (x.advance g).key l k = g.key l k := by
  have hr : (x.advance g).regs = g.regs := by rw [advance_eq]
  have hp : ((x.advance g).lane l).preds = (g.lane l).preds := by
    rw [advance_lane x g hl]
    split <;> rfl
  simp only [Group.key, hr, hp]

/-- An instruction that is answered later: its lanes step, its counter rises, and its writes are announced (06 R196). -/
theorem reserve_ends (x : Ix) (sc : Sched) (ws : List Wr) (c : Cover) (acc : Nat) (pair : Bool) :
    EndsWith x sc [] noWrite x.stepped (x.put (x.advance ((x.g.reserve ws c acc pair).bump (setCtr sc)))) := by
  refine ⟨_, rfl, fun l k hl _ => ?_, fun l hl => ⟨(x.g.lane l).preds, ?_⟩, ?_, ?_, ?_⟩
  · rw [advance_key x _ hl, Group.bump_key]
    rfl
  · rw [advance_lane x _ hl, Group.bump_lane, Ix.stepped]
    split <;> rfl
  all_goals
    rw [advance_eq]
    cases setCtr sc <;> simp [Group.bump, Group.reserve]

/-- What such an instruction has posted stands in the state that it leaves. -/
theorem EndsWith.traffic_eq {x : Ix} {sc : Sched} {d : List Nat} {w : Nat → Nat → Option Word} {lane : Nat → Lane} {t : State}
    (h : EndsWith x sc d w lane t) : t.traffic = x.s.traffic := by
  obtain ⟨g, rfl, -⟩ := h
  rfl

/-! ### SMOVE -/

/-- The core that the place of an SMOVE's third source names (R304). -/
def Ix.smoveCore (x : Ix) (c : Nat) : Nat :=
  ((x.s.chip? x.t.id.lci).bind fun ch => ch.place placeCore x.cur.core (bits (c / 2 ^ 32) 0 12)).getD 0

/-- The transfer that an SMOVE posts (Table 3.8 step 1). -/
def Ix.smoveRec (x : Ix) (f : FmtR) (core : Nat) : Smove :=
  let a := x.rd x.low f.sa
  let b := x.rd x.low f.sb
  let c := x.rd x.low f.sc
  { id := x.s.fresh.1, src := x.t.id, group := x.cur.group, dst := { x.t.id with index := c % 2 ^ 32 }, core := core,
    a := a % 2 ^ 32, b := b % 2 ^ 32, len := bits (c / 2 ^ 32) 12 12, sbar := smoveBar (a / 2 ^ 32),
    rbar := smoveBar (b / 2 ^ 32), accepted := false, ctr := setCtr f.sched, stDst := f.dst, active := x.active }

/-- The context of an SMOVE once its transfer is posted behind an OUTBOUND entry (03 R105). -/
def Ix.smovePosted (x : Ix) (m : Smove) : Ix :=
  Ix.withTeam { x with s := x.s.fresh.2.modTraffic fun y => { y with smoves := y.smoves ++ [m] } }
    { x.t with ranges := x.t.ranges ++ [{ state := 3, base := m.a / 128, len := m.len, mv := some m.id }] }

/-- SMOVE past its checks posts its transfer. -/
theorem exec_smove {s : State} {x : Ix} {f : FmtR} (h : Latched s f.sched x) (ha : x.active ≠ 0)
    (hop : x.operandTrap (x.own (x.t.desc.regsOf f.sa ++ x.t.desc.regsOf f.sb ++ x.t.desc.regsOf f.sc)) (x.t.desc.regsOf f.dst) = none)
    (hs : x.smoveTrap (x.rd x.low f.sa) (x.rd x.low f.sb) (x.rd x.low f.sc) = none) :
    ∃ t, exec (.smove f) s = .next t ∧
      EndsWith (x.smovePosted (x.smoveRec f (x.smoveCore (x.rd x.low f.sc)))) f.sched [] noWrite x.stepped t := by
  obtain ⟨-, hg, -, -⟩ := latched_facts h
  set y := x.smovePosted (x.smoveRec f (x.smoveCore (x.rd x.low f.sc)))
  have hst : y.stepped = x.stepped := stepped_congr rfl fun l => by rw [hg]; rfl
  refine ⟨_, ?_, hst ▸ reserve_ends y f.sched ((lanesOf x.active).flatMap fun l => x.dst l f.dst 0) (y.cover f.sched none)
    x.s.fresh.1 y.cur.first⟩
  change execSmove f s = _
  rw [execSmove, issue_latched h]
  simp only [hop, if_neg ha, hs]
  rfl

/-! ### LAUNCH -/

/-- The request that a LAUNCH of the record at `va` posts (09 R276). -/
def Ix.launchRec (y : Ix) (f : FmtR) (va : Nat) : LaunchReq :=
  { id := y.s.fresh.1, team := y.t.id, group := y.cur.group, lq := y.rd y.low f.sb, va := va, priv := y.t.desc.priv,
    dst := f.dst, active := y.active, ctr := setCtr f.sched }

/-- The context of a LAUNCH once its request is posted. -/
def Ix.launchPosted (y : Ix) (q : LaunchReq) : Ix :=
  { y with s := y.s.fresh.2.modTraffic fun z => { z with launches := z.launches ++ [q] } }

/-- LAUNCH past its release and the checks of its record's address posts its request. -/
theorem exec_launch {s : State} {x y : Ix} {l : List LaneX} {f : FmtR} (h : Latched s f.sched x) (ha : x.active ≠ 0)
    (hop : x.operandTrap (x.via f.perm (x.t.desc.regsOf f.sa) ++ x.own (x.t.desc.regsOf f.sb)) (x.t.desc.regsOf f.dst) = none)
    (hb : x.boundary true = none) (hr : x.awaitRel .device = none) (hc : x.launchCheck (x.rdVia f.perm x.low f.sa) = .ok y l) :
    ∃ t, exec (.launch f) s = .next t ∧
      EndsWith (y.launchPosted (y.launchRec f (x.rdVia f.perm x.low f.sa))) f.sched [] noWrite y.stepped t := by
  set z := y.launchPosted (y.launchRec f (x.rdVia f.perm x.low f.sa))
  refine ⟨_, ?_, reserve_ends z f.sched ((lanesOf y.active).flatMap fun n => y.dst n f.dst 0) (z.cover f.sched none)
    y.s.fresh.1 z.cur.first⟩
  change execLaunch f s = _
  rw [execLaunch, issue_latched h]
  simp only [hop, if_neg ha, Ix.fenced, hb, hr, hc]
  rfl

/-- Settles O38: both instructions post their request and end as `reserve_ends` says. -/
theorem smoveAndLaunchPost : Obligations.SmoveAndLaunchPost := by
  unfold Obligations.SmoveAndLaunchPost
  exact ⟨fun f s x h ha hop hs => ⟨x.smoveCore (x.rd x.low f.sc), exec_smove h ha hop hs⟩,
    fun f s x y l h ha hop hb hr hc => exec_launch h ha hop hb hr hc⟩

end Sys2Proof.Machine
end

section
/-! SUPPORT. Tags and windows (03 R98 to R108, 10 R300 to R302): a tag instruction's lanes in their order, the named window,
the end of a claim or release, and statement O23. -/

namespace Sys2Proof.Machine

/-! ### Issue contexts after a change -/

/-- A context whose team has changed outside its groups: its lanes step as before. -/
theorem withTeam_stepped {s : State} {sc : Sched} {x : Ix} (h : Latched s sc x) {t : Team} (ht : t.groups = x.t.groups) :
    (x.withTeam t).stepped = x.stepped := by
  obtain ⟨-, hg, -, -⟩ := latched_facts h
  refine stepped_congr rfl fun l => ?_
  rw [hg, Ix.withTeam, Team.group, Team.group, ht]

/-- The active lanes do not depend on the state. -/
@[simp] theorem withState_active (x : Ix) (u : State) : (x.withState u).active = x.active := by
  unfold Ix.withState
  split <;> rfl

/-- A changed team keeps the descriptor that its group names registers by, where the change does. -/
theorem withState_modTeam_desc {s : State} {sc : Sched} {x : Ix} (h : Latched s sc x) (i : TeamId) {f : Team → Team}
    (hf : ∀ u, (f u).desc = u.desc) : (x.withState (x.s.modTeam i f)).t.desc = x.t.desc := by
  obtain ⟨-, -, ht, -⟩ := latched_facts h
  unfold Ix.withState
  by_cases hi : x.t.id = i
  · rw [← hi, team?_modTeam_same ht]
    exact hf x.t
  · rw [team?_modTeam_ne hi, ht]

/-- The writes to a destination depend on the team's descriptor alone. -/
theorem wr_congr {x y : Ix} (h : y.t.desc = x.t.desc) (m : Mask) (o : Opd) (val : Nat → Nat) : y.wr m o val = x.wr m o val := by
  funext l k
  simp only [Ix.wr, h]

/-! ### The tag table -/

/-- The active lanes take a tag operation one at a time, in increasing lane number (10 R301). -/
def Ix.eachTag (x : Ix) (f : FmtR) (go : Team → Nat → Nat → Team × Nat) : Team × List Wr :=
  (lanesOf x.active).foldl (fun (a : Team × List Wr) l =>
    let v := go a.1 (x.rd (f.perm.from l) f.sa % 2 ^ 57) (x.rd l f.sb)
    (v.1, a.2 ++ x.dst l f.dst v.2)) (x.t, [])

/-- A tag instruction past its checks, of a team with a partition. -/
theorem onTags_runs {x : Ix} {f : FmtR} (ha : x.active ≠ 0) (hc : x.t.tagCount ≠ 0)
    (hop : x.operandTrap (x.sources (opsR2 f)) (x.t.desc.regsOf f.dst) = none) (go : Team → Nat → Nat → Team × Nat) :
    x.onTags f go = (x.withTeam (x.eachTag f go).1).finish f.sched none (x.eachTag f go).2 := by
  rw [opsR2] at hop
  simp only [Ix.onTags, hop, if_neg ha, if_neg hc, Ix.eachTag]

/-- An insertion leaves the groups. -/
theorem tagInsert_groups (t : Team) (k slot : Nat) : (t.tagInsert k slot).1.groups = t.groups := by
  unfold Team.tagInsert
  dsimp only
  split
  · rfl
  · split <;> rfl

/-- A removal leaves the groups. -/
theorem tagRemove_groups (t : Team) (k : Nat) : (t.tagRemove k).1.groups = t.groups := by
  unfold Team.tagRemove
  split <;> rfl

/-- Lanes that take tag operations leave their team's groups, where each operation does. -/
theorem eachTag_groups (x : Ix) (f : FmtR) {go : Team → Nat → Nat → Team × Nat} (hg : ∀ t k b, (go t k b).1.groups = t.groups) :
    (x.eachTag f go).1.groups = x.t.groups := by
  unfold Ix.eachTag
  refine List.foldlRecOn (motive := fun (a : Team × List Wr) => a.1.groups = x.t.groups) (lanesOf x.active) _ rfl fun a ih l _ => ?_
  exact (hg _ _ _).trans ih

/-- A tag operation that leaves the team gives each lane its value. -/
theorem eachTag_lookup (x : Ix) (f : FmtR) (val : Team → Nat → Nat) :
    x.eachTag f (fun t k _ => (t, val t k)) =
      (x.t, (lanesOf x.active).flatMap fun l => x.dst l f.dst (val x.t (x.rd (f.perm.from l) f.sa % 2 ^ 57))) := by
  have hfold : ∀ (ls : List Nat) (ws : List Wr),
      ls.foldl (fun (a : Team × List Wr) l => (a.1, a.2 ++ x.dst l f.dst (val a.1 (x.rd (f.perm.from l) f.sa % 2 ^ 57)))) (x.t, ws) =
        (x.t, ws ++ ls.flatMap fun l => x.dst l f.dst (val x.t (x.rd (f.perm.from l) f.sa % 2 ^ 57))) := by
    intro ls
    induction ls with
    | nil => simp
    | cons l r ih => exact fun ws => by rw [List.foldl_cons, ih, List.flatMap_cons, List.append_assoc]
  exact hfold _ []

/-- A tag instruction that changes the table ends with its lanes' writes in their order. -/
theorem onTags_ends {s : State} {x : Ix} {f : FmtR} (h : Latched s f.sched x) (ha : x.active ≠ 0) (hc : x.t.tagCount ≠ 0)
    (hop : x.operandTrap (x.sources (opsR2 f)) (x.t.desc.regsOf f.dst) = none) {go : Team → Nat → Nat → Team × Nat}
    (hg : ∀ t k b, (go t k b).1.groups = t.groups) :
    Ends (x.withTeam (x.eachTag f go).1) f.sched (lastWrite (x.eachTag f go).2) x.stepped (x.onTags f go) := by
  rw [onTags_runs ha hc hop, ← withTeam_stepped h (eachTag_groups x f hg)]
  refine finish_last _ f.sched none ?_
  exact each_key_lt (names_lt hop) (lanesOf x.active) (fun t l => go t (x.rd (f.perm.from l) f.sa % 2 ^ 57) (x.rd l f.sb)) _ (by simp)

/-- A tag instruction that leaves the table ends with each lane's value. -/
theorem onTags_lookup_ends {s : State} {x : Ix} {f : FmtR} (h : Latched s f.sched x) (ha : x.active ≠ 0) (hc : x.t.tagCount ≠ 0)
    (hop : x.operandTrap (x.sources (opsR2 f)) (x.t.desc.regsOf f.dst) = none) (val : Team → Nat → Nat) :
    Ends x f.sched (x.wr x.active f.dst fun l => val x.t (x.rd (f.perm.from l) f.sa % 2 ^ 57)) x.stepped
      (x.onTags f fun t k _ => (t, val t k)) := by
  rw [onTags_runs ha hc hop, eachTag_lookup, withTeam_self h]
  exact finish_ends x f.sched none (writes_dst (names_lt hop) x.active _)

/-- STAGL looks its key up. -/
theorem exec_stagl {s : State} {x : Ix} {f : FmtR} (h : Latched s f.sched x) :
    exec (.stagl f) s = .next (x.onTags f fun t k _ => (t, t.tagLookup k)) := by
  change execStagl f s = _
  rw [execStagl, issue_latched h]

/-- STAGI inserts its key with its slot. -/
theorem exec_stagi {s : State} {x : Ix} {f : FmtR} (h : Latched s f.sched x) :
    exec (.stagi f) s = .next (x.onTags f fun t k b => t.tagInsert k (b % 4096)) := by
  change execStagi f s = _
  rw [execStagi, issue_latched h]

/-- STAGX removes its key. -/
theorem exec_stagx {s : State} {x : Ix} {f : FmtR} (h : Latched s f.sched x) :
    exec (.stagx f) s = .next (x.onTags f fun t k _ => t.tagRemove k) := by
  change execStagx f s = _
  rw [execStagx, issue_latched h]

/-! ### Windows -/

/-- Opening and closing windows leaves the groups. -/
theorem setOpen_groups (t : Team) (k n : Nat) (b : Bool) : (t.setOpen k n b).groups = t.groups :=
  List.foldlRecOn (motive := fun (u : Team) => u.groups = t.groups) (List.range n) _ rfl fun _ ih _ _ => ih

/-- Opening and closing windows leaves the descriptor. -/
theorem setOpen_desc (t : Team) (k n : Nat) (b : Bool) : (t.setOpen k n b).desc = t.desc :=
  List.foldlRecOn (motive := fun (u : Team) => u.desc = t.desc) (List.range n) _ rfl fun _ ih _ _ => ih

/-- SWOPEN past its checks, once its release holds. -/
theorem exec_swopen {s : State} {x : Ix} {f : FmtR} (h : Latched s f.sched x) (ha : x.active ≠ 0)
    (hop : x.operandTrap (x.via f.perm (x.t.desc.regsOf f.sa) ++ x.own (x.t.desc.regsOf f.sb)) (x.t.desc.regsOf f.dst) = none)
    (hn : x.rd x.low f.sb = 0 ∨ (x.rdVia f.perm x.low f.sa + 128 * x.rd x.low f.sb ≤ x.t.spadSize ∧ x.rdVia f.perm x.low f.sa % 128 = 0))
    (hr : x.awaitRel .cluster = none) :
    let u := x.t.setOpen (x.rdVia f.perm x.low f.sa / 128) (x.rd x.low f.sb) (modBit f.mod 0)
    ∃ t, exec (.swopen f) s = .next t ∧
      Ends (x.withTeam u) f.sched (x.wr x.active f.dst fun _ =>
        if modBit f.mod 0 then 0 else x.t.heldCount (x.rdVia f.perm x.low f.sa / 128) (x.rd x.low f.sb)) x.stepped t := by
  intro u
  have hu : (x.withTeam u).t.desc = x.t.desc := setOpen_desc _ _ _ _
  rw [← withTeam_stepped h (setOpen_groups x.t _ _ _), ← wr_congr hu]
  refine ⟨_, ?_, finish_ends (x.withTeam u) f.sched none (writes_dst (by rw [hu]; exact names_lt hop) x.active _)⟩
  have hrange : ¬ (x.rd x.low f.sb ≠ 0 ∧ x.t.spadSize < x.rdVia f.perm x.low f.sa + 128 * x.rd x.low f.sb) := by omega
  have halign : ¬ (x.rd x.low f.sb ≠ 0 ∧ x.rdVia f.perm x.low f.sa % 128 ≠ 0) := by omega
  change execSwopen f s = _
  rw [execSwopen, issue_latched h]
  simp only [hop, if_neg ha, Bool.and_eq_true, bne_iff_ne, decide_eq_true_eq, if_neg hrange, if_neg halign, hr]
  rfl

/-- An instruction that names a window in an allocation acts on it (01 R21). -/
theorem onWindow_runs {x : Ix} {f : FmtR} {o : Team} {ofs : Nat} (ha : x.active ≠ 0)
    (hop : x.operandTrap (x.via f.perm (x.t.desc.regsOf f.sa)) [] = none)
    (hat : x.s.spadAt x.t true (x.rdVia f.perm x.low f.sa) 1 = some (o, ofs)) (k : Team → Nat → State) :
    x.onWindow f k = k o (ofs / 128) := by
  simp only [Ix.onWindow, hop, if_neg ha, hat]

/-- A claim or release that succeeds: the window is replaced, and the predicate is 1. -/
theorem windowDone_some_ends {s : State} {x : Ix} {f : FmtR} (h : Latched s f.sched x) (hd : x.t.desc.regsOf f.dst = []) (o : Team)
    (k : Nat) (w : Window) :
    let y := x.withState (x.s.modTeam o.id fun u => u.setWindow k w)
    Ends y f.sched (x.wr x.active f.dst fun _ => 1) y.stepped (x.windowDone f o k (some w)) := by
  intro y
  have hy : y.t.desc = x.t.desc := withState_modTeam_desc h o.id fun _ => rfl
  rw [← wr_congr hy, ← withState_active x (x.s.modTeam o.id fun u => u.setWindow k w)]
  exact finish_ends y f.sched none (writes_dst (by rw [hy, hd]; simp) y.active fun _ => 1)

/-- A claim or release that fails: the predicate is 0. -/
theorem windowDone_none_ends {s : State} {x : Ix} {f : FmtR} (h : Latched s f.sched x) (hd : x.t.desc.regsOf f.dst = []) (o : Team)
    (k : Nat) : Ends x f.sched (x.wr x.active f.dst fun _ => 0) x.stepped (x.windowDone f o k none) := by
  simp only [Ix.windowDone, withState_self h]
  exact finish_ends x f.sched none (writes_dst (by simp [hd]) x.active fun _ => 0)

section
variable {s : State} {x : Ix} {f : FmtR} {o : Team} {ofs : Nat} (h : Latched s f.sched x) (ha : x.active ≠ 0)
  (hop : x.operandTrap (x.via f.perm (x.t.desc.regsOf f.sa)) [] = none)
  (hat : x.s.spadAt x.t true (x.rdVia f.perm x.low f.sa) 1 = some (o, ofs))

include h ha hop hat

/-- SWCLAIM of an open window that is not held, once the group's reads are done. -/
theorem exec_swclaim_free (hf : (o.window (128 * (ofs / 128))).isOpen = true ∧ (o.window (128 * (ofs / 128))).held = false)
    (hr : x.s.readsDone x.t.id x.cur.group = true) :
    exec (.swclaim f) s = .next (x.windowDone f o (ofs / 128)
      (some { o.window (128 * (ofs / 128)) with held := true, hrank := x.t.gangRank })) := by
  change execSwclaim f s = _
  rw [execSwclaim, issue_latched h, onWindow_runs ha hop hat]
  simp only [hf, hr, Bool.not_false, Bool.and_self, if_true]

/-- SWCLAIM of a closed or held window fails. -/
theorem exec_swclaim_taken (hf : ¬ ((o.window (128 * (ofs / 128))).isOpen = true ∧ (o.window (128 * (ofs / 128))).held = false)) :
    exec (.swclaim f) s = .next (x.windowDone f o (ofs / 128) none) := by
  change execSwclaim f s = _
  rw [execSwclaim, issue_latched h, onWindow_runs ha hop hat]
  simp only [Bool.and_eq_true, Bool.not_eq_true', if_neg hf]

/-- SWREL of the window that the team holds, once its release holds. -/
theorem exec_swrel_mine (hm : (o.window (128 * (ofs / 128))).held = true ∧ (o.window (128 * (ofs / 128))).hrank = x.t.gangRank)
    (hr : x.awaitRel .cluster = none) :
    exec (.swrel f) s = .next (x.windowDone f o (ofs / 128) (some { o.window (128 * (ofs / 128)) with held := false, hrank := 0 })) := by
  change execSwrel f s = _
  rw [execSwrel, issue_latched h, onWindow_runs ha hop hat]
  simp only [hm, hr, beq_self_eq_true, Bool.and_self, if_true]

/-- SWREL of a window that the team does not hold fails. -/
theorem exec_swrel_other (hm : ¬ ((o.window (128 * (ofs / 128))).held = true ∧ (o.window (128 * (ofs / 128))).hrank = x.t.gangRank)) :
    exec (.swrel f) s = .next (x.windowDone f o (ofs / 128) none) := by
  change execSwrel f s = _
  rw [execSwrel, issue_latched h, onWindow_runs ha hop hat]
  simp only [Bool.and_eq_true, beq_iff_eq, if_neg hm]

end

/-- Settles O23: tag instructions end as `onTags_ends` says, SWOPEN as `exec_swopen`, claims and releases as `windowDone`. -/
theorem tagAndWindowInstructions : Obligations.TagAndWindowInstructions := by
  unfold Obligations.TagAndWindowInstructions
  constructor
  · intro f s x h ha hc hop key each ins rem
    exact ⟨⟨_, exec_stagl h, onTags_lookup_ends h ha hc hop Team.tagLookup⟩,
      ⟨_, exec_stagi h, onTags_ends h ha hc hop fun t k b => tagInsert_groups t k (b % 4096)⟩,
      ⟨_, exec_stagx h, onTags_ends h ha hc hop fun t k _ => tagRemove_groups t k⟩⟩
  · intro f s x h ha a n
    refine ⟨fun hop hn hr => exec_swopen h ha hop hn hr, ?_⟩
    intro o ofs hop hd hat w keep free mine
    refine ⟨?_, ?_, ?_, ?_⟩
    · exact fun hf hr => ⟨_, exec_swclaim_free h ha hop hat hf hr, windowDone_some_ends h hd o _ _⟩
    · exact fun hf => ⟨_, exec_swclaim_taken h ha hop hat hf, windowDone_none_ends h hd o _⟩
    · exact fun hm hr => ⟨_, exec_swrel_mine h ha hop hat hm hr, windowDone_some_ends h hd o _ _⟩
    · exact fun hm => ⟨_, exec_swrel_other h ha hop hat hm, windowDone_none_ends h hd o _⟩

end Sys2Proof.Machine
end

section
/-! SUPPORT. The events of an SMOVE (03 R107, Table 3.8, 10 R305): units that are read and that land, the end of a transfer,
posted arrivals (09 R269), and statement O39. -/

namespace Sys2Proof.Machine

/-! ### Teams and transfers -/

/-- A transfer that is found has the number it was sought by. -/
theorem smove?_id {s : State} {n : Nat} {m : Smove} (h : s.smove? n = some m) : m.id = n := by
  simpa using List.find?_some h

/-- Groups that may try again leave the records in flight. -/
@[simp] theorem clearHeld_traffic (s : State) : s.clearHeld.traffic = s.traffic := by
  unfold State.clearHeld
  split <;> rfl

/-- Groups that may try again leave a team but for its groups. -/
theorem team?_clearHeld {s : State} {id : TeamId} {t : Team} (h : s.team? id = some t) :
    ∃ g, s.clearHeld.team? id = some { t with groups := g } := by
  unfold State.clearHeld
  split
  · rw [State.team?] at h
    simp only [State.team?, List.find?_map, Function.comp_def, h, Option.map_some]
    exact ⟨_, rfl⟩
  · exact ⟨t.groups, h⟩

/-! ### Bytes that are read -/

/-- Bytes read are as many as were asked for. -/
theorem smRead_length (d : Byte) (m : SMap Byte) (a n : Nat) : (smRead d m a n).length = n := by
  induction n generalizing a with
  | zero => rfl
  | succ n ih => simp [smRead, ih]

/-- A run without poison marks none of its bytes (11 R324). -/
theorem spadBad_marks_nil {t : Team} {a n : Nat} (h : t.spadBad a n = false) :
    ((List.range n).filter fun j => t.spadBad (a + j) 1) = [] := by
  rw [List.filter_eq_nil_iff]
  intro j hj hbad
  rw [List.mem_range] at hj
  simp only [Team.spadBad, List.any_eq_true, List.any_eq_false, Bool.and_eq_true, decide_eq_true_eq, not_and] at h hbad
  obtain ⟨p, hp, ⟨hv, hlo⟩, hhi⟩ := hbad
  exact h p hp ⟨hv, by omega⟩ (by omega)

/-! ### Units that are read, and that land -/

/-- Step 3 of an accepted transfer. -/
theorem smoveStep_accepted {s : State} {n : Nat} {m : Smove} (h : s.smove? n = some m) (ha : m.accepted = true) (k : Nat) (land : Bool) :
    s.smoveStep n k land = if land then s.smovePush m k else s.smovePull m k := by
  rw [State.smoveStep, h]
  simp only [ha, Bool.not_true, Bool.false_eq_true, if_false]

/-- Units without poison that are left to read are read, and count at the sender's barrier. -/
theorem smovePull_eq {s : State} {m : Smove} {t : Team} {k : Nat} (ht : s.team? m.src = some t)
    (hb : t.spadBad (m.a + 128 * m.got) (128 * k) = false) (hk : m.got + k ≤ m.len) :
    s.smovePull m k = (s.putSmove { m with bytes := m.bytes ++ t.spadRead (m.a + 128 * m.got) (128 * k) }).countAt m.src m.sbar 0
      (-(8 * k : Nat)) := by
  have hmin : min k (m.len - m.got) = k := by omega
  simp only [State.smovePull, hmin, ht, spadBad_marks_nil hb, List.map_nil, List.append_nil]

/-- A transfer that has been read whole, without poison, lands whole, and counts at the receiver's barrier. -/
theorem smovePush_whole {s : State} {m : Smove} {u : Team} (hlen : m.bytes.length = 128 * m.len) (hm : m.marks = [])
    (hl : m.landed = 0) (hpos : 0 < m.len) (hu : (s.putSmove { m with landed := m.len }).team? m.dst = some u) :
    s.smovePush m m.len =
      ((((s.putSmove { m with landed := m.len }).modTeam m.dst fun v => v.spadWrite m.b m.bytes).watchAccess u .store 2 m.b
        (128 * m.len)).countAt m.dst m.rbar (-(8 * m.len : Nat)) 0) := by
  have hgot : m.got = m.len := by rw [Smove.got, hlen]; omega
  have htake : m.bytes.take (128 * m.len) = m.bytes := List.take_of_length_le (by omega)
  simp only [hm] at hu
  simp only [State.smovePush, hgot, hl, hm, Nat.sub_zero, Nat.min_self, Nat.zero_add, hu, if_neg hpos.ne', Nat.mul_zero,
    Nat.add_zero, List.drop_zero, htake, List.filter_nil, List.foldl_nil]

/-! ### Events -/

/-- A transfer that its receiver does not take leaves with its status (Table 3.8 step 2). -/
theorem exec_smoveAcceptance_refused {s : State} {n : Nat} {m : Smove} (h : s.smove? n = some m) (ha : m.accepted = false)
    (hv : s.smoveAnswer m ≠ 0) :
    exec (.smoveAcceptance n) s = .next
      (((s.smoveStatus m (s.smoveAnswer m)).modTeam m.src fun t => { t with ranges := t.ranges.filter fun r => r.mv != some n }).modTraffic
        fun x => { x with smoves := x.smoves.filter fun k => k.id != n }) := by
  change execSmoveAcceptance n s = _
  simp only [execSmoveAcceptance, h, ha, Bool.false_eq_true, if_false, if_neg hv]

/-- A transfer that its receiver takes counts OUTBOUND at its sender's barrier (Table 3.8 step 2). -/
theorem exec_smoveAcceptance_taken {s : State} {n : Nat} {m : Smove} (h : s.smove? n = some m) (ha : m.accepted = false)
    (hv : s.smoveAnswer m = 0) :
    exec (.smoveAcceptance n) s = .next
      ((((s.smoveStatus m 0).modTeam m.dst fun t => { t with ranges := acceptRanges t.ranges m }).modTraffic fun x => { x with
        smoves := x.smoves.map fun k => if k.id == n then { k with accepted := true } else k }).countAt m.src m.sbar 0
          (8 * m.len : Nat)) := by
  change execSmoveAcceptance n s = _
  simp only [execSmoveAcceptance, h, ha, Bool.false_eq_true, if_false, hv, if_true]

/-- What is left of an accepted transfer is read and lands, and its entries end (Table 3.8 step 4). -/
theorem exec_smoveEnd {s : State} {n : Nat} {m : Smove} (h : s.smove? n = some m) (ha : m.accepted = true) :
    exec (.smoveEnd n) s = .next
      ((((s.smoveStep n m.len false).smoveStep n m.len true).smoveRights m).modTraffic fun x => { x with
        smoves := x.smoves.filter fun k => k.id != n }) := by
  change execSmoveEnd n s = _
  simp only [execSmoveEnd, h, ha, Bool.not_true, Bool.false_eq_true, if_false]

/-- A turn of the agenda on which units of a transfer move. -/
theorem step_smove {s : State} {n k : Nat} {land : Bool} {r : List Turn}
    (h : s.agenda = (if land then Turn.smoveLand n k else Turn.smoveRead n k) :: r) :
    step s = .next ((({ s with agenda := r } : State).clearHeld.smoveStep n k land).settle) := by
  cases land <;> simp only [step, nextTurn, h] <;> rfl

/-- The oldest posted arrival of its sender is applied at the owner (09 R269). -/
theorem exec_windowBarrierUpdate {s : State} {n : Nat} {b : BarUpd} {t : Team} (h : s.traffic.barUpds.find? (fun k => k.id == n) = some b)
    (hfirst : ∀ v ∈ s.traffic.barUpds, v.team = b.team → v.sender = b.sender → v.sgroup = b.sgroup → b.id ≤ v.id)
    (ht : s.team? b.team = some t) (hb : t.bars.contains b.ofs = true) :
    exec (.windowBarrierUpdate n) s = .next ((((s.modTraffic fun x => { x with
      barUpds := x.barUpds.filter fun v => v.id != n }).watchAccess t .atomic 1 b.ofs 16).barUpdate b.team b.ofs b.n b.u 0).1) := by
  have hnone : (s.traffic.barUpds.any fun v =>
      v.team == b.team && v.sender == b.sender && v.sgroup == b.sgroup && decide (v.id < b.id)) = false := by
    simp only [List.any_eq_false, Bool.and_eq_true, beq_iff_eq, decide_eq_true_eq, not_and, not_lt]
    exact fun v hv h => hfirst v hv h.1.1 h.1.2 h.2
  have ht' : ∀ f, (s.modTraffic f).team? b.team = some t := fun _ => ht
  change execWindowBarrierUpdate n s = _
  simp only [execWindowBarrierUpdate, h, hnone, Bool.false_eq_true, if_false, ht', hb, if_true]

/-- Settles O39: each event under its condition; the end of a transfer is its two halves of step 3, then step 4. -/
theorem smoveEvents : Obligations.SmoveEvents := by
  unfold Obligations.SmoveEvents
  intro n s m b
  refine ⟨exec_smoveAcceptance_refused, fun h ha hv => ⟨_, rfl, exec_smoveAcceptance_taken h ha hv⟩, ?_, ?_, ?_⟩
  · intro h ha units t u data ht hd hbad hbytes hmarks hl hpos got read put hread hput landed
    have hgot : m.got = 0 := by rw [Smove.got, hbytes]; rfl
    have hlen : data.length = 128 * m.len := by rw [hd, Team.spadRead, smRead_length]
    have hpull : s.smovePull m m.len = read := by
      rw [smovePull_eq ht (by rwa [hgot]) (by omega), hgot, hbytes, List.nil_append, Nat.mul_zero, Nat.add_zero, ← hd]
    obtain rfl : m.id = n := smove?_id h
    rw [exec_smoveEnd h ha, smoveStep_accepted h ha, if_neg Bool.false_ne_true, hpull, smoveStep_accepted hread ha, if_pos rfl]
    rw [show read.smovePush got m.len = landed.countAt m.dst m.rbar (-units) 0 from
      smovePush_whole (m := got) hlen hmarks hl hpos hput]
    rfl
  · intro k land t r h ha ht hbad hk hag v
    obtain ⟨g, hg⟩ := team?_clearHeld (s := { s with agenda := r }) ht
    have hv : v.smove? n = some m := by rw [State.smove?, clearHeld_traffic]; exact h
    rw [step_smove hag, smoveStep_accepted hv ha]
    cases land
    · rw [if_neg Bool.false_ne_true, smovePull_eq hg hbad hk]
      rfl
    · rfl
  · exact fun h hfirst t ht hb => exec_windowBarrierUpdate h hfirst ht hb

end Sys2Proof.Machine
end

section
/-! SUPPORT. The checks that SMOVE and LAUNCH pass (10 R304, R281), the end of a collective card (12 R351), the drain bound of
a chip (14 R385, R386), and statement O60. -/

namespace Sys2Proof.Machine

/-! ### Checks that pass -/

/-- SMOVE passes the checks of R304. -/
theorem smoveTrap_none {x : Ix} {a b c core : Nat} {ch : Chip} (h1 : 1 ≤ bits (c / 2 ^ 32) 12 12) (h2 : bits (c / 2 ^ 32) 12 12 ≤ 2560)
    (h0 : bits (c / 2 ^ 32) 24 8 = 0) (ha : a % 2 ^ 32 % 128 = 0) (hb : b % 2 ^ 32 % 128 = 0)
    (hbar : ∀ o, smoveBar (a / 2 ^ 32) = some o → o ∈ x.t.bars) (hsz : a % 2 ^ 32 + 128 * bits (c / 2 ^ 32) 12 12 ≤ x.t.spadSize)
    (hr : x.t.rightsOk (a % 2 ^ 32) (128 * bits (c / 2 ^ 32) 12 12) = true) (hu : x.s.rangesUsed x.cur.core < 64)
    (hc : x.s.chip? x.t.id.lci = some ch) (hp : ch.place placeCore x.cur.core (bits (c / 2 ^ 32) 0 12) = some core) :
    x.smoveTrap a b c = none := by
  have hpos : bits (c / 2 ^ 32) 12 12 ≠ 0 := by omega
  have hlen : ¬ 2560 < bits (c / 2 ^ 32) 12 12 := by omega
  have hrange : ¬ x.t.spadSize < a % 2 ^ 32 + 128 * bits (c / 2 ^ 32) 12 12 := by omega
  have hused : ¬ 64 ≤ x.s.rangesUsed x.cur.core := by omega
  cases hbo : smoveBar (a / 2 ^ 32) with
  | none =>
    simp only [Ix.smoveTrap, hpos, hlen, h0, ha, hb, hbo, hrange, hr, hused, hc, hp]
    rfl
  | some o =>
    have hin : x.t.bars.contains o = true := List.contains_iff_mem.2 (hbar o hbo)
    simp only [Ix.smoveTrap, hpos, hlen, h0, ha, hb, hbo, hin, hrange, hr, hused, hc, hp]
    rfl

/-- The core of an SMOVE whose place resolves. -/
theorem smoveCore_of {x : Ix} {c core : Nat} {ch : Chip} (hc : x.s.chip? x.t.id.lci = some ch)
    (hp : ch.place placeCore x.cur.core (bits (c / 2 ^ 32) 0 12) = some core) : x.smoveCore c = core := by
  rw [Ix.smoveCore, hc, Option.bind_some, hp]
  rfl

/-- The address of a launch record in range, aligned, and translated (R281). -/
theorem launchCheck_ok {x : Ix} {va : Nat} (hv : va < 2 ^ 57) (ha : va % 64 = 0)
    (ht : failedTrap (x.s.xlateLanes x.cur.core x.t.id.lci false .read [(x.low, va)]).1 = none) :
    x.launchCheck va = .ok (x.withState (x.s.xlateLanes x.cur.core x.t.id.lci false .read [(x.low, va)]).2)
      (x.s.xlateLanes x.cur.core x.t.id.lci false .read [(x.low, va)]).1 := by
  rw [Ix.launchCheck, if_neg (by omega), if_neg (by omega)]
  simp only [ht]

/-! ### The end of a card -/

/-- A card that may end: it has failed, or all its chunks and its peers' are done, and nothing of it is under way. -/
def State.cardMayEnd (s : State) (c : Card) : Prop :=
  c.begun = [] ∧ c.counting = [] ∧ c.held = false ∧ c.effect ≤ s.gtc ∧
    (c.outcome ≠ 0 ∨ (c.started = true ∧ c.chunks = [] ∧ ∀ x ∈ s.matched c, x.chunks = [] ∨ x.outcome ≠ 0))

/-- What keeps a card from its end. -/
def State.cardKept (s : State) (c : Card) : Bool :=
  let peers := (s.matched c).all fun x => x.chunks.isEmpty || x.outcome != 0
  !c.begun.isEmpty || !c.counting.isEmpty || c.held || s.gtc < c.effect ||
    (c.outcome == 0 && (!c.started || !c.chunks.isEmpty || !peers))

/-- Nothing keeps a card that may end. -/
theorem cardKept_of_mayEnd {s : State} {c : Card} (h : s.cardMayEnd c) : s.cardKept c = false := by
  obtain ⟨hb, hn, hh, he, ho⟩ := h
  have ht : ¬ s.gtc < c.effect := by omega
  rcases ho with ho | ⟨hs, hk, hp⟩
  · simp [State.cardKept, hb, hn, hh, ht, ho]
  · simpa [State.cardKept, hb, hn, hh, ht, hs, hk] using fun _ => hp

/-- The outcome with which a card ends: done, or what it failed with. -/
def Card.endOutcome (c : Card) : Nat := if c.outcome = 0 then 1 else c.outcome

/-- A changed card leaves the time. -/
@[simp] theorem modCard_gtc (s : State) (n : Nat) (f : Card → Card) : (s.modCard n f).gtc = s.gtc := rfl

/-- A card that does not own its memory goes. -/
theorem exec_collCardEnd_skip {s : State} {n : Nat} {c : Card} (hc : s.card? n = some c) (h : s.cardMayEnd c) (hs : c.skip = true) :
    exec (.collCardEnd n) s = .next (s.cardGone c c.endOutcome 0) := by
  have hk := cardKept_of_mayEnd h
  change execCollCardEnd n s = _
  rw [State.cardKept] at hk
  simp only [execCollCardEnd, hc, hk, hs, if_true]
  rfl

/-- A card that owns its memory writes its status and goes. -/
theorem exec_collCardEnd_done {s v : State} {n t : Nat} {c : Card} {l : List Byte} (hc : s.card? n = some c) (h : s.cardMayEnd c)
    (hs : c.skip = false)
    (he : (s.modCard n fun x => { x with outcome := c.endOutcome }).endRecord (c.job c.id) endKey c.va 64 (16 * c.dt + 2 * c.op)
      (statusWord s.gtc c.endOutcome c.cause c.qsat) = .done v l t) :
    exec (.collCardEnd n) s = .next (v.cardGone c c.endOutcome t) := by
  have hk := cardKept_of_mayEnd h
  change execCollCardEnd n s = _
  rw [State.cardKept] at hk
  rw [Card.endOutcome] at he ⊢
  simp only [execCollCardEnd, hc, hk, hs, modCard_gtc, Bool.false_eq_true, if_false, he]

/-! ### The statement -/

/-- Settles O60: SMOVE and LAUNCH pass their checks and post; a card that may end ends with its outcome; the drain bound's
clause is its event once the chip and its bound are found. -/
theorem movesLaunchesCardEndsAndDrainsComplete : Obligations.MovesLaunchesCardEndsAndDrainsComplete := by
  unfold Obligations.MovesLaunchesCardEndsAndDrainsComplete
  refine ⟨?_, ?_, ?_, ?_⟩
  · intro f s x ch core h ha hop a b c ofs len h1 h2 h0 hal hbl hbar hsz hr hu hch hp m
    obtain ⟨t, he, ht⟩ := exec_smove h ha hop (smoveTrap_none h1 h2 h0 hal hbl hbar hsz hr hu hch hp)
    rw [smoveCore_of hch hp] at ht
    exact ⟨t, he, ht.traffic_eq ▸ rfl, ht⟩
  · intro f s x h ha hop va r y hb hrel hv hal hx q
    obtain ⟨t, he, ht⟩ := exec_launch h ha hop hb hrel (launchCheck_ok hv hal hx)
    exact ⟨t, he, ht.traffic_eq ▸ rfl, ht⟩
  · intro n s c hc hb hn hh he ho o
    have hend : s.cardMayEnd c := ⟨hb, hn, hh, he, ho⟩
    exact ⟨exec_collCardEnd_skip hc hend, fun hs v l t hd => exec_collCardEnd_done hc hend hs hd⟩
  · intro lci s c t hc ht u w
    change execDrainBoundExpiry lci s = _
    simp only [execDrainBoundExpiry, hc, ht]
    rfl

end Sys2Proof.Machine
end

section
/-! SUPPORT. What every step leaves of holds and of eligible groups (04 R123, R127, 05 R168, R177, 13 R367): a fetch does not
look at the module's teams, so that a group's eligibility stands when the teams' clocks are set, and statement O3. -/

namespace Sys2Proof.Machine

/-- The state with other teams. -/
def State.withTeams (s : State) (ts : List Team) : State := { s with teams := ts }

section

variable (s : State) (ts : List Team)

/-! ### Walks and reads do not look at the teams -/

theorem s2Go_withTeams (wc : List WalkEnt) (lci cofs level a : Nat) :
    (s.withTeams ts).s2Go wc lci cofs level a = s.s2Go wc lci cofs level a := by
  have he : ∀ b, (s.withTeams ts).s2Entry wc lci b = s.s2Entry wc lci b := fun _ => rfl
  induction level generalizing a with
  | zero => unfold State.s2Go; simp only [he]
  | succ n ih => unfold State.s2Go; simp only [he, ih]

theorem s2Path_withTeams (wc : List WalkEnt) (lci cofs level a : Nat) :
    (s.withTeams ts).s2Path wc lci cofs level a = s.s2Path wc lci cofs level a := by
  have he : ∀ b, (s.withTeams ts).s2Entry wc lci b = s.s2Entry wc lci b := fun _ => rfl
  induction level generalizing a with
  | zero => unfold State.s2Path; simp only [he]
  | succ n ih => unfold State.s2Path; simp only [he, ih]

theorem peekGo_withTeams (lci : Nat) (c : Cls) (k a n : Nat) : (s.withTeams ts).peekGo lci c k a n = s.peekGo lci c k a n := by
  have hp : ∀ a m, (s.withTeams ts).peekLine lci a m c = s.peekLine lci a m c := fun _ _ => rfl
  induction k generalizing a n with
  | zero => rfl
  | succ k ih => simp only [State.peekGo, hp, ih]

theorem badGo_withTeams (lci k a n : Nat) : (s.withTeams ts).badGo lci k a n = s.badGo lci k a n := by
  have hb : ∀ a m, (s.withTeams ts).badLine lci a m = s.badLine lci a m := fun _ _ => rfl
  induction k generalizing a n with
  | zero => rfl
  | succ k ih => simp only [State.badGo, hb, ih]

theorem chip?_withTeams (lci : Nat) : (s.withTeams ts).chip? lci = s.chip? lci := rfl

theorem s2Walk_withTeams (lci cofs : Nat) (wc : List WalkEnt) : (s.withTeams ts).s2Walk lci cofs wc = s.s2Walk lci cofs wc := by
  simp only [State.s2Walk, chip?_withTeams, s2Go_withTeams]

theorem s2Trail_withTeams (wc : List WalkEnt) (lci cofs : Nat) : (s.withTeams ts).s2Trail wc lci cofs = s.s2Trail wc lci cofs := by
  simp only [State.s2Trail, chip?_withTeams, s2Path_withTeams]

theorem s1Read_withTeams (wc : List WalkEnt) (lci : Nat) (c : Chip) (pod n level : Nat) :
    (s.withTeams ts).s1Read wc lci c pod n level = s.s1Read wc lci c pod n level := by
  have hp : ∀ a c, (s.withTeams ts).peek lci a n c = s.peek lci a n c := fun _ _ => peekGo_withTeams ..
  have hb : ∀ a, (s.withTeams ts).peekBad lci a n = s.peekBad lci a n := fun _ => badGo_withTeams ..
  simp only [State.s1Read, s2Walk_withTeams, hp, hb]

theorem stripeOut_withTeams (wc : List WalkEnt) (lci : Nat) (c : Chip) (e va level : Nat) :
    (s.withTeams ts).stripeOut wc lci c e va level = s.stripeOut wc lci c e va level := by
  simp only [State.stripeOut, s1Read_withTeams]

theorem s1Go_withTeams (wc : List WalkEnt) (lci : Nat) (c : Chip) (va level a : Nat) :
    (s.withTeams ts).s1Go wc lci c va level a = s.s1Go wc lci c va level a := by
  induction level generalizing a with
  | zero => unfold State.s1Go; simp only [s1Read_withTeams, stripeOut_withTeams]
  | succ n ih => unfold State.s1Go; simp only [s1Read_withTeams, stripeOut_withTeams, ih]

theorem s1Path_withTeams (wc : List WalkEnt) (lci : Nat) (c : Chip) (va level a : Nat) :
    (s.withTeams ts).s1Path wc lci c va level a = s.s1Path wc lci c va level a := by
  induction level generalizing a with
  | zero => unfold State.s1Path; simp only [s1Read_withTeams, stripeOut_withTeams, s2Trail_withTeams]
  | succ n ih => unfold State.s1Path; simp only [s1Read_withTeams, stripeOut_withTeams, s2Trail_withTeams, ih]

theorem xlatePod_withTeams (wc : List WalkEnt) (lci : Nat) (c : Chip) (p : Bool) (a page pod : Nat) (cls : Option Cls) (r w x : Bool)
    (k : AccKind) : (s.withTeams ts).xlatePod wc lci c p a page pod cls r w x k = s.xlatePod wc lci c p a page pod cls r w x k := by
  have hh : ∀ g n, (s.withTeams ts).chipHome g n = s.chipHome g n := fun _ _ => rfl
  simp only [State.xlatePod, State.xlateHere, hh, s2Walk_withTeams, chip?_withTeams]

theorem xlateWalk_withTeams (lci : Nat) (p : Bool) (va : Nat) (k : AccKind) (wc : List WalkEnt) :
    (s.withTeams ts).xlateWalk lci p va k wc = s.xlateWalk lci p va k wc := by
  simp only [State.xlateWalk, chip?_withTeams, s1Go_withTeams, xlatePod_withTeams]

theorem xlateTrail_withTeams (wc : List WalkEnt) (lci : Nat) (p : Bool) (va : Nat) :
    (s.withTeams ts).xlateTrail wc lci p va = s.xlateTrail wc lci p va := by
  have hh : ∀ g n, (s.withTeams ts).chipHome g n = s.chipHome g n := fun _ _ => rfl
  simp only [State.xlateTrail, chip?_withTeams, hh, s1Go_withTeams, s1Path_withTeams, s2Trail_withTeams]

/-! ### Fetches -/

/-- A walk by a core keeps the teams as they are, and its outcome does not look at them. -/
theorem walkCore_withTeams (core lci : Nat) (p : Bool) (va : Nat) (k : AccKind) :
    (s.withTeams ts).walkCore core lci p va k = ((s.walkCore core lci p va k).1, (s.walkCore core lci p va k).2.withTeams ts) := by
  have hd : ∀ n, (s.withTeams ts).die n = s.die n := fun _ => rfl
  simp only [State.walkCore, State.walkOn, hd, xlateWalk_withTeams, xlateTrail_withTeams]
  rfl

/-- A translation by a core, as its walk. -/
theorem xlateCore_withTeams (core lci : Nat) (p : Bool) (va : Nat) (k : AccKind) :
    (s.withTeams ts).xlateCore core lci p va k = ((s.xlateCore core lci p va k).1, (s.xlateCore core lci p va k).2.withTeams ts) := by
  have hc : (s.withTeams ts).core core = s.core core := rfl
  simp only [State.xlateCore, hc, walkCore_withTeams]
  split
  · split <;> rfl
  · split
    · split <;> rfl
    · rfl

/-- The line that a fetch answers, if any. -/
def FetchOut.line? : FetchOut → Option Line
  | .line l _ => some l
  | .fail _ _ => none

theorem codeLine?_eq (core lci a : Nat) : s.codeLine? core lci a = (s.fetchLine core lci a).line? := by
  unfold State.codeLine?
  cases s.fetchLine core lci a <;> rfl

theorem readCode_withTeams (core lci mpa : Nat) (c : Cls) :
    ((s.withTeams ts).readCode core lci mpa c).line? = (s.readCode core lci mpa c).line? := by
  have hp : (s.withTeams ts).peek lci mpa 64 c = s.peek lci mpa 64 c := peekGo_withTeams s ts ..
  have hc : (s.withTeams ts).core core = s.core core := rfl
  have hb : ∀ n, (s.withTeams ts).bankLine? lci n = s.bankLine? lci n := fun _ => rfl
  have hh : (s.withTeams ts).hole mpa = s.hole mpa := rfl
  have hl : ∀ n, (s.withTeams ts).linePoison n = s.linePoison n := fun _ => rfl
  simp only [State.readCode, hp, hc, hb, hh, hl]
  split
  · rfl
  · simp only [apply_ite FetchOut.line?]
    rfl

/-- The line that a fetch finds does not depend on the teams. -/
theorem codeLine?_withTeams (core lci a : Nat) : (s.withTeams ts).codeLine? core lci a = s.codeLine? core lci a := by
  simp only [codeLine?_eq, State.fetchLine, xlateCore_withTeams]
  split
  · rfl
  · split
    · rfl
    · rfl
    · rfl
    · split
      · rfl
      · rfl
      · exact readCode_withTeams ..
      · exact readCode_withTeams ..

/-- Whether a line is malformed does not depend on the teams. -/
theorem lineCause_withTeams (core lci a : Nat) (l : Line) :
    (s.withTeams ts).lineCause core lci a l = s.lineCause core lci a l := by
  simp only [State.lineCause, codeLine?_withTeams]

/-! ### Clocks of teams and groups -/

/-- Where every change of an entry stands in a relation, so do the values of a map before and after the changes. -/
theorem smGet_map_related {α : Type} {R : α → α → Prop} {d : α} {f : Nat → α → α} (hd : R d d) (hf : ∀ k v, R v (f k v))
    (m : SMap α) (k : Nat) : R (smGet d m k) (smGet d (m.map fun p => (p.1, f p.1 p.2)) k) := by
  induction m with
  | nil => exact hd
  | cons e r ih =>
    simp only [List.map_cons, smGet]
    split
    · exact hf _ _
    · exact ih

/-- The clock of a group that runs nothing and is not eligible is set; nothing else of a group changes. -/
theorem clocksOf_group (t : Team) (n : Nat) : ∃ e, (s.clocksOf t).group n = { t.group n with eligibleAt := e } := by
  refine smGet_map_related (R := fun g h => ∃ e, h = { g with eligibleAt := e })
    (d := Group.init) (f := fun k g => if g.run.isNone && !s.eligible t k then { g with eligibleAt := s.gtc } else g)
    ⟨0, rfl⟩ (fun k g => ?_) t.groups n
  split
  · exact ⟨_, rfl⟩
  · exact ⟨g.eligibleAt, rfl⟩

/-- Setting the clocks changes no group's eligibility. -/
theorem eligible_clocksOf (t : Team) (n : Nat) : (s.withTeams ts).eligible (s.clocksOf t) n = s.eligible t n := by
  obtain ⟨e, he⟩ := clocksOf_group s t n
  simp only [State.eligible, Team.groupFree, Team.dbgLets, he, codeLine?_withTeams, lineCause_withTeams]
  rfl

/-! ### Holds -/

/-- Whether a hold lasts does not depend on the teams. -/
theorem holdLasts_withTeams (id : TeamId) (n : Nat) (pend : SMap Nat) (h : Hold) :
    (s.withTeams ts).holdLasts id n pend h = s.holdLasts id n pend h := by
  cases h <;> rfl

/-- No hold is left that has ended (04 R127, 05 R168). -/
theorem dropHolds_lasts {t : Team} (ht : t ∈ s.dropHolds.teams) {p : Nat × Group} (hp : p ∈ t.groups) {h : Hold}
    (hh : h ∈ p.2.ord.holds) : s.dropHolds.holdLasts t.id p.1 p.2.ord.pend h = true := by
  unfold State.dropHolds at ht ⊢
  split at ht
  · next hany =>
    rw [if_pos hany]
    obtain ⟨t, -, rfl⟩ := List.mem_map.1 ht
    obtain ⟨q, -, rfl⟩ := List.mem_map.1 hp
    exact (holdLasts_withTeams ..).trans (List.mem_filter.1 hh).2
  · next hany =>
    refine absurd (List.any_eq_true.2 ⟨t, ht, List.any_eq_true.2 ⟨p, hp, ?_⟩⟩) hany
    simpa using List.ne_nil_of_mem hh

/-- Setting the clocks of a state in which every hold lasts settles it. -/
theorem settled_clocksOf (h : ∀ t ∈ s.teams, ∀ p ∈ t.groups, ∀ k ∈ p.2.ord.holds, s.holdLasts t.id p.1 p.2.ord.pend k = true) :
    (s.withTeams (s.teams.map s.clocksOf)).Settled := by
  intro u hu p hp
  obtain ⟨t, ht, rfl⟩ := List.mem_map.1 hu
  obtain ⟨q, hq, rfl⟩ := List.mem_map.1 hp
  simp only [holdLasts_withTeams, eligible_clocksOf]
  split
  · exact ⟨h t ht q hq, fun _ _ => rfl⟩
  · next hn => exact ⟨h t ht q hq, fun hr he => absurd (by simp [hr, he]) hn⟩

/-- Settling drops the holds that have ended, then sets the clocks. -/
theorem settle_settled : s.settle.Settled := settled_clocksOf _ fun _ ht _ hp _ hk => dropHolds_lasts _ ht hp hk

end

/-- Settles O3: a step ends by settling. -/
theorem everyStepSettles : Obligations.EveryStepSettles := by
  unfold Obligations.EveryStepSettles
  intro s t h
  unfold step at h
  split at h
  · cases h
  · cases h
  · cases h
    exact settle_settled _

end Sys2Proof.Machine
end

section
/-! SUPPORT. FENCE (04 R126, R127, R153, Table 4.4): what its issue comes to where no earlier access and no cause holds it
back, and statement O34. -/

namespace Sys2Proof.Machine

/-- A release whose condition holds does not wait (04 R126). -/
theorem awaitRel_none {x : Ix} {sc : Scope} (h : x.s.relDone x.t.id x.cur.group sc.code.toNat x.g.ord.pend = true) :
    x.awaitRel sc = none := by
  simp only [Ix.awaitRel, h, if_true]

/-- A fence of order rel, acq_rel or sc goes on when the condition of a release holds at its scope. -/
theorem exec_fence_rel {f : FmtM} {s : State} {x : Ix} (h : Latched s f.sched x) (ha : x.active ≠ 0)
    (hb : x.boundary (f.ord != .acq) = none) (ho : f.ord ≠ .acq)
    (hr : x.s.relDone x.t.id x.cur.group f.scope.code.toNat x.g.ord.pend = true) :
    exec (.fence f) s = .next (x.finish f.sched none []) := by
  change execFence f s = _
  rw [execFence, issue_latched h, if_neg ha]
  simp only [hb, beq_eq_false_iff_ne.2 ho, Bool.false_eq_true, if_false, awaitRel_none hr]

/-- A fence of order acq goes on at once; wider than a team, it first drains the group's lines of the write-combining buffer. -/
theorem exec_fence_acq {f : FmtM} {s : State} {x : Ix} (h : Latched s f.sched x) (ha : x.active ≠ 0)
    (hb : x.boundary (f.ord != .acq) = none) (ho : f.ord = .acq) :
    exec (.fence f) s = .next ((if f.scope = .team then x
      else x.withState (x.s.drainGroup x.cur.core x.t.id x.cur.group)).finish f.sched none []) := by
  change execFence f s = _
  rw [execFence, issue_latched h, if_neg ha]
  simp only [hb, beq_iff_eq.2 ho, if_true, beq_iff_eq]

/-- Settles O34: in each of the three cases the fence ends as an instruction that writes no register. -/
theorem fencePasses : Obligations.FencePasses := by
  unfold Obligations.FencePasses
  intro f s x h ha hb y
  refine ⟨fun ho hr => ?_, fun ho hs => ?_, fun ho hs => ?_⟩
  · exact ⟨_, exec_fence_rel h ha hb ho hr, finish_ends x f.sched none writes_nil⟩
  · refine ⟨_, exec_fence_acq h ha hb ho, ?_⟩
    rw [if_pos hs]
    exact finish_ends x f.sched none writes_nil
  · refine ⟨_, exec_fence_acq h ha hb ho, ?_⟩
    rw [if_neg hs]
    exact finish_ends y f.sched none writes_nil

end Sys2Proof.Machine
end

section
/-! SUPPORT. Register names beyond a group's allocation (05 R165, 06 R203): the operand check that meets one, the instructions
that make this check first, and statement O46. -/

namespace Sys2Proof.Machine

/-- The trap of an instruction that names register `n` beyond its group's allocation: every issued lane takes it (05 R165). -/
def Ix.boundTrap (x : Ix) (n : Nat) : Trap := { cause := Cause.regBound, lanes := x.cur.issued, addr := 4 * n }

/-- The registers that the operands of an instruction name, in the order of the check: the destination first (log 19). -/
def Ix.named (x : Ix) (o : Opds) : List Nat := x.t.desc.regsOf o.dst ++ (x.sources o).map (·.1)

/-- The register that is found beyond the allocation is one of those named, at or above the allocation (05 R164). -/
theorem beyond_some {x : Ix} {l : List Nat} {n : Nat} (h : x.beyond l = some n) : min x.g.alloc 256 ≤ n ∧ n ∈ l :=
  ⟨by simpa using List.find?_some h, List.mem_of_find?_eq_some h⟩

/-- A name beyond the allocation comes before every other check of the operands. -/
theorem operandTrap_beyond {x : Ix} {o : Opds} {n : Nat} (h : x.beyond (x.named o) = some n) :
    x.operandTrap (x.sources o) (x.t.desc.regsOf o.dst) = some (x.boundTrap n) := by
  have hn : x.nameTrap (x.sources o) (x.t.desc.regsOf o.dst) = some (x.boundTrap n) := by
    rw [Ix.named] at h
    rw [Ix.nameTrap, h]
    rfl
  rw [Ix.operandTrap, hn]

section

variable {s : State} {sc : Sched} {x : Ix} {lat : Nat} {o : Opds} {n : Nat} (h : Latched s sc x)
  (hb : x.beyond (x.named o) = some n)
include h hb

/-- An instruction that reads, computes and writes traps at such a name. -/
theorem issue_alu_beyond {f : Ix → Args → Nat} :
    issue s sc (fun i => i.alu sc lat o (f i)) = .next (x.trap (x.boundTrap n)) := by
  rw [issue_latched h, Ix.alu, operandTrap_beyond hb]

/-- So does one that may round stochastically. -/
theorem issue_aluSr_beyond {f : Ix → Args → Nat × Word} :
    issue s sc (fun i => i.aluSr sc lat o (f i)) = .next (x.trap (x.boundTrap n)) := by
  rw [issue_latched h, Ix.aluSr, operandTrap_beyond hb]

end

/-- RGET traps at such a name before it looks at the address that it reads. -/
theorem exec_rget_beyond {s : State} {x : Ix} {f : FmtR} {n : Nat} (h : Latched s f.sched x)
    (hb : x.beyond (x.named (opsR1 f)) = some n) : exec (.rget f) s = .next (x.trap (x.boundTrap n)) := by
  have ho : x.operandTrap (x.sources (opsR1 f)) (x.t.desc.regsOf f.dst) = some (x.boundTrap n) := operandTrap_beyond hb
  change execRget f s = _
  rw [execRget, issue_latched h]
  simp only [ho]

/-- Settles O46: each of the instructions checks the names of its operands first, and the check answers one of these names. That
the destination comes before SA, SB and SC is the model's choice (log 19). -/
theorem namesBeyondAllocationTrap : Obligations.NamesBeyondAllocationTrap := by
  unfold Obligations.NamesBeyondAllocationTrap
  intro f s x n h trapped names
  refine ⟨fun hb => ⟨?_, ?_, ?_⟩, fun hb => ⟨?_, ?_, ?_, ?_⟩, fun m hm => beyond_some hm⟩
  · change execIadd f s = _
    rw [execIadd, intR]
    exact issue_alu_beyond h hb
  · change execFadd f s = _
    rw [execFadd, f32R]
    exact issue_aluSr_beyond h hb
  · change execShl f s = _
    rw [execShl, bitsR]
    exact issue_alu_beyond h hb
  · change execMov f s = _
    rw [execMov]
    exact issue_alu_beyond h hb
  · change execRcp f s = _
    rw [execRcp, sfuR]
    exact issue_alu_beyond h hb
  · exact exec_rget_beyond h hb
  · change execVote f s = _
    rw [execVote, groupOp]
    exact issue_alu_beyond h hb

end Sys2Proof.Machine
end

section
/-! SUPPORT. REGGROW, REGSHRINK and the special registers (05 R173, R176, 09 R277, R278): lanes that wait at their issue, a group
changed in its lanes alone, and statement O30. -/

namespace Sys2Proof.Machine

/-! ### Lanes changed at an issue -/

/-- An instruction that completes later and puts lanes into WAITING: they step and wait, and no key changes (05 R168). -/
theorem await_ends (x : Ix) (sc : Sched) (m : Mask) (w : Nat → Wait) :
    EndsWith x sc [] noWrite
      (fun l => if m.getLsbD l then { x.stepped l with st := .waiting, wait := some (w l) } else x.stepped l)
      (x.put ((x.advance (x.g.bump (setCtr sc))).await m w)) := by
  set g := x.advance (x.g.bump (setCtr sc)) with hg
  have hlane : ∀ l, l < 32 → g.lane l = x.stepped l := fun l hl => by
    rw [hg, advance_lane x _ hl, Group.bump_lane, Ix.stepped]
  have hwait : ∀ l, l < 32 → (g.await m w).lane l =
      if m.getLsbD l then { x.stepped l with st := .waiting, wait := some (w l) } else x.stepped l := fun l hl => by
    rw [Group.await, Group.lane_modLanes _ _ _ _ hl, hlane l hl]
  have heq : g.await m w = { g with lanes := (g.await m w).lanes } := Group.modLanes_eq _ _ _
  refine ⟨g.await m w, rfl, fun l k hl _ => ?_, fun l hl => ⟨_, hwait l hl⟩, ?_, ?_, ?_⟩
  · have hr : (g.await m w).regs = g.regs := by rw [heq]
    have hp : ((g.await m w).lane l).preds = (g.lane l).preds := by
      rw [hwait l hl, hlane l hl]
      split <;> rfl
    have hk : (g.await m w).key l k = g.key l k := by simp only [Group.key, hr, hp]
    rw [hk, hg, advance_key x _ hl, Group.bump_key]
    rfl
  · rw [heq, hg, advance_eq]
  · rw [heq, hg, advance_eq]
    cases setCtr sc <;> simp [Group.bump]
  · rw [heq, hg, advance_eq]
    cases setCtr sc <;> simp [Group.bump]

/-- An instruction that ends in a group `h` whose lanes alone have been changed, their predicates left, ends with these lanes. -/
theorem EndsWith.of_lanes {x : Ix} {h : Group} {sc : Sched} {d : List Nat} {w : Nat → Nat → Option Word}
    {lane lane' : Nat → Lane} {t : State} (ht : EndsWith { x with g := h } sc d w lane t)
    (he : h = { x.g with lanes := h.lanes })
    (hp : ∀ l, l < 32 → (h.lane l).preds = (x.g.lane l).preds) (hl : ∀ l, l < 32 → lane l = lane' l) :
    EndsWith x sc d w lane' t := by
  obtain ⟨g, rfl, hkey, hlane, hsb, hdrops, hrest⟩ := ht
  have hr : h.regs = x.g.regs := by rw [he]
  have ho : h.ord = x.g.ord := by rw [he]
  refine ⟨g, rfl, fun l k h32 hk => ?_, fun l h32 => hl l h32 ▸ hlane l h32, ?_, ?_, ?_⟩
  · rw [hkey l k h32 hk]
    simp only [Group.key, hr, hp l h32]
  · rw [hsb]
    cases setCtr sc <;> simp [Group.bump, ho]
  · rw [hdrops, ho]
  · rw [hrest, he]

/-! ### Register allocation -/

/-- REGGROW of no more registers than its group has ends at once (05 R173). -/
theorem exec_reggrow_has {f : FmtR} {s : State} {x : Ix} (h : Latched s f.sched x) (ha : modField f.mod 0 9 ≤ x.g.alloc) :
    exec (.reggrow f) s = .next (x.put (x.advance ((x.g.bump (setCtr f.sched)).due (setCtr f.sched)))) := by
  change execReggrow f s = _
  rw [execReggrow, issue_latched h]
  simp only [ha, decide_true, Bool.or_true, if_true]

/-- A group that asks for `a` registers; a request that waits already merges into this one (log 77). -/
def Group.asks (g : Group) (a : Nat) : Group := { g with grow := some (max a (g.grow.getD 0)) }

/-- The issue of a REGGROW with the request of its group and the counter that its grant will drop. -/
def Ix.growAsked (x : Ix) (sc : Sched) (a : Nat) : Ix :=
  { x with g := { x.g.asks a with growSets := (x.g.asks a).growSets ++ (setCtr sc).toList } }

/-- REGGROW of more registers, within the 256 of a group and the rows of a core, puts its lanes into WAITING, and a core that
waits in every group parks a gang (05 R173, R175). -/
theorem exec_reggrow_waits {f : FmtR} {s : State} {x : Ix} (h : Latched s f.sched x) (hact : x.active ≠ 0)
    (hlt : x.g.alloc < modField f.mod 0 9) (h256 : modField f.mod 0 9 ≤ 256)
    (hrows : (x.t.setGroup x.cur.group (x.g.asks (modField f.mod 0 9))).rowDemand ≤ 512) :
    let y := x.growAsked f.sched (modField f.mod 0 9)
    exec (.reggrow f) s =
      .next ((y.put ((y.advance (y.g.bump (setCtr f.sched))).await x.active fun _ => .grow)).deadlockPark x.cur.core) := by
  intro y
  have hrows' := Nat.not_lt.2 hrows
  rw [Group.asks] at hrows'
  change execReggrow f s = _
  rw [execReggrow, issue_latched h]
  simp only [hact, Nat.not_le.2 hlt, Nat.not_lt.2 h256, hrows', decide_false, Bool.or_false, Bool.false_eq_true, if_false]
  rfl

/-- REGSHRINK to no fewer registers than its group has ends at once (05 R176). -/
theorem exec_regshrink_has {f : FmtR} {s : State} {x : Ix} (h : Latched s f.sched x) (ha : x.g.alloc ≤ modField f.mod 0 9) :
    exec (.regshrink f) s = .next (x.put (x.advance ((x.g.bump (setCtr f.sched)).due (setCtr f.sched)))) := by
  change execRegshrink f s = _
  rw [execRegshrink, issue_latched h]
  simp only [ha, decide_true, Bool.or_true, if_true]

/-- REGSHRINK to fewer registers discards the others, and the chip's queues return to arbitration (05 R176, 13 R366). -/
theorem exec_regshrink_discards {f : FmtR} {s : State} {x : Ix} (h : Latched s f.sched x) (hact : x.active ≠ 0)
    (hlt : modField f.mod 0 9 < x.g.alloc) :
    exec (.regshrink f) s =
      .next ((x.put (x.advance (((x.g.shrink (modField f.mod 0 9)).bump (setCtr f.sched)).due (setCtr f.sched)))).unblock
        x.t.id.lci) := by
  change execRegshrink f s = _
  rw [execRegshrink, issue_latched h]
  simp only [hact, Nat.not_le.2 hlt, decide_false, Bool.or_false, Bool.false_eq_true, if_false]

/-! ### Special registers -/

/-- SRD past the check of its destination reads the special register in every active lane (09 R278). -/
theorem exec_srd {f : FmtI} {s : State} {x : Ix} (h : Latched s f.sched x)
    (hop : x.operandTrap [] (x.t.desc.regsOf f.dst) = none) :
    exec (.srd f) s = .next (x.finish f.sched (some 4)
      ((lanesOf x.active).flatMap fun l => x.dst l f.dst (x.special l (Accept.srNum f.imm)))) := by
  change execSrd f s = _
  rw [execSrd, issue_latched h]
  simp only [hop]

/-- The issue of an SWR once the special register has been written: a seed in every active lane, the others from the highest
active one (09 R278). -/
def Ix.swrWritten (x : Ix) (f : FmtI) : Ix :=
  let v := x.rdVia f.perm (highLane x.active) f.sa
  if Accept.srNum f.imm = 0x21 then
    { x with g := x.g.modLanes x.active fun l y => { y with seed := srFix (BitVec.ofNat 32 (x.rdVia f.perm l f.sa)) } }
  else if Accept.srNum f.imm = 0x22 then x.withTeam { x.t with qflags := BitVec.ofNat 32 (v % 4) }
  else { x with g := x.g.setTrapReg (Accept.srNum f.imm) v }

/-- SWR of 0x21 writes the seeds. -/
theorem swrWritten_seed {x : Ix} {f : FmtI} (h : Accept.srNum f.imm = 0x21) : x.swrWritten f =
    { x with g := x.g.modLanes x.active fun l y => { y with seed := srFix (BitVec.ofNat 32 (x.rdVia f.perm l f.sa)) } } := by
  rw [Ix.swrWritten, if_pos h]

/-- SWR of 0x22 writes the quantisation flags. -/
theorem swrWritten_qflags {x : Ix} {f : FmtI} (h : Accept.srNum f.imm = 0x22) :
    x.swrWritten f = x.withTeam { x.t with qflags := BitVec.ofNat 32 (x.rdVia f.perm (highLane x.active) f.sa % 4) } := by
  have hne : Accept.srNum f.imm ≠ 0x21 := by omega
  rw [Ix.swrWritten, if_neg hne, if_pos h]

/-- SWR of any other number writes a trap register. -/
theorem swrWritten_trap {x : Ix} {f : FmtI} (h1 : Accept.srNum f.imm ≠ 0x21) (h2 : Accept.srNum f.imm ≠ 0x22) :
    x.swrWritten f = { x with g := x.g.setTrapReg (Accept.srNum f.imm) (x.rdVia f.perm (highLane x.active) f.sa) } := by
  rw [Ix.swrWritten, if_neg h1, if_neg h2]

/-- SWR past the check of its source writes the special register and ends. -/
theorem exec_swr {f : FmtI} {s : State} {x : Ix} (h : Latched s f.sched x) (hact : x.active ≠ 0)
    (hop : x.operandTrap (x.via f.perm (x.t.desc.regsOf f.sa)) [] = none) :
    exec (.swr f) s = .next ((x.swrWritten f).finish f.sched (some 4) []) := by
  change execSwr f s = _
  rw [execSwr, issue_latched h]
  simp only [hop, if_neg hact, Ix.swrWritten]
  split
  · rfl
  · split <;> rfl

/-- New seeds of the active lanes alone. -/
theorem seeds_end (x : Ix) (sc : Sched) (seed : Nat → Word) :
    Ends x sc noWrite (fun l => if x.active.getLsbD l then { x.stepped l with seed := seed l } else x.stepped l)
      (Ix.finish { x with g := x.g.modLanes x.active fun l y => { y with seed := seed l } } sc (some 4) []) := by
  have hlane := fun l (hl : l < 32) => Group.lane_modLanes x.g x.active (fun l y => { y with seed := seed l }) l hl
  refine (finish_ends _ sc (some 4) writes_nil).of_lanes (Group.modLanes_eq _ _ _) (fun l hl => ?_) fun l hl => ?_
  · rw [hlane l hl]
    split <;> rfl
  · simp only [Ix.stepped, hlane l hl]
    split <;> split <;> rfl

/-- A write of a trap register leaves the lanes. -/
@[simp] theorem Group.setTrapReg_lane (g : Group) (n v l : Nat) : (g.setTrapReg n v).lane l = g.lane l := by
  unfold Group.setTrapReg
  split <;> rfl

/-- Settles O30: each instruction takes its branch, whose end is known. That a second REGGROW merges into a request that
waits, that SWR writes trap registers outside a handler too, and what REGSHRINK does to writes on their way are choices of
the model (logs 77, 43, 79). -/
theorem registerAndSpecialInstructions : Obligations.RegisterAndSpecialInstructions := by
  unfold Obligations.RegisterAndSpecialInstructions
  intro f g s x hact a asked sr v ready
  refine ⟨fun h ha => ?_, fun h hlt h256 hrows => ?_, fun h ha => ?_, fun h hlt => ?_, fun h hop => ?_,
    fun ⟨h, hop⟩ h21 => ?_, fun ⟨h, hop⟩ h22 => ?_, fun ⟨h, hop⟩ h21 h22 => ?_⟩
  · exact ⟨_, exec_reggrow_has h ha, pass_ends x f.sched⟩
  · exact ⟨_, await_ends (x.growAsked f.sched a) f.sched x.active fun _ => .grow, exec_reggrow_waits h hact hlt h256 hrows⟩
  · exact ⟨_, exec_regshrink_has h ha, pass_ends x f.sched⟩
  · exact ⟨_, pass_ends { x with g := x.g.shrink a } f.sched, exec_regshrink_discards h hact hlt⟩
  · exact ⟨_, exec_srd h hop, finish_ends x g.sched _ (writes_dst (names_lt hop) x.active _)⟩
  · refine ⟨_, exec_swr h hact hop, ?_⟩
    rw [swrWritten_seed h21]
    exact seeds_end x g.sched _
  · refine ⟨_, exec_swr h hact hop, ?_⟩
    rw [swrWritten_qflags h22, ← withTeam_stepped h rfl]
    exact finish_ends _ g.sched _ writes_nil
  · refine ⟨_, exec_swr h hact hop, ?_⟩
    have hst : Ix.stepped { x with g := x.g.setTrapReg sr v } = x.stepped :=
      stepped_congr rfl fun l => Group.setTrapReg_lane x.g sr v l
    rw [swrWritten_trap h21 h22, ← hst]
    exact finish_ends _ g.sched _ writes_nil

end Sys2Proof.Machine
end

section
/-! SUPPORT. One step of the module (05 R169, R170, 06 R186, R203): what the fetch at a group's least PC finds, what a decoded
slot sets in the issue latch, and statement O1. -/

namespace Sys2Proof.Machine

/-- Groups that may try again leave the hub. -/
@[simp] theorem clearHeld_hub (s : State) : s.clearHeld.hub = s.hub := by
  unfold State.clearHeld
  split <;> rfl

/-- A step takes the next turn of the agenda, and then lets time pass. -/
theorem step_agenda {s v : State} {t : Turn} {r : List Turn} (ha : s.agenda = t :: r)
    (ht : runTurn t { s with agenda := r } = .next v) : step s = .next v.settle := by
  simp only [step, nextTurn, ha, ht]

/-! ### Fetch and decode -/

section

variable {s u v : State} {t : Team} {core n : Nat} {l : Line} {q : Record} {i : Instr}

/-- A group that runs and whose line lets it issue decodes the slot at its least PC. -/
theorem prepare_fetched (ht : s.team? t.id = some t) (hc : t.core? = some core) (hf : t.groupFree n true = true)
    (hr : (t.group n).run.isSome = true) {m : Nat} (hm : (t.group n).minPc (t.group n).readyMask = m)
    (hl : s.fetchLine core t.id.lci (pcLine m) = .line l u) (hg : u.lineCause core t.id.lci (pcLine m) l = none)
    (hp : l.pair (pcSlot m) = false) (hw : lineLets (t.group n) l m = true) (hs : lineRoom (t.group n) l m = true)
    (hd : waitCause (t.group n) l m = none) :
    s.prepare t.id n = (u.modGroup t.id n fun g => g.waited (Sched.ofWord (l.slot (pcSlot m)))).decodeAt t.id n core l m
      (t.group n).issuedMask false := by
  have hr' : (t.group n).run.isNone = false := by simpa [← Option.not_isSome] using hr
  simp [State.prepare, ht, hc, hf, hr', hm, hl, hg, hp, hw, hs, hd]

/-- A slot that holds no DATA and whose word and record decode is run with the issue latch set (06 R186, R203). -/
theorem decodeAt_run {id : TeamId} {m : Nat} {issued : Mask} {first : Bool} (hd : l.isData (pcSlot m) = false)
    (hq : if isFormatX (slotOp (l.slot (pcSlot m))) then s.readRecord core id.lci l m = .rec_ q v else q = 0 ∧ v = s)
    (hi : decode (l.slot (pcSlot m)) q = .ok i) :
    s.decodeAt id n core l m issued first = .run i
      { v with cur := some {
          team := id, group := n, core := core, pc := BitVec.ofNat 64 m, next := BitVec.ofNat 64 (v.seqPc core id.lci l m),
          issued := issued, line := BitVec.ofNat 64 (pcLine m), first := first } } l m := by
  by_cases hx : isFormatX (slotOp (l.slot (pcSlot m))) = true
  · rw [if_pos hx] at hq
    simp [State.decodeAt, hd, hx, hq, hi]
  · rw [if_neg hx] at hq
    obtain ⟨rfl, rfl⟩ := hq
    simp only [State.decodeAt, hd, hx, hi, Bool.false_eq_true, if_false]

end

/-! ### Issue -/

/-- An instruction that is not the first member of a pair runs alone, and ends or carries on the run (05 R170). -/
theorem runPrepared_single {s w : State} {c : Cur} {i : Instr} (hc : s.cur = some c) (hf : c.first = false)
    (he : exec i s = .next w) (l : Line) (m : Nat) : runPrepared i s l m = .next (afterRun s w c i l m 1) := by
  simp [runPrepared, he, hc, hf]

/-- A group that issues in P0 runs what has been prepared. -/
theorem runTurn_issue {s s1 : State} {id : TeamId} {n m : Nat} {i : Instr} {l : Line} (hp : s.hub.power = .p0)
    (h : s.prepare id n = .run i s1 l m) : runTurn (.issue id n) s = runPrepared i s1 l m := by
  simp [runTurn, issueStep, hp, h]

/-- An event that power lets happen runs. -/
theorem runTurn_event {s : State} {i : Instr} (hp : s.hub.power.lets (Instr.eventKind i) = true) :
    runTurn (.event i) s = exec i s.clearHeld := by
  simp [runTurn, runEvent, hp]

/-- Settles O1: the turn of an issue prepares the slot at the least PC and runs it; the turn of an event runs the event. -/
theorem stepRunsDecoded : Obligations.StepRunsDecoded := by
  unfold Obligations.StepRunsDecoded
  constructor
  · intro s u v w r t core n l q i ha hp s0 g m word ht hc hf hr hl hg hpair hdata hw hs hd u1 hq hi _ c he
    have hprep : s0.prepare t.id n = .run i { v with cur := some c } l m :=
      (prepare_fetched ht hc hf hr rfl hl hg hpair hw hs hd).trans (decodeAt_run hdata hq hi)
    exact step_agenda ha ((runTurn_issue (s := s0) hp hprep).trans (runPrepared_single rfl rfl he l m))
  · intro s t r i ha hp he
    exact step_agenda ha ((runTurn_event (s := { s with agenda := r }) hp).trans he)

end Sys2Proof.Machine
end

section
/-! SUPPORT. The words of instructions read the other way (06 R188 to R195): the word and the record that parsed fields pack to
are those they were read from, and a packed word carries the common fields of Table 6.4. -/

namespace Sys2Proof

/-! ### Packing what has been read -/

/-- A one-bit field that is read as a truth value packs to the same bit. -/
theorem ofBool_extract {n : Nat} (w : BitVec n) (k : Nat) : BitVec.ofBool (w.extractLsb' k 1 == 1) = w.extractLsb' k 1 := by
  generalize w.extractLsb' k 1 = b
  revert b
  decide

theorem packCommon_ofWord {w : IWord} {dst : Opd} (h : dst.code = w.extractLsb' 56 10) :
    packCommon (w.extractLsb' 88 8) (w.extractLsb' 84 4) (Sched.ofWord w) dst = w.extractLsb' 56 40 := by
  simp (disch := decide) only [packCommon, Sched.ofWord, ofBool_extract, h, BitVec.extractLsb'_append_extractLsb'_eq_extractLsb']

theorem FmtR.pack_ofWord {w : IWord} {f : FmtR} (h : FmtR.ofWord w = some f) :
    f.pack (w.extractLsb' 88 8) (w.extractLsb' 84 4) = w := by
  unfold FmtR.ofWord at h
  split at h
  · rename_i hdst hsa hperm hsb hsc hty
    cases h
    simp (disch := decide) only [FmtR.pack, packCommon_ofWord (Opd.code_of _ _ hdst), Opd.code_of _ _ hsa, Perm.code_of _ _ hperm,
      Opd.code_of _ _ hsb, Opd.code_of _ _ hsc, Ty.code_of _ _ hty, Rm.code_of, ofBool_extract,
      BitVec.extractLsb'_append_extractLsb'_eq_extractLsb']
    exact BitVec.extractLsb'_eq_self
  · cases h

theorem FmtI.pack_ofWord {w : IWord} {f : FmtI} (h : FmtI.ofWord w = some f) :
    f.pack (w.extractLsb' 88 8) (w.extractLsb' 84 4) = w := by
  unfold FmtI.ofWord at h
  split at h
  · rename_i hdst hsa hperm hty
    cases h
    simp (disch := decide) only [FmtI.pack, packCommon_ofWord (Opd.code_of _ _ hdst), Opd.code_of _ _ hsa, Perm.code_of _ _ hperm,
      Ty.code_of _ _ hty, Rm.code_of, BitVec.extractLsb'_append_extractLsb'_eq_extractLsb']
    exact BitVec.extractLsb'_eq_self
  · cases h

theorem FmtM.pack_ofWord {w : IWord} {sc : Scope} {o : Ord} {a : Asp} {f : FmtM}
    (hsc : Scope.ofCode (w.extractLsb' 43 3) = some sc) (ho : Ord.ofCode (w.extractLsb' 40 3) = some o)
    (ha : Asp.ofCode (w.extractLsb' 0 4) = some a) (h : FmtM.ofWord w sc o a = some f) :
    f.pack (w.extractLsb' 88 8) (w.extractLsb' 84 4) = w := by
  unfold FmtM.ofWord at h
  split at h
  · rename_i hdst hsa hsb
    cases h
    simp (disch := decide) only [FmtM.pack, packCommon_ofWord (Opd.code_of _ _ hdst), Opd.code_of _ _ hsa, Scope.code_of _ _ hsc,
      Ord.code_of _ _ ho, Opd.code_of _ _ hsb, Asp.code_of _ _ ha, BitVec.extractLsb'_append_extractLsb'_eq_extractLsb']
    exact BitVec.extractLsb'_eq_self
  · cases h

theorem Shape.pack_ofRecord {r : Record} {s : Shape} (h : Shape.ofRecord r = some s) : s.pack = r := by
  unfold Shape.ofRecord at h
  split at h
  · rename_i h0
    have hz : 0#13 = r.extractLsb' 371 13 := h0.symm
    cases h
    simp (disch := decide) only [Shape.pack, hz, BitVec.extractLsb'_append_extractLsb'_eq_extractLsb']
    exact BitVec.extractLsb'_eq_self
  · cases h

/-! ### The common fields -/

/-- The word and the record slots that the fields of a format pack to. -/
def Form.words (op : BitVec 8) (fn : BitVec 4) : Form → IWord × Record
  | .r f => (f.pack op fn, 0)
  | .i f => (f.pack op fn, 0)
  | .m f => (f.pack op fn, 0)
  | .x f => (f.r.pack op fn, f.shape.pack)

/-- The scheduling and guard fields of a format. -/
def Form.sched : Form → Sched
  | .r f => f.sched
  | .i f => f.sched
  | .m f => f.sched
  | .x f => f.r.sched

/-- DST of a format. -/
def Form.dst : Form → Opd
  | .r f => f.dst
  | .i f => f.dst
  | .m f => f.dst
  | .x f => f.r.dst

section
variable {i : Instr} {op : BitVec 8} {fn : BitVec 4} {g : Form} (hf : i.form = some (op, fn, g))
include hf

theorem encode_of_form : encode i = some (g.words op fn) := by
  cases g <;> simp only [encode, hf, Form.words]

theorem sched_of_form : i.sched = g.sched := by
  cases g <;> simp only [Instr.sched, hf, Form.sched]

end

/-- Every format packs DST into bits 65 to 56. -/
theorem words_dst (op : BitVec 8) (fn : BitVec 4) (g : Form) : (g.words op fn).1.extractLsb' 56 10 = g.dst.code := by
  cases g <;>
    simp (disch := decide) only [Form.words, Form.dst, FmtR.pack, FmtI.pack, FmtM.pack, packCommon, extract_high, extract_low] <;>
    exact BitVec.extractLsb'_eq_self

/-- Every format packs the scheduling and guard fields where Table 6.4 puts them. -/
theorem words_sched (op : BitVec 8) (fn : BitVec 4) (g : Form) : Sched.ofWord (g.words op fn).1 = g.sched := by
  cases g <;>
    simp (disch := decide) only [Sched.ofWord, Form.words, Form.sched, FmtR.pack, FmtI.pack, FmtM.pack, packCommon, extract_high,
      extract_low] <;>
    simp

end Sys2Proof
end

section
/-! SUPPORT. The opcode map read both ways (06 R201, R202, Tables 6.12 to 6.14): the builder of an instruction's OP and FN makes
that instruction, and what the builder of an OP and FN makes has that OP and FN. -/

namespace Sys2Proof

/-- A builder makes an instruction from the fields of its format. -/
inductive Builds : Builder → Form → Instr → Prop
  | r (mk : FmtR → Instr) (f : FmtR) : Builds (.r mk) (.r f) (mk f)
  | i (mk : FmtI → Instr) (f : FmtI) : Builds (.i mk) (.i f) (mk f)
  | m (mk : FmtM → Instr) (f : FmtM) : Builds (.m mk) (.m f) (mk f)
  | x (mk : FmtX → Instr) (f : FmtX) : Builds (.x mk) (.x f) (mk f)

/-! ### From the instruction to its builder -/

theorem verdict_eq_ok {res acc : Bool} : Accept.verdict res acc = .ok ↔ res = true ∧ acc = true := by
  cases res <;> cases acc <;> simp [Accept.verdict]

/-- RED takes only the operations of Table 6.13. -/
theorem isRed_of_wellFormed {k : AtomOp} {f : FmtM} (h : (Instr.red k f).WellFormed = true) : k.isRed = true := by
  have hc : Accept.check (.red k f) = .ok := eq_of_beq h
  simp only [Accept.check, Accept.chkM, verdict_eq_ok, Bool.and_eq_true] at hc
  obtain ⟨-, -, hred⟩ := hc
  exact hred

theorem builder_red {k : AtomOp} (h : k.isRed = true) : builder 0xA2 k.code = some (.m (.red k)) := by
  change ((AtomOp.ofCode k.code).bind fun k => if k.isRed then some (Builder.m (.red k)) else none) = _
  simp [h]

/-- BARINIT and CSIGN share their opcodes with BARINIT.free and CSIGN.decl, and well-formed ones differ in the bit of MOD that
tells them apart; RED has fewer functions than its code. Every other instruction stands in the map by itself. -/
theorem builder_of_form {i : Instr} {op : BitVec 8} {fn : BitVec 4} {g : Form} (hw : i.WellFormed = true)
    (hf : i.form = some (op, fn, g)) : ∃ b, builder op fn = some b ∧ Builds b g i := by
  cases i
  case barinit f => cases hf; exact ⟨_, rfl, Laws.Encoding.special_barinit f hw ▸ .r mkBarinit f⟩
  case barinitFree f => cases hf; exact ⟨_, rfl, Laws.Encoding.special_barinitFree f hw ▸ .r mkBarinit f⟩
  case csign f => cases hf; exact ⟨_, rfl, Laws.Encoding.special_csign f hw ▸ .r mkCsign f⟩
  case csignDecl f => cases hf; exact ⟨_, rfl, Laws.Encoding.special_csignDecl f hw ▸ .r mkCsign f⟩
  case red k f => cases hf; exact ⟨_, builder_red (isRed_of_wellFormed hw), .m (.red k) f⟩
  case ld k f | lds k f | ldw k f | st k f | sts k f | stw k f | stm k f | atom k f | atoms k f | ldx k f =>
    cases hf; cases k <;> exact ⟨_, rfl, .m _ f⟩
  all_goals cases hf <;> exact ⟨_, rfl, by constructor⟩

/-! ### From the builder to its instructions -/

/-- What `o` builds has this opcode and function, and the fields it was built from. -/
def Places (op : BitVec 8) (fn : BitVec 4) (o : Option Builder) : Prop :=
  ∀ b, o = some b → ∀ g i, Builds b g i → i.form = some (op, fn, g)

section
variable {op : BitVec 8} {fn : BitVec 4}

@[simp] theorem places_none : Places op fn none := by simp [Places]

@[simp] theorem places_r {mk : FmtR → Instr} : Places op fn (some (.r mk)) ↔ ∀ f, (mk f).form = some (op, fn, .r f) :=
  ⟨fun h f => h _ rfl _ _ (.r mk f), by rintro h _ ⟨⟩ _ _ ⟨⟩; exact h _⟩

@[simp] theorem places_i {mk : FmtI → Instr} : Places op fn (some (.i mk)) ↔ ∀ f, (mk f).form = some (op, fn, .i f) :=
  ⟨fun h f => h _ rfl _ _ (.i mk f), by rintro h _ ⟨⟩ _ _ ⟨⟩; exact h _⟩

@[simp] theorem places_m {mk : FmtM → Instr} : Places op fn (some (.m mk)) ↔ ∀ f, (mk f).form = some (op, fn, .m f) :=
  ⟨fun h f => h _ rfl _ _ (.m mk f), by rintro h _ ⟨⟩ _ _ ⟨⟩; exact h _⟩

@[simp] theorem places_x {mk : FmtX → Instr} : Places op fn (some (.x mk)) ↔ ∀ f, (mk f).form = some (op, fn, .x f) :=
  ⟨fun h f => h _ rfl _ _ (.x mk f), by rintro h _ ⟨⟩ _ _ ⟨⟩; exact h _⟩

theorem places_mkBarinit (h : op = 0xC0) : Places op 0 (some (.r mkBarinit)) := by
  subst h
  refine places_r.2 fun f => ?_
  unfold mkBarinit
  split <;> rfl

theorem places_mkCsign (h : op = 0xC5) : Places op 0 (some (.r mkCsign)) := by
  subst h
  refine places_r.2 fun f => ?_
  unfold mkCsign
  split <;> rfl

@[simp] theorem places_only0 {b : Builder} : Places op fn (only0 fn b) ↔ (fn = 0 → Places op 0 (some b)) := by
  unfold only0
  split
  · next h => simp only [h, forall_const]
  · next h => simp only [h, places_none, false_imp_iff]

@[simp] theorem places_regImm {r : FmtR → Instr} {i : FmtI → Instr} :
    Places op fn (regImm fn r i) ↔ (fn = 0 → Places op 0 (some (.r r))) ∧ (fn = 8 → Places op 8 (some (.i i))) := by
  unfold regImm
  split
  · next h => subst h; simp
  · next h =>
    split
    · next h8 => subst h8; simp
    · next h8 => simp only [h, h8, places_none, false_imp_iff, and_self]

/-- An opcode whose function is the code of a size or an operation. -/
theorem places_map {α : Type} {code : α → BitVec 4} {ofCode : BitVec 4 → Option α} {mk : α → Builder}
    (hc : ∀ c k, ofCode c = some k ↔ c = code k) :
    Places op fn ((ofCode fn).map mk) ↔ ∀ k, fn = code k → Places op (code k) (some (mk k)) := by
  simp only [← hc]
  cases h : ofCode fn with
  | none => simp
  | some k => simp [← (hc fn k).1 h]

/-- An opcode that takes some of the operations only. -/
theorem places_bind {α : Type} {code : α → BitVec 4} {ofCode : BitVec 4 → Option α} {mk : α → Option Builder}
    (hc : ∀ c k, ofCode c = some k ↔ c = code k) :
    Places op fn ((ofCode fn).bind mk) ↔ ∀ k, fn = code k → Places op (code k) (mk k) := by
  simp only [← hc]
  cases h : ofCode fn with
  | none => simp
  | some k => simp [← (hc fn k).1 h]

@[simp] theorem places_ite {c : Prop} [Decidable c] {b : Builder} :
    Places op fn (if c then some b else none) ↔ (c → Places op fn (some b)) := by
  split
  · next h => simp only [h, forall_const]
  · next h => simp only [h, places_none, false_imp_iff]

end

theorem LdSize.ofCode_eq_some (c : BitVec 4) (k : LdSize) : LdSize.ofCode c = some k ↔ c = k.code :=
  ⟨fun h => (LdSize.code_of c k h).symm, fun h => h ▸ LdSize.ofCode_code k⟩

theorem StSize.ofCode_eq_some (c : BitVec 4) (k : StSize) : StSize.ofCode c = some k ↔ c = k.code :=
  ⟨fun h => (StSize.code_of c k h).symm, fun h => h ▸ StSize.ofCode_code k⟩

theorem AtomOp.ofCode_eq_some (c : BitVec 4) (k : AtomOp) : AtomOp.ofCode c = some k ↔ c = k.code :=
  ⟨fun h => (AtomOp.code_of c k h).symm, fun h => h ▸ AtomOp.ofCode_code k⟩

theorem LdxOp.ofCode_eq_some (c : BitVec 4) (k : LdxOp) : LdxOp.ofCode c = some k ↔ c = k.code :=
  ⟨fun h => (LdxOp.code_of c k h).symm, fun h => h ▸ LdxOp.ofCode_code k⟩

/-- Every arm of the opcode map builds instructions that `Instr.form` gives the OP and FN of the arm. -/
theorem places_builder (op : BitVec 8) (fn : BitVec 4) : Places op fn (builder op fn) := by
  fun_cases builder op fn
  all_goals simp [↓places_mkBarinit, ↓places_mkCsign, places_map LdSize.ofCode_eq_some, places_map StSize.ofCode_eq_some,
    places_map AtomOp.ofCode_eq_some, places_map LdxOp.ofCode_eq_some, places_bind AtomOp.ofCode_eq_some, Instr.form,
    BitVec.toNat_eq, *]

theorem form_of_builder {op : BitVec 8} {fn : BitVec 4} {b : Builder} {g : Form} {i : Instr} (hb : builder op fn = some b)
    (hi : Builds b g i) : i.form = some (op, fn, g) := places_builder op fn b hb g i hi

/-- The opcodes of format X build instructions of format X alone. -/
theorem format_of_isFormatX {op : BitVec 8} {fn : BitVec 4} {b : Builder} {g : Form} {i : Instr} (hx : isFormatX op = true)
    (hb : builder op fn = some b) (hi : Builds b g i) : ∃ f, g = .x f := by
  have hop : ∃ mk, builder op fn = only0 fn (.x mk) := by
    simp only [isFormatX, Bool.or_eq_true, beq_iff_eq] at hx
    rcases hx with (rfl | rfl) | rfl
    · exact ⟨.tcopy, rfl⟩
    · exact ⟨.tgather, rfl⟩
    · exact ⟨.fsend, rfl⟩
  obtain ⟨mk, hmk⟩ := hop
  rw [hmk, only0, Option.ite_none_right_eq_some, Option.some.injEq] at hb
  obtain ⟨-, rfl⟩ := hb
  cases hi with
  | x mk f => exact ⟨f, rfl⟩

end Sys2Proof
end

section
/-! SUPPORT. The decoder and the encoder are inverse to each other (06 R188 to R203): what the decoder makes of packed fields, what
a word that decodes was parsed to, and statements O5 and O6. -/

namespace Sys2Proof

/-- What the decoder makes of packed fields. -/
theorem decode_words {op : BitVec 8} {fn : BitVec 4} {b : Builder} {g : Form} {i : Instr} (hb : builder op fn = some b)
    (hi : Builds b g i) : decode (g.words op fn).1 (g.words op fn).2 = checked (some i) := by
  cases hi with
  | r mk f => exact decode_packR f 0 hb
  | i mk f => exact decode_packI f 0 hb
  | m mk f => exact decode_packM f 0 hb
  | x mk f => exact decode_packX f hb

theorem checked_ok_inv {o : Option Instr} {i : Instr} (h : checked o = .ok i) : o = some i ∧ i.WellFormed = true := by
  unfold checked at h
  split at h
  · cases h
  · split at h
    · next hc =>
      cases h
      exact ⟨rfl, beq_iff_eq.2 hc⟩
    · cases h
    · cases h

/-- A word and record that decode pack the fields of the instruction that OP and FN build from them. -/
theorem decode_ok_inv {w : IWord} {r : Record} {i : Instr} (h : decode w r = .ok i) :
    i.WellFormed = true ∧ ∃ b g, builder (w.extractLsb' 88 8) (w.extractLsb' 84 4) = some b ∧ Builds b g i ∧
      (g.words (w.extractLsb' 88 8) (w.extractLsb' 84 4)).1 = w ∧
      ∀ f, g = .x f → f.shape.pack = r := by
  unfold decode at h
  split at h
  · cases h
  · next mk hb =>
    obtain ⟨ho, hw⟩ := checked_ok_inv h
    obtain ⟨f, hf, rfl⟩ := Option.map_eq_some_iff.1 ho
    exact ⟨hw, _, .r f, hb, .r mk f, FmtR.pack_ofWord hf, by simp⟩
  · next mk hb =>
    obtain ⟨ho, hw⟩ := checked_ok_inv h
    obtain ⟨f, hf, rfl⟩ := Option.map_eq_some_iff.1 ho
    exact ⟨hw, _, .i f, hb, .i mk f, FmtI.pack_ofWord hf, by simp⟩
  · next mk hb =>
    split at h
    · next hsc hord hasp =>
      obtain ⟨ho, hw⟩ := checked_ok_inv h
      obtain ⟨f, hf, rfl⟩ := Option.map_eq_some_iff.1 ho
      exact ⟨hw, _, .m f, hb, .m mk f, FmtM.pack_ofWord hsc hord hasp hf, by simp⟩
    · cases h
  · next mk hb =>
    split at h
    · next f s hf hs =>
      obtain ⟨ho, hw⟩ := checked_ok_inv h
      cases ho
      exact ⟨hw, _, .x ⟨f, s⟩, hb, .x mk _, FmtR.pack_ofWord hf, fun _ hx => Form.x.inj hx ▸ Shape.pack_ofRecord hs⟩
    · cases h

/-- A word and record that decode are the word and, where the format has any, the record of what they decode to. -/
theorem encode_of_decode {w : IWord} {r : Record} {i : Instr} (h : decode w r = .ok i) :
    i.WellFormed = true ∧ ∃ g, i.form = some (w.extractLsb' 88 8, w.extractLsb' 84 4, g) ∧
      (g.words (w.extractLsb' 88 8) (w.extractLsb' 84 4)).1 = w ∧
      (isFormatX (w.extractLsb' 88 8) = true → (g.words (w.extractLsb' 88 8) (w.extractLsb' 84 4)).2 = r) := by
  obtain ⟨hw, b, g, hb, hi, hword, hrec⟩ := decode_ok_inv h
  refine ⟨hw, g, form_of_builder hb hi, hword, fun hx => ?_⟩
  obtain ⟨f, rfl⟩ := format_of_isFormatX hx hb hi
  exact hrec f rfl

/-- Settles O5: the opcode map holds the builder of the instruction at its OP and FN, and the fields that it packs read back. -/
theorem decodeOfEncode : Obligations.DecodeOfEncode := by
  unfold Obligations.DecodeOfEncode
  intro i w r hw he
  cases hf : i.form with
  | none => exact Laws.Encoding.of_none hf w r hw he
  | some p =>
    obtain ⟨op, fn, g⟩ := p
    obtain ⟨b, hb, hi⟩ := builder_of_form hw hf
    have hwr : g.words op fn = (w, r) := Option.some.inj ((encode_of_form hf).symm.trans he)
    have hd := decode_words hb hi
    rw [hwr] at hd
    exact hd.trans (checked_wf hw)

/-- Settles O6: every bit of a word that decodes lies in a field that packs to it again, and the map builds from its OP and FN only
instructions of that OP and FN. -/
theorem encodeOfDecode : Obligations.EncodeOfDecode := by
  unfold Obligations.EncodeOfDecode
  intro i w r h
  obtain ⟨hw, g, hf, hword, hrec⟩ := encode_of_decode h
  refine ⟨hw, (g.words _ _).2, ?_, hrec⟩
  rw [encode_of_form hf]
  exact congrArg some (Prod.ext hword rfl)

end Sys2Proof
end

section
/-! SUPPORT. The common fields of a word and the guard (06 R188): the reserved scheduling values, the lanes whose guard is true,
and statement O7. -/

namespace Sys2Proof

/-! ### Reserved scheduling values -/

/-- The checks of an instruction are those of its format under some rule. -/
inductive ChecksAs : Form → Accept.Verdict → Prop
  | r (f : FmtR) (rule : Accept.RRule) : ChecksAs (.r f) (Accept.chkR f rule)
  | i (f : FmtI) (rule : Accept.IRule) : ChecksAs (.i f) (Accept.chkI f rule)
  | m (f : FmtM) (rule : Accept.MRule) : ChecksAs (.m f) (Accept.chkM f rule)
  | x (f : FmtX) (rule : Accept.RRule) : ChecksAs (.x f) (Accept.chkX f rule)

theorem check_of_form {i : Instr} {op : BitVec 8} {fn : BitVec 4} {g : Form} (hf : i.form = some (op, fn, g)) :
    ChecksAs g (Accept.check i) := by
  cases i
  all_goals cases hf <;> constructor

/-- Whatever the rule, a format that passes its checks holds no reserved scheduling value. -/
theorem ChecksAs.schedOk {g : Form} {v : Accept.Verdict} (h : ChecksAs g v) (hv : v = .ok) : Accept.schedOk g.sched = true := by
  cases h with
  | r f rule | i f rule | m f rule | x f rule =>
    simp only [Accept.chkX, Accept.chkR, Accept.chkI, Accept.chkM, verdict_eq_ok, Bool.and_eq_true] at hv
    simp only [Form.sched, hv]

theorem schedOk_iff {s : Sched} : Accept.schedOk s = true ↔ s.set ≠ 6 ∧ ¬ (s.pg = 7 ∧ s.pn = true) := by
  simp [Accept.schedOk, imp_iff_not_or]

end Sys2Proof

namespace Sys2Proof.Machine

/-! ### The guard -/

theorem getLsbD_maskWhere (p : Nat → Bool) {l : Nat} (hl : l < 32) : (maskWhere p).getLsbD l = p l := by
  have h := getLsbD_foldl_setBits (w := 32) (fun _ => true) ((List.range 32).filter p) 0 l hl
  simpa [maskWhere, maskOf, hl] using h

/-- A lane takes part when it is issued and its predicate, which is true for PG = 7, is not what PN negates. -/
theorem getLsbD_guardMask (g : Group) (free : Nat) (issued : Mask) (sc : Sched) {l : Nat} (hl : l < 32) :
    (g.guardMask free issued sc).getLsbD l = (issued.getLsbD l && (g.seePred free l sc.pg.toNat != sc.pn)) := by
  rw [Group.guardMask, BitVec.getLsbD_and, getLsbD_maskWhere _ hl]

/-- The guard is true with PG = 7 and PN = 0, and else says whether the predicate differs from zero, or does not with PN = 1. -/
theorem guard_iff (g : Group) (free l : Nat) (sc : Sched) :
    (g.seePred free l sc.pg.toNat != sc.pn) = true ↔
      (sc.pg = 7 ∧ sc.pn = false) ∨
        (sc.pg ≠ 7 ∧ ((sc.pn = false ∧ g.see free l (predKey sc.pg.toNat) ≠ 0) ∨
          (sc.pn = true ∧ g.see free l (predKey sc.pg.toNat) = 0))) := by
  by_cases h7 : sc.pg = 7#3
  · simp [Group.seePred, h7]
  · have hn : sc.pg.toNat ≠ 7 := fun h => h7 (BitVec.eq_of_toNat_eq h)
    cases hpn : sc.pn <;> simp [Group.seePred, h7, hn]

/-- Settles O7: a word that decodes is the packed word of its instruction, so it carries the common fields; the checks that it
passed leave no reserved scheduling value. -/
theorem commonFieldsAndGuard : Obligations.CommonFieldsAndGuard := by
  unfold Obligations.CommonFieldsAndGuard
  intro w r i h
  obtain ⟨hw, gf, hf, hword, -⟩ := encode_of_decode h
  have hdst : w.extractLsb' 56 10 = gf.dst.code := by
    rw [← words_dst (w.extractLsb' 88 8) (w.extractLsb' 84 4) gf, hword]
  have hsched : i.sched = Sched.ofWord w := by
    rw [sched_of_form hf, ← words_sched (w.extractLsb' 88 8) (w.extractLsb' 84 4) gf, hword]
  have hok : Accept.schedOk i.sched = true := by
    rw [sched_of_form hf]
    exact (check_of_form hf).schedOk (eq_of_beq hw)
  obtain ⟨hset, hpg⟩ := schedOk_iff.1 hok
  refine ⟨⟨_, _, gf, hf, rfl, rfl, ?_⟩, ?_, ?_, ?_, ?_, ?_, ?_, ?_, ?_, ?_⟩
  · rw [hdst]
    cases gf <;> rfl
  · rw [hsched]; rfl
  · rw [hsched]; exact beq_iff_eq
  · rw [hsched]; rfl
  · rw [hsched]; exact beq_iff_eq
  · rw [hsched]; rfl
  · rw [hsched]; rfl
  · rwa [hsched] at hset
  · rw [hsched] at hpg
    rwa [Sched.ofWord, beq_iff_eq] at hpg
  · intro g free l issued hl
    rw [getLsbD_guardMask g free issued _ hl, Bool.and_eq_true, guard_iff g free l]

end Sys2Proof.Machine
end

section
/-! SUPPORT. Integer formats (07 R215, 08 R232): a register read back in its type is congruent to what it holds and lies in the
type's range, the value of a register pair, the halves of a packed word, and statement O10. -/

namespace Sys2Proof.Machine

/-! ### Integer types -/

theorem ibits_pos (t : Ty) : 0 < ibits t := by
  cases t <;> decide

/-- The range of an integer type holds one value of each residue. -/
theorem imax_eq (t : Ty) : imax t = imin t + 2 ^ ibits t - 1 := by
  have h : (2 : Int) ^ ibits t = 2 * 2 ^ (ibits t - 1) := (mul_pow_sub_one (ibits_pos t).ne' 2).symm
  unfold imax imin
  split <;> omega

theorem imin_le_imax (t : Ty) : imin t ≤ imax t := by
  have h : (0 : Int) < 2 ^ ibits t := by positivity
  have := imax_eq t
  omega

theorem iclamp_mem (t : Ty) (x : Int) : iclamp t x ∈ Set.Icc (imin t) (imax t) :=
  ⟨le_max_left _ _, max_le (imin_le_imax t) (min_le_left _ _)⟩

/-- Table 7.2, one row for each integer format. -/
def intFormats : List (Ty × Nat × Int × Int) :=
  [(.i8, 8, -128, 127), (.n8, 8, 0, 255), (.i16, 16, -32768, 32767), (.n16, 16, 0, 65535),
    (.i32, 32, -2 ^ 31, 2 ^ 31 - 1), (.n32, 32, 0, 2 ^ 32 - 1), (.i64, 64, -2 ^ 63, 2 ^ 63 - 1), (.n64, 64, 0, 2 ^ 64 - 1)]

/-- The model's widths and ranges are those of Table 7.2. -/
theorem intFormats_row : ∀ r ∈ intFormats, ibits r.1 = r.2.1 ∧ imin r.1 = r.2.2.1 ∧ imax r.1 = r.2.2.2 := by
  decide

/-! ### Wrapping and sign -/

theorem natCast_wrapNat (w : Nat) (x : Int) : (wrapNat w x : Int) = x % 2 ^ w :=
  Int.toNat_of_nonneg (Int.emod_nonneg x (by positivity))

theorem wrapNat_modEq {w n : Nat} (h : w ≤ n) (x : Int) : (wrapNat n x : Int) ≡ x [ZMOD 2 ^ w] := by
  rw [natCast_wrapNat]
  exact (Int.mod_modEq x _).of_dvd (pow_dvd_pow 2 h)

theorem toSigned_modEq (w x : Nat) : toSigned w x ≡ x [ZMOD 2 ^ w] := by
  have hx : ((x % 2 ^ w : Nat) : Int) ≡ x [ZMOD 2 ^ w] := by
    push_cast
    exact Int.mod_modEq _ _
  simp only [toSigned]
  split
  · exact hx
  · exact Int.sub_modulus_modEq_iff.2 hx

theorem toSigned_mem {w : Nat} (hw : 0 < w) (x : Nat) : toSigned w x ∈ Set.Icc (-2 ^ (w - 1) : Int) (2 ^ (w - 1) - 1) := by
  have hlt : x % 2 ^ w < 2 ^ w := Nat.mod_lt _ (by positivity)
  have h : 2 ^ w = 2 * 2 ^ (w - 1) := (mul_pow_sub_one hw.ne' 2).symm
  zify at hlt h
  simp only [toSigned, Set.mem_Icc]
  split
  all_goals zify at *; omega

/-! ### Registers in an integer type -/

theorem iread_modEq (t : Ty) (v : Nat) : iread t v ≡ v [ZMOD 2 ^ ibits t] := by
  unfold iread
  split
  · exact toSigned_modEq _ v
  · push_cast
    exact Int.mod_modEq _ _

theorem iread_mem (t : Ty) (v : Nat) : iread t v ∈ Set.Icc (imin t) (imax t) := by
  unfold iread imin imax
  split
  · exact toSigned_mem (ibits_pos t) v
  · have hlt : v % 2 ^ ibits t < 2 ^ ibits t := Nat.mod_lt _ (by positivity)
    zify at hlt
    exact ⟨Int.natCast_nonneg _, by push_cast; omega⟩

/-- A register holds the one value of its type's range that is congruent to it. -/
theorem iread_eq_of_modEq {t : Ty} {v : Nat} {y : Int} (h : (v : Int) ≡ y [ZMOD 2 ^ ibits t])
    (hy : y ∈ Set.Icc (imin t) (imax t)) : iread t v = y := by
  have hdvd : (2 ^ ibits t : Int) ∣ iread t v - y := ((iread_modEq t v).trans h).symm.dvd
  have hv := iread_mem t v
  have hmax := imax_eq t
  rw [Set.mem_Icc] at hv hy
  have hlt : |iread t v - y| < 2 ^ ibits t := abs_lt.2 (by omega)
  exact sub_eq_zero.1 (Int.eq_zero_of_abs_lt_dvd hdvd hlt)

/-- Without SAT the register holds the exact result modulo 2^w. -/
theorem iwrite_false_modEq (t : Ty) (x : Int) : (iwrite t false x : Int) ≡ x [ZMOD 2 ^ ibits t] := by
  have hw : (wrapNat (ibits t) x : Int) ≡ x [ZMOD 2 ^ ibits t] := wrapNat_modEq le_rfl x
  refine (wrapNat_modEq (le_max_right 32 _) _).trans ?_
  cases isigned t
  · exact hw
  · exact (toSigned_modEq _ _).trans hw

/-- With SAT it holds the exact result clamped to the range. -/
theorem iwrite_true_modEq (t : Ty) (x : Int) : (iwrite t true x : Int) ≡ iclamp t x [ZMOD 2 ^ ibits t] :=
  wrapNat_modEq (le_max_right 32 _) _

theorem iread_iwrite_false_modEq (t : Ty) (x : Int) : iread t (iwrite t false x) ≡ x [ZMOD 2 ^ ibits t] :=
  (iread_modEq t _).trans (iwrite_false_modEq t x)

@[simp] theorem iread_iwrite_true (t : Ty) (x : Int) : iread t (iwrite t true x) = iclamp t x :=
  iread_eq_of_modEq (iwrite_true_modEq t x) (iclamp_mem t x)

/-! ### Pairs and packed halves -/

/-- A pair has its low word in the even register. -/
theorem Ix.rd_pair (x : Ix) (l : Nat) (n : BitVec 7) :
    x.rd l (.d n) = x.reg l (x.t.desc.vwv / 4 + 2 * n.toNat) + 2 ^ 32 * x.reg l (x.t.desc.vwv / 4 + 2 * n.toNat + 1) :=
  rfl

@[simp] theorem half_pair16_zero (lo hi : Nat) : half (pair16 lo hi) 0 = lo % 2 ^ 16 := by
  simp only [half, pair16, bits]
  omega

@[simp] theorem half_pair16_one (lo hi : Nat) : half (pair16 lo hi) 1 = hi % 2 ^ 16 := by
  simp only [half, pair16, bits]
  omega

/-- Half 0 is the low bits of the word. -/
theorem half_zero (x : Nat) : half x 0 = x % 2 ^ 16 := by
  simp [half, bits]

/-- Settles O10: what is read back is the one value of the type's range congruent to the register, which holds the exact result
modulo 2^w, or clamped. -/
theorem narrowingWrapsOrClamps : Obligations.NarrowingWrapsOrClamps := by
  unfold Obligations.NarrowingWrapsOrClamps
  refine ⟨?_, fun x l v n => ⟨rfl, x.rd_pair l n⟩, fun lo hi =>
    ⟨half_pair16_zero lo hi, half_pair16_one lo hi, (half_zero _).symm.trans (half_pair16_zero lo hi)⟩⟩
  intro t w lo hi x v hrow
  obtain ⟨rfl, rfl, rfl⟩ : ibits t = w ∧ imin t = lo ∧ imax t = hi := intFormats_row _ hrow
  obtain ⟨hlo, hhi⟩ := iread_mem t v
  exact ⟨Int.emod_eq_emod_iff_emod_sub_eq_zero.1 (iread_iwrite_false_modEq t x), iread_iwrite_true t x, hlo, hhi,
    Int.emod_eq_emod_iff_emod_sub_eq_zero.1 (iread_modEq t v)⟩

end Sys2Proof.Machine
end

section
/-! SUPPORT. The shape "read, compute, write" of the scalar instructions (08 R234): an instruction whose meaning is `Ix.alu` or
`Ix.aluSr` under the issue latch computes, and statements O9, O11 and O13 to O17. -/

namespace Sys2Proof.Machine

/-- An instruction whose meaning is `Ix.alu`; that it is holds by unfolding its arm of `exec`. -/
theorem computes_of_alu {i : Instr} {lat : Nat} {o : Opds} {f : Ix → Args → Nat}
    (h : ∀ s, exec i s = issue s i.sched fun x => x.alu i.sched lat o (f x) := by exact fun _ => rfl) : Computes i o f :=
  fun s _ hl hop => ⟨_, (h s).trans (issue_latched hl _), alu_result hop⟩

/-- As `computes_of_alu`, for `Ix.aluSr` (07 R218). -/
theorem computesSr_of_aluSr {i : Instr} {lat : Nat} {o : Opds} {f : Args → Nat × Word}
    (h : ∀ s, exec i s = issue s i.sched fun x => x.aluSr i.sched lat o f := by exact fun _ => rfl) : ComputesSr i o f :=
  fun s _ hl hop => ⟨_, (h s).trans (issue_latched hl _), aluSr_result hop⟩

/-- Settles O9: every form is `Ix.alu` with its exact result in TY. -/
theorem integerArithmetic : Obligations.IntegerArithmetic := by
  unfold Obligations.IntegerArithmetic
  intro f g r q a b c ai n
  and_intros
  all_goals exact computes_of_alu

/-- Settles O11: every form is `Ix.alu` with a function of 32-bit patterns. -/
theorem logicAndBits : Obligations.LogicAndBits := by
  unfold Obligations.LogicAndBits
  intro f g n a2 a3 i1
  and_intros
  all_goals exact computes_of_alu

/-- Settles O13: every form is `Ix.alu`; ISELI and P2V also look at the predicates of the lane. -/
theorem comparesAndSelects : Obligations.ComparesAndSelects := by
  unfold Obligations.ComparesAndSelects
  intro f g m
  and_intros
  all_goals exact computes_of_alu

/-- Settles O14: FADD, FMUL, FFMA, FMIN, FMAX and FSCALE may round stochastically; FRND, FCLASS and the immediate forms do not. -/
theorem floatArithmetic : Obligations.FloatArithmetic := by
  unfold Obligations.FloatArithmetic
  intro f g a b c r ai n q
  exact ⟨computesSr_of_aluSr, computes_of_alu, computesSr_of_aluSr, computes_of_alu, computesSr_of_aluSr, computesSr_of_aluSr,
    computes_of_alu, computesSr_of_aluSr, computes_of_alu, computes_of_alu, computes_of_alu, computesSr_of_aluSr,
    computes_of_alu⟩

/-- Settles O15: the format-R forms may round stochastically, half 0 first; the immediate forms do not. -/
theorem packedArithmetic : Obligations.PackedArithmetic := by
  unfold Obligations.PackedArithmetic
  intro f g src r q
  exact ⟨computesSr_of_aluSr, computes_of_alu, computesSr_of_aluSr, computes_of_alu, computesSr_of_aluSr, computesSr_of_aluSr,
    computes_of_alu, computesSr_of_aluSr, computes_of_alu⟩

/-- Settles O16: CVT, I2F and PACK may round stochastically; the special functions, F2I and UNPK do not. -/
theorem specialFunctionsAndConversions : Obligations.SpecialFunctionsAndConversions := by
  unfold Obligations.SpecialFunctionsAndConversions
  intro f ftz fn w el
  exact ⟨computes_of_alu, computes_of_alu, computes_of_alu, computes_of_alu, computes_of_alu, computes_of_alu, computes_of_alu,
    computes_of_alu, computesSr_of_aluSr, computes_of_alu, computesSr_of_aluSr, computesSr_of_aluSr, computes_of_alu⟩

/-- VOTE gives every active lane what its mode makes of the lanes. -/
theorem computes_vote {f : FmtR} {v : Ix → Nat}
    (h : ∀ s, execVote f s = issue s f.sched fun x => x.alu f.sched 6 (opsR1 f) fun _ => v x) :
    Computes (.vote f) (opsR1 f) fun x _ => v x :=
  computes_of_alu h

/-- Settles O17: every form is `Ix.alu` with a function of the lane and of what the active lanes hold; VOTE by its mode. -/
theorem movesAndGroupOperations : Obligations.MovesAndGroupOperations := by
  unfold Obligations.MovesAndGroupOperations
  intro f g vals holders upTo
  refine ⟨computes_of_alu, computes_of_alu, computes_of_alu, fun hall => computes_vote fun s => ?_,
    fun hany => computes_vote fun s => ?_, fun huni => computes_vote fun s => ?_, fun hballot => computes_vote fun s => ?_,
    computes_of_alu, computes_of_alu, computes_of_alu, computes_of_alu⟩
  · simp only [execVote, groupOp, hall, vals, List.all_map, Function.comp_def]
  · simp only [execVote, groupOp, hany, vals, List.any_map, Function.comp_def]
  · simp only [execVote, groupOp, huni, vals, List.all_map, Function.comp_def]
  · simp only [execVote, groupOp, hballot, holders]

end Sys2Proof.Machine
end

section
/-! SUPPORT. The shift and bit functions (08 R238, Table 8.3) against the operations on 32-bit words, numbers that are summed
bit by bit, and statement O12. -/

namespace Sys2Proof.Machine

/-! ### Numbers summed bit by bit -/

theorem sum_bits_lt (p : Nat → Bool) (n : Nat) :
    (List.range n).foldl (fun x i => x + if p i then 2 ^ i else 0) 0 < 2 ^ n := by
  induction n with
  | zero => simp
  | succ n ih =>
    rw [List.range_succ, List.foldl_append, List.foldl_cons, List.foldl_nil, pow_succ]
    split <;> omega

theorem testBit_sum_bits (p : Nat → Bool) (n i : Nat) :
    ((List.range n).foldl (fun x i => x + if p i then 2 ^ i else 0) 0).testBit i = (decide (i < n) && p i) := by
  induction n with
  | zero => simp
  | succ n ih =>
    have hlt := sum_bits_lt p n
    rw [List.range_succ, List.foldl_append, List.foldl_cons, List.foldl_nil]
    rcases lt_trichotomy i n with h | rfl | h
    · cases hp : p n
      · simp [ih, h, h.trans (Nat.lt_succ_self n)]
      · rw [if_pos rfl, add_comm, Nat.testBit_two_pow_add_gt h, ih]
        simp [h, h.trans (Nat.lt_succ_self n)]
    · cases hp : p i
      · simp [ih]
      · rw [if_pos rfl, add_comm, Nat.testBit_two_pow_add_eq, ih]
        simp
    · have hbig : 2 ^ (n + 1) ≤ 2 ^ i := Nat.pow_le_pow_right two_pos h
      rw [Nat.testBit_lt_two_pow]
      · simp [Nat.not_lt.2 h]
      · rw [pow_succ] at hbig
        split <;> omega

theorem bits_one (x i : Nat) : bits x i 1 = if x.testBit i then 1 else 0 := by
  rw [bits, pow_one, ← Nat.toNat_testBit]
  cases x.testBit i <;> rfl

/-! ### Shifts and rotations -/

/-- A left shift by a count of 32 or more leaves no bit of the word. -/
theorem shlVal_eq (a : Word) (n : Nat) : shlVal a.toNat n = (a <<< n).toNat := by
  rw [BitVec.toNat_shiftLeft, Nat.shiftLeft_eq, shlVal]
  split
  · next h => exact (Nat.mod_eq_zero_of_dvd ((pow_dvd_pow 2 h).mul_left _)).symm
  · rfl

theorem shrVal_eq (a : Word) (n : Nat) : shrVal a.toNat n = (a >>> n).toNat := by
  rw [BitVec.toNat_ushiftRight, Nat.shiftRight_eq_div_pow, shrVal]
  split
  · next h => exact (Nat.div_eq_of_lt (a.isLt.trans_le (Nat.pow_le_pow_right two_pos h))).symm
  · rfl

theorem toSigned_toNat (a : Word) : toSigned 32 a.toNat = a.toInt := by
  rw [toSigned, BitVec.toInt_eq_toNat_cond, Nat.mod_eq_of_lt a.isLt]
  split <;> split <;> omega

/-- A signed shift by 31 or more leaves the sign alone, so the count may be cut at 31. -/
theorem toInt_div_pow_min (a : Word) (n : Nat) : a.toInt / 2 ^ min n 31 = a.toInt / 2 ^ n := by
  rcases le_total n 31 with h | h
  · rw [min_eq_left h]
  · have hlo := a.le_two_mul_toInt
    have hhi := a.two_mul_toInt_lt
    have hp : (2 : Int) ^ 31 ≤ 2 ^ n := pow_le_pow_right₀ (by norm_num) h
    rw [min_eq_right h]
    rcases le_or_gt 0 a.toInt with h0 | h0
    · rw [Int.ediv_eq_zero_of_lt h0 (by omega), Int.ediv_eq_zero_of_lt h0 (by omega)]
    · rw [Int.ediv_eq_neg_one_of_neg_of_le h0 (by omega), Int.ediv_eq_neg_one_of_neg_of_le h0 (by omega)]

theorem sarVal_eq (a : Word) (n : Nat) : sarVal a.toNat n = (a.sshiftRight n).toNat := by
  rw [sarVal, toSigned_toNat, toInt_div_pow_min, BitVec.sshiftRight, BitVec.toNat_ofInt, Int.shiftRight_eq_div_pow]
  rfl

/-- The two parts of a rotated word share no bit, so their sum is their union. -/
theorem rotlVal_eq (a : Word) (n : Nat) : rotlVal a.toNat n = (a.rotateLeft n).toNat := by
  have hm : n % 32 < 32 := Nat.mod_lt _ (by norm_num)
  rw [BitVec.toNat_rotateLeft, rotlVal]
  generalize n % 32 = m at hm
  have hs : 2 ^ 32 = 2 ^ (32 - m) * 2 ^ m := by rw [← pow_add, Nat.sub_add_cancel hm.le]
  have hlow : a.toNat / 2 ^ (32 - m) < 2 ^ m := Nat.div_lt_of_lt_mul (hs ▸ a.isLt)
  have hhigh : a.toNat * 2 ^ m % 2 ^ 32 = (a.toNat % 2 ^ (32 - m)) <<< m := by
    rw [hs, Nat.mul_mod_mul_right, Nat.shiftLeft_eq]
  rw [Nat.shiftLeft_eq, Nat.shiftRight_eq_div_pow, hhigh, Nat.shiftLeft_add_eq_or_of_lt hlow]

/-! ### Counts and bits -/

theorem clzVal_zero : clzVal 0 = 32 := rfl

theorem clzVal_of_ne_zero {a : Nat} (h : a ≠ 0) : clzVal a = 31 - a.log2 := if_neg h

theorem clzVal_eq_iff (a : Word) : clzVal a.toNat = 32 ↔ a = 0 := by
  constructor
  · intro h
    by_contra h0
    rw [clzVal_of_ne_zero fun h' => h0 (BitVec.eq_of_toNat_eq h')] at h
    omega
  · rintro rfl
    exact clzVal_zero

/-- The highest one bit stands below as many zeros as CLZ counts. -/
theorem clzVal_bounds {a : Word} (h : a ≠ 0) :
    2 ^ (31 - clzVal a.toNat) ≤ a.toNat ∧ a.toNat < 2 ^ (32 - clzVal a.toNat) := by
  have h0 : a.toNat ≠ 0 := fun h' => h (BitVec.eq_of_toNat_eq h')
  have hlog : a.toNat.log2 < 32 := (Nat.log2_lt h0).2 a.isLt
  have hlo : 31 - clzVal a.toNat = a.toNat.log2 := by rw [clzVal_of_ne_zero h0]; omega
  have hhi : 32 - clzVal a.toNat = a.toNat.log2 + 1 := by rw [clzVal_of_ne_zero h0]; omega
  rw [hlo, hhi]
  exact ⟨Nat.log2_self_le h0, Nat.lt_log2_self⟩

theorem testBit_brevVal (a : Word) (i : Fin 32) : (brevVal a.toNat).testBit i = a.getLsbD (31 - i) := by
  rw [brevVal, testBit_sum_bits, decide_eq_true i.isLt, Bool.true_and, BitVec.testBit_toNat]

theorem testBit_lut3Word (t a b c : Nat) (i : Fin 32) :
    (lut3Word t a b c).testBit i =
      t.testBit ((if a.testBit i then 1 else 0) + (if b.testBit i then 2 else 0) + (if c.testBit i then 4 else 0)) := by
  rw [lut3Word, testBit_sum_bits, decide_eq_true i.isLt, Bool.true_and, lutBit]
  simp only [bits_one, mul_ite, mul_one, mul_zero]

/-- Settles O12, one lemma for each function. -/
theorem bitFunctions : Obligations.BitFunctions := by
  unfold Obligations.BitFunctions
  intro a b k i
  exact ⟨shlVal_eq a b.toNat, shrVal_eq a b.toNat, sarVal_eq a b.toNat, rotlVal_eq a k, clzVal_eq_iff a, clzVal_bounds,
    testBit_brevVal a i, fun t => testBit_lut3Word t a.toNat b.toNat k i⟩

end Sys2Proof.Machine
end

section
/-! SUPPORT. Instructions that write more than one destination, or read SA of a computed lane (08 R240, R241, R251): lists that
write one value at each lane and key of a condition, packed compares, predicate vectors, and statement O18. -/

namespace Sys2Proof.Machine

/-! ### Lists of writes -/

/-- A list that holds, for each lane and key of a condition, one write of one value. -/
theorem writes_ite {ws : List Wr} {P : Nat → Nat → Prop} [∀ l k, Decidable (P l k)] {u v : Nat → Nat → Word}
    (hk : ∀ r ∈ ws, r.key < 263) (hm : ∀ r : Wr, r.lane < 32 → (r ∈ ws ↔ P r.lane r.key ∧ r.val = u r.lane r.key))
    (hu : ∀ l k, l < 32 → P l k → kept k (u l k) = v l k) : Writes ws fun l k => if P l k then some (v l k) else none := by
  refine ⟨hk, fun l k hl _ => ?_⟩
  by_cases hp : P l k
  · simp only [if_pos hp]
    have hin : (⟨l, k, u l k⟩ : Wr) ∈ ws := (hm _ hl).2 ⟨hp, rfl⟩
    refine ⟨u l k, hu l k hl hp, ⟨_, hin, rfl, rfl⟩, ?_⟩
    rintro r hr rfl rfl
    exact ((hm r hl).1 hr).2
  · simp only [if_neg hp]
    rintro r hr ⟨rfl, rfl⟩
    exact hp ((hm r hl).1 hr).1

theorem mem_flatMap_append {α : Type} {ls : List Nat} {f g : Nat → List α} {r : α} :
    (r ∈ ls.flatMap fun l => f l ++ g l) ↔ r ∈ ls.flatMap f ∨ r ∈ ls.flatMap g := by
  simp only [List.mem_flatMap, List.mem_append, and_or_left, exists_or]

/-! ### Packed compares -/

@[simp] theorem regsOf_predNext (d : Desc) (o : Opd) : d.regsOf (predNext o) = [] := by
  cases o <;> rfl

/-- The named destination and the predicate after it share no key; after p7, which discards, comes p0. -/
theorem wr_predNext_disjoint {x : Ix} {o : Opd} (ho : ∀ n ∈ x.t.desc.regsOf o, n < 256) (m : Mask) (f g : Nat → Nat)
    (l k : Nat) : x.wr m o f l k = none ∨ x.wr m (predNext o) g l k = none := by
  cases o with
  | p j =>
    have hne : j ≠ j + 1 := by bv_omega
    exact wr_disjoint ho rfl (fun h => hne (Opd.p.inj h)) m m f g l k
  | v n | d n | t n | a n | zero | c n => exact .inr (ite_self _)

/-- The outcome of a packed compare in half `h` of lane `l`, as 0 or 1. -/
def Ix.halfCmp (x : Ix) (o : Opds) (t : Ty) (mod : BitVec 11) (cmp : Nat) (b : Args → Nat) (h l : Nat) : Nat :=
  flag (floatCmp cmp (fsrc t mod 0 (half (x.args o l).a h)) (fsrc t mod 1 (half (b (x.args o l)) h)))

theorem setp2_ends {x : Ix} {sc : Sched} {o : Opds} {t : Ty} {mod : BitVec 11} {cmp : Nat} {b : Args → Nat}
    (hop : x.operandTrap (x.sources o) (x.t.desc.regsOf o.dst) = none) :
    Ends x sc (orWrite (x.wr x.active o.dst (x.halfCmp o t mod cmp b 0))
      (x.wr x.active (predNext o.dst) (x.halfCmp o t mod cmp b 1))) x.stepped (x.setp2 sc o t mod cmp b) := by
  have hdst := names_lt hop
  have hw := writes_or (writes_dst hdst x.active (x.halfCmp o t mod cmp b 0))
    (writes_dst (by simp) x.active (x.halfCmp o t mod cmp b 1)) (fun _ => mem_flatMap_append)
    fun l k _ _ => wr_predNext_disjoint hdst x.active _ _ l k
  rw [Ix.setp2, hop]
  exact finish_ends x sc (some 4) hw

/-! ### Predicate vectors -/

theorem mem_predWrites {l mask v : Nat} {r : Wr} :
    r ∈ predWrites l mask v ↔ r.lane = l ∧ r.key < 263 ∧ (256 ≤ r.key ∧ mask.testBit (r.key - 256) = true) ∧
      r.val = if v.testBit (r.key - 256) then 1 else 0 := by
  obtain ⟨rl, rk, rv⟩ := r
  simp only [predWrites, predKey, List.mem_map, List.mem_filter, List.mem_range, Wr.mk.injEq]
  constructor
  · rintro ⟨j, ⟨hj, hmask⟩, rfl, rfl, rfl⟩
    simpa [hmask] using Nat.add_lt_add_left hj 256
  · rintro ⟨rfl, hlt, ⟨hge, hmask⟩, hval⟩
    exact ⟨rk - 256, ⟨by omega, hmask⟩, rfl, by omega, hval.symm⟩

theorem modField_lt (m : BitVec 11) (lo len : Nat) : modField m lo len < 2 ^ len :=
  (m.extractLsb' lo len).isLt

theorem lt_of_testBit {m n j : Nat} (hm : m < 2 ^ n) (h : m.testBit j = true) : j < n := by
  by_contra hge
  rw [Nat.testBit_lt_two_pow (hm.trans_le (Nat.pow_le_pow_right two_pos (not_lt.1 hge)))] at h
  exact Bool.false_ne_true h

/-- What V2P writes in the lanes of a mask: no bit of MOD[6:0] selects p7. -/
theorem writes_predWrites (m : Mask) {mask : Nat} (hmask : mask < 2 ^ 7) (v : Nat → Nat) :
    Writes ((lanesOf m).flatMap fun l => predWrites l mask (v l)) fun l k =>
      if m.getLsbD l = true ∧ 256 ≤ k ∧ mask.testBit (k - 256) = true then
        some (if (v l).testBit (k - 256) then 1 else 0) else none := by
  refine writes_ite (u := fun l k => if (v l).testBit (k - 256) then 1 else 0) ?_ (fun r hr => ?_) fun l k _ hp => ?_
  · intro r hr
    obtain ⟨l, -, hr⟩ := List.mem_flatMap.1 hr
    obtain ⟨-, hlt, -⟩ := mem_predWrites.1 hr
    exact hlt
  · simp only [List.mem_flatMap, mem_lanesOf, mem_predWrites]
    constructor
    · rintro ⟨l, ⟨-, hm⟩, rfl, -, hp, hv⟩
      exact ⟨⟨hm, hp⟩, hv⟩
    · rintro ⟨⟨hm, hge, hbit⟩, hv⟩
      have hlt := lt_of_testBit hmask hbit
      exact ⟨r.lane, ⟨hr, hm⟩, rfl, by omega, ⟨hge, hbit⟩, hv⟩
  · obtain ⟨-, hge, -⟩ := hp
    rw [kept, if_neg (not_lt.2 hge)]
    split <;> simp

/-! ### The instructions -/

/-- The lane that lane `l` of a PERM reads SA of: the one that its SB and MOD name (06 R190). -/
def Ix.permFrom (x : Ix) (f : FmtR) (l : Nat) : Nat := f.perm.from (x.rd l f.sb % 32)

section

variable {s : State} {x : Ix} {f : FmtR}

theorem exec_hsetp2 (h : Latched s f.sched x) :
    exec (.hsetp2 f) s = .next (x.setp2 f.sched (opsR2 f) f.ty (f.mod &&& 0x21B) (cmpOf f) fun y => y.b) := by
  change execHsetp2 f s = _
  rw [execHsetp2, issue_latched h]

theorem exec_hsetp2I {g : FmtI} (h : Latched s g.sched x) :
    exec (.hsetp2I g) s = .next (x.setp2 g.sched (opsI1 g) g.ty 0 5 fun _ => immPair g.imm) := by
  change execHsetp2I g s = _
  rw [execHsetp2I, issue_latched h]

theorem exec_v2p (h : Latched s f.sched x) (hop : x.operandTrap (x.sources (opsR1 f)) [] = none) :
    exec (.v2p f) s = .next (x.finish f.sched (some 4)
      ((lanesOf x.active).flatMap fun l => predWrites l (modField f.mod 0 7) (x.args (opsR1 f) l).a)) := by
  change execV2p f s = _
  rw [execV2p, issue_latched h, hop]

theorem exec_perm (h : Latched s f.sched x)
    (hop : x.operandTrap (((x.t.desc.regsOf f.sa).map fun n => (n, maskOf ((lanesOf x.cur.issued).map (x.permFrom f)))) ++
      x.own (x.t.desc.regsOf f.sb)) (x.t.desc.regsOf f.dst) = none) :
    exec (.perm f) s = .next (x.finish f.sched (some 6)
      ((lanesOf x.active).flatMap fun l => x.dst l f.dst (x.rd (x.permFrom f l) f.sa))) := by
  change execPerm f s = _
  unfold Ix.permFrom at hop
  simp only [execPerm, issue_latched h, hop, Ix.permFrom]

end

/-- Settles O18: what each of the instructions finishes with, and what the writes of its list leave. -/
theorem predicatePairsAndPerm : Obligations.PredicatePairsAndPerm := by
  unfold Obligations.PredicatePairsAndPerm
  constructor
  · intro f g s x cmp out outI
    refine ⟨fun h hop => ⟨_, exec_hsetp2 h, setp2_ends hop⟩, fun h hop => ⟨_, exec_hsetp2I h, setp2_ends hop⟩,
      fun h hop => ⟨_, exec_v2p h hop, ?_⟩⟩
    exact finish_ends x f.sched (some 4) (writes_predWrites x.active (modField_lt f.mod 0 7) _)
  · intro f s x src h hop
    exact ⟨_, exec_perm h hop, finish_ends x f.sched (some 6) (writes_dst (names_lt hop) x.active _)⟩

end Sys2Proof.Machine
end

section
/-! SUPPORT. Computed register access (08 R249, 05 R162): addresses that pass their checks, what RGET and RSET finish with, and
statement O19. -/

namespace Sys2Proof.Machine

/-! ### Register-space addresses -/

/-- The register-space address that SA holds for lane `l`. -/
def Ix.regAddr (x : Ix) (f : FmtR) (l : Nat) : Nat := (x.args (opsR1 f) l).a

theorem regSpaceOk_of_trap_none {x : Ix} {addr : Nat → Nat} (h : x.regSpaceTrap addr = none) {l : Nat} (hl : l < 32)
    (ha : x.active.getLsbD l = true) : x.regSpaceOk (addr l) = true := by
  simp only [Ix.regSpaceTrap] at h
  split_ifs at h with hodd hout
  have hbit := congrArg (·.getLsbD l) (not_not.1 hout)
  simpa [getLsbD_maskWhere _ hl, ha] using hbit

/-- Below the accumulator range an address in a valid part names a lane register (05 R164). -/
theorem div_lt_of_regSpaceOk {x : Ix} {a : Nat} (h : x.regSpaceOk a = true) (hlt : a < accBase) : a / 4 < 256 := by
  simp only [Ix.regSpaceOk, Bool.or_eq_true, Bool.and_eq_true, decide_eq_true_eq] at h
  omega

/-! ### Reads and writes -/

/-- The active lanes whose address names a poisoned accumulator element. -/
def Ix.poisonedLanes (x : Ix) (addr : Nat → Nat) : Mask :=
  x.active &&& maskWhere fun l => decide (accBase ≤ addr l) && smGet false x.t.accPoison ((addr l - accBase) / 4)

/-- The team once the active lanes that address accumulator elements have written them, in rising order (05 R162). -/
def Ix.accWritten (x : Ix) (addr : Nat → Nat) (val : Nat → Word) : Team :=
  ((lanesOf x.active).filter fun l => decide (accBase ≤ addr l)).foldl
    (fun t l => t.setAcc ((addr l - accBase) / 4) (val l)) x.t

theorem foldl_setAcc_groups (ls : List Nat) (k : Nat → Nat) (v : Nat → Word) (t : Team) :
    (ls.foldl (fun t l => t.setAcc (k l) (v l)) t).groups = t.groups := by
  induction ls generalizing t with
  | nil => rfl
  | cons l r ih => exact ih _

/-- Written elements leave the team's groups as they are. -/
theorem accWritten_groups (x : Ix) (addr : Nat → Nat) (val : Nat → Word) : (x.accWritten addr val).groups = x.t.groups :=
  foldl_setAcc_groups _ _ _ _

/-- The writes of the active lanes that address lane registers. -/
def Ix.regWrites (x : Ix) (addr : Nat → Nat) (val : Nat → Word) : List Wr :=
  ((lanesOf x.active).filter fun l => decide (addr l < accBase)).map fun l => { lane := l, key := addr l / 4, val := val l }

theorem mem_regWrites {x : Ix} {addr : Nat → Nat} {val : Nat → Word} {r : Wr} :
    r ∈ x.regWrites addr val ↔ r.lane < 32 ∧
      (x.active.getLsbD r.lane = true ∧ addr r.lane < accBase ∧ r.key = addr r.lane / 4) ∧ r.val = val r.lane := by
  simp only [Ix.regWrites, List.mem_map, List.mem_filter, mem_lanesOf, decide_eq_true_eq]
  constructor
  · rintro ⟨l, ⟨⟨hl, ha⟩, hlow⟩, rfl⟩
    exact ⟨hl, ⟨ha, hlow, rfl⟩, rfl⟩
  · rintro ⟨hl, ⟨ha, hlow, hkey⟩, hval⟩
    exact ⟨r.lane, ⟨⟨hl, ha⟩, hlow⟩, by rw [← hkey, ← hval]⟩

/-- Addresses that pass their checks name registers. -/
theorem writes_regWrites {x : Ix} {addr : Nat → Nat} (h : x.regSpaceTrap addr = none) (val : Nat → Word) :
    Writes (x.regWrites addr val) fun l k =>
      if x.active.getLsbD l = true ∧ addr l < accBase ∧ k = addr l / 4 then some (val l) else none := by
  have hlt : ∀ l, l < 32 → x.active.getLsbD l = true → addr l < accBase → addr l / 4 < 256 := fun l hl ha =>
    div_lt_of_regSpaceOk (regSpaceOk_of_trap_none h hl ha)
  refine writes_ite (u := fun l _ => val l) ?_ (fun r hr => by simp only [mem_regWrites, hr, true_and]) ?_
  · intro r hr
    obtain ⟨hl, ⟨ha, hlow, hkey⟩, -⟩ := mem_regWrites.1 hr
    rw [hkey]
    exact (hlt _ hl ha hlow).trans (by decide)
  · rintro l k hl ⟨ha, hlow, rfl⟩
    exact if_pos (hlt l hl ha hlow)

/-! ### The instructions -/

section

variable {s : State} {x : Ix} {f : FmtR} (h : Latched s f.sched x)
include h

theorem exec_rget (hop : x.operandTrap (x.sources (opsR1 f)) (x.t.desc.regsOf f.dst) = none)
    (hsp : x.regSpaceTrap (x.regAddr f) = none) (hct : x.computedTrap (x.regAddr f) false = none)
    (hbad : x.poisonedLanes (x.regAddr f) = 0) :
    exec (.rget f) s = .next (x.finish f.sched (some 4)
      ((lanesOf x.active).flatMap fun l => x.dst l f.dst (x.regSpaceRead l (x.regAddr f l)))) := by
  have hall : x.active &&& ~~~(0 : Mask) = x.active := BitVec.and_allOnes
  unfold Ix.regAddr at hsp hct hbad
  unfold Ix.poisonedLanes at hbad
  change execRget f s = _
  rw [execRget, issue_latched h]
  simp only [hop, hsp, hct, hbad, hall, Ix.deferCause, ↓reduceIte, Ix.regAddr]

theorem exec_rset (hop : x.operandTrap (x.sources (opsR2 f)) [] = none) (hsp : x.regSpaceTrap (x.regAddr f) = none)
    (hct : x.computedTrap (x.regAddr f) true = none) :
    exec (.rset f) s = .next (Ix.finish (x.withTeam (x.accWritten (x.regAddr f) fun l => BitVec.ofNat 32 (x.rd l f.sb))) f.sched
      (some 4) (x.regWrites (x.regAddr f) fun l => BitVec.ofNat 32 (x.rd l f.sb))) := by
  have haddr : (fun l => (x.args (opsR2 f) l).a) = x.regAddr f := rfl
  change execRset f s = _
  rw [execRset, issue_latched h]
  simp only [hop, haddr, hsp, hct]
  rfl

end

/-- Settles O19: past their checks RGET reads every active lane's address, no element being poisoned, and RSET writes elements in
lane order and registers in their own lanes. -/
theorem computedRegisterAccess : Obligations.ComputedRegisterAccess := by
  unfold Obligations.ComputedRegisterAccess
  intro f s x h adr poisoned value
  refine ⟨fun hop hsp hct hbad => ?_, fun hop hsp hct => ⟨_, exec_rset h hop hsp hct, ?_⟩⟩
  · exact ⟨_, exec_rget h hop hsp hct hbad, finish_ends x f.sched (some 4) (writes_dst (names_lt hop) x.active value)⟩
  · have hends := finish_ends (x.withTeam (x.accWritten adr fun l => BitVec.ofNat 32 (x.rd l f.sb))) f.sched (some 4)
      (writes_regWrites hsp fun l => BitVec.ofNat 32 (x.rd l f.sb))
    rwa [withTeam_stepped h (accWritten_groups x adr _)] at hends

end Sys2Proof.Machine
end

section
/-! SUPPORT. Control instructions (09 R252 to R262): what an issue leaves that also changes its group's trap registers or region, or
makes lanes wait, the transfers, and statements O21, O22 and O45. -/

namespace Sys2Proof.Machine

/-! ### Groups whose trap registers or region change at their issue -/

/-- A group whose trap registers and region change by `k` and `r`; its lanes and counters stand. -/
def Group.mapMode (g : Group) (k : TrapRegs → TrapRegs) (r : List Nat → List Nat) : Group :=
  { g with trap := k g.trap, region := r g.region }

/-- Lanes change in such a group as before. -/
theorem Group.mapMode_modLanes (g : Group) (k : TrapRegs → TrapRegs) (r : List Nat → List Nat) (m : Mask) (f : Nat → Lane → Lane) :
    (g.mapMode k r).modLanes m f = (g.modLanes m f).mapMode k r :=
  List.foldl_hom (fun g : Group => g.mapMode k r) fun _ _ => rfl

/-- An issue's counters and steps leave the trap registers and the region. -/
theorem advance_mapMode (x : Ix) (g : Group) (j : Option Nat) (k : TrapRegs → TrapRegs) (r : List Nat → List Nat) :
    x.advance (((g.mapMode k r).bump j).due j) = (x.advance ((g.bump j).due j)).mapMode k r := by
  have hdue : ((g.mapMode k r).bump j).due j = ((g.bump j).due j).mapMode k r := by cases j <;> rfl
  rw [Ix.advance, Ix.advance, hdue, Group.mapMode_modLanes]

/-- Writes leave the trap registers and the region. -/
theorem Wrote.mapMode {x : Ix} {w : Nat → Nat → Option Word} {h : Group} (hw : Wrote x w h) (k : TrapRegs → TrapRegs)
    (r : List Nat → List Nat) : Wrote { x with g := x.g.mapMode k r } w (h.mapMode k r) :=
  ⟨hw.keys, hw.lanes, congrArg (fun g : Group => g.mapMode k r) hw.rest⟩

/-- An instruction that ends with writes, changes lanes, and changes its group's trap registers and region. -/
theorem Wrote.advance_mapMode {x : Ix} {w : Nat → Nat → Option Word} {h : Group} (hw : Wrote x w h) (sc : Sched) (m : Mask)
    (f : Nat → Lane → Lane) (hf : ∀ l z p, f l { z with preds := p } = { f l z with preds := p }) (k : TrapRegs → TrapRegs)
    (r : List Nat → List Nat) :
    Ends { x with g := x.g.mapMode k r } sc w (fun l => if m.getLsbD l then f l (x.stepped l) else x.stepped l)
      (x.put (((x.advance ((h.bump (setCtr sc)).due (setCtr sc))).modLanes m f).mapMode k r)) := by
  have hends := (hw.mapMode k r).advance sc m f hf
  rw [Machine.advance_mapMode, Group.mapMode_modLanes] at hends
  exact hends

/-- The group of an instruction that writes no register, past its issue. -/
def Ix.passed (x : Ix) (sc : Sched) : Group := x.advance ((x.g.bump (setCtr sc)).due (setCtr sc))

/-- An instruction that ends and puts lanes into WAITING (05 R168). -/
theorem await_passed_ends (x : Ix) (sc : Sched) (m : Mask) (w : Nat → Wait) :
    Ends x sc noWrite (fun l => if m.getLsbD l then { x.stepped l with st := .waiting, wait := some (w l) } else x.stepped l)
      (x.put ((x.passed sc).await m w)) :=
  (wrote_none x).advance sc m _ fun _ _ _ => rfl

/-! ### NOP, REGION, YIELD, EXIT and SLEEPT -/

section

variable {s : State} {x : Ix} {f : FmtR} (h : Latched s f.sched x)
include h

theorem exec_nop : exec (.nop f) s = .next (x.finish f.sched (some 4) []) :=
  issue_latched h fun i => i.finish f.sched (some 4) []

/-- REGION past the check of its names stages them where a lane is active. -/
theorem exec_region (hb : x.beyond (x.regionRegs f) = none) :
    exec (.region f) s =
      .next (x.put ((x.passed f.sched).mapMode id fun r => if x.active = 0 then r else (x.regionRegs f).eraseDups)) := by
  change execRegion f s = _
  rw [execRegion, issue_latched h]
  simp only [hb, Group.mapMode]
  split
  · rfl
  · rfl

theorem exec_yield (ha : x.active ≠ 0) :
    exec (.yield f) s = .next (x.put ((x.passed f.sched).await x.cur.issued fun _ => .yield)) := by
  change execYield f s = _
  rw [execYield, issue_latched h, if_neg ha, Ix.passed]

/-- EXIT past its boundary: its active lanes end, and the convergence registers are evaluated again. -/
theorem exec_exit (ha : x.active ≠ 0) (hb : x.boundary true = none) :
    exec (.exit f) s = .next ((x.put ((x.passed f.sched).modLanes x.active fun _ y =>
      { y with st := .exited, wait := none })).evalPhases x.t.id x.cur.core) := by
  change execExit f s = _
  rw [execExit, issue_latched h, if_neg ha]
  simp only [hb, Ix.passed]

/-- SLEEPT past its checks, from the state `u` in which its lanes wait: they are released at once where their time has passed. -/
theorem exec_sleept (ha : x.active ≠ 0)
    (hop : x.operandTrap (x.via f.perm (x.t.desc.regsOf f.sa) ++ x.own (x.t.desc.regsOf f.sb ++ x.t.desc.regsOf f.sc)) [] = none)
    (hbar : f.sb = .zero ∨ x.t.barCause (x.rd x.low f.sb) = none) :
    let until_ := x.rdVia f.perm x.low f.sa
    let named := if f.sb = .zero then none else some (x.rd x.low f.sb, x.rd x.low f.sc % 16)
    let u := x.put ((x.passed f.sched).await x.active fun _ => .sleep x.cur.pc.toNat until_ named)
    exec (.sleept f) s = .next (
      if until_ ≤ x.s.gtc then u.releaseSleep x.t.id x.cur.group x.cur.core x.active x.cur.pc.toNat until_ named
      else if f.sb = .zero then u else u.modTeam x.t.id fun t => t.markSleep (x.rd x.low f.sb)) := by
  have hcause : (if f.sb = .zero then none else x.t.barCause (x.rd x.low f.sb)) = none := by
    split
    · rfl
    · exact hbar.resolve_left ‹_›
  intro until_ named u
  change execSleept f s = _
  rw [execSleept, issue_latched h]
  simp only [hop, if_neg ha, hcause, u, named]
  by_cases hz : f.sb = .zero
  · simp only [if_pos hz]
    rfl
  · simp only [if_neg hz]
    rfl

end

/-- Settles O21: each instruction takes its branch, and the lanes of YIELD and SLEEPT wait as `await_passed_ends` says. -/
theorem lanesAdvanceWaitAndEnd : Obligations.LanesAdvanceWaitAndEnd := by
  unfold Obligations.LanesAdvanceWaitAndEnd
  refine ⟨fun f s x h => ⟨?_, fun hb => ?_, fun ha => ?_⟩, fun f s x h ha hb => ?_, ?_⟩
  · exact ⟨_, exec_nop h, finish_ends x f.sched _ writes_nil⟩
  · have hends := (wrote_none x).advance_mapMode f.sched 0 (fun _ z => z) (fun _ _ _ => rfl) id fun r =>
      if x.active = 0 then r else (x.regionRegs f).eraseDups
    simp only [Group.modLanes_zero, ite_self] at hends
    exact ⟨_, exec_region h hb, hends⟩
  · exact ⟨_, exec_yield h ha, await_passed_ends x f.sched _ _⟩
  · exact ⟨_, (wrote_none x).advance f.sched x.active _ fun _ _ _ => rfl, exec_exit h ha hb⟩
  · intro f s x h ha hop until_ bar named hbar
    have hexec := exec_sleept h ha hop hbar
    refine ⟨_, await_passed_ends x f.sched x.active fun _ => .sleep x.cur.pc.toNat until_ named, fun ht hz => ?_, fun ht hz => ?_,
      fun ht => ?_⟩
    · rw [hexec, if_neg (Nat.not_le.2 ht), if_pos hz]
    · rw [hexec, if_neg (Nat.not_le.2 ht), if_neg hz]
    · rw [hexec, if_pos ht]

/-! ### Transfers -/

/-- A transfer whose targets pass their checks: what it writes, where its lanes stand, and its region (09 R252 to R254). -/
theorem transfer_ends {x : Ix} {u : State} {srcs : List (Nat × Mask)} {link : Opd} {tgt : Nat → Nat}
    (hop : x.operandTrap srcs (x.t.desc.regsOf link) = none)
    (hc : checkTargets x.s x.cur.core x.t.id.lci tgt (lanesOf x.active) = ([], u)) (sc : Sched) (ends : Bool) :
    let y := x.withState u
    Ends { y with g := { y.g with region := if ends && x.active != 0 then [] else y.g.region } } sc
      (x.wr x.active link fun _ => x.cur.next.toNat)
      (fun l => if x.active.getLsbD l then { y.stepped l with pc := BitVec.ofNat 64 (tgt l) } else y.stepped l)
      (x.transfer sc srcs link tgt ends) := by
  intro y
  have hwr := wrote_write y (writes_dst (names_lt hop) x.active fun _ => x.cur.next.toNat) (y.cover sc (some 4)) y.cur.first
  have hends := hwr.advance_mapMode sc x.active (fun l z => { z with pc := BitVec.ofNat 64 (tgt l) }) (fun _ _ _ => rfl)
    id fun r => if ends && x.active != 0 then [] else r
  have hput : x.transfer sc srcs link tgt ends = y.put (((y.advance (((y.g.write
      ((lanesOf x.active).flatMap fun l => x.dst l link x.cur.next.toNat) (y.cover sc (some 4)) y.cur.first).bump (setCtr sc)).due
        (setCtr sc))).modLanes x.active fun l z => { z with pc := BitVec.ofNat 64 (tgt l) }).mapMode id fun r =>
          if ends && x.active != 0 then [] else r) := by
    simp only [Ix.transfer, hop, hc, targetTrap, withState_active, Group.mapMode]
    split
    · rfl
    · rfl
  rw [hput]
  exact hends

/-- An instruction that runs such a transfer. -/
theorem exec_transfer (i : Instr) (src : Option Opd) (link : Opd) (ends : Bool) (tgt : Ix → Nat → Nat)
    (hi : ∀ s, exec i s = issue s i.sched fun x => x.transfer i.sched (x.own (x.regsOpt src)) link (tgt x) ends) (s u : State) (x : Ix)
    (h : Latched s i.sched x) (hop : x.operandTrap (x.own (x.regsOpt src)) (x.t.desc.regsOf link) = none)
    (hc : checkTargets x.s x.cur.core x.t.id.lci (tgt x) (lanesOf x.active) = ([], u)) :
    let y := x.withState u
    ∃ t, exec i s = .next t ∧
      Ends { y with g := { y.g with region := if ends && x.active != 0 then [] else y.g.region } } i.sched
        (x.wr x.active link fun _ => x.cur.next.toNat)
        (fun l => if x.active.getLsbD l then { y.stepped l with pc := BitVec.ofNat 64 (tgt x l) } else y.stepped l) t :=
  ⟨_, (hi s).trans (issue_latched h _), transfer_ends hop hc i.sched ends⟩

/-- Settles O22: each of the five instructions is a transfer. -/
theorem transfersMoveLanes : Obligations.TransfersMoveLanes := by
  unfold Obligations.TransfersMoveLanes
  exact fun f g => ⟨exec_transfer (.bra g) none .zero false (fun x _ => x.relTarget g.imm) fun _ => rfl,
    exec_transfer (.brx f) (some f.sa) .zero false (fun x l => x.rd l f.sa) fun _ => rfl,
    exec_transfer (.call g) none g.dst true (fun x _ => x.relTarget g.imm) fun _ => rfl,
    exec_transfer (.callx f) (some f.sa) f.dst true (fun x l => x.rd l f.sa) fun _ => rfl,
    exec_transfer (.ret f) (some f.sa) .zero true (fun x l => x.rd l f.sa) fun _ => rfl⟩

/-! ### TRAP.svc and RTT -/

/-- The code of a TRAP is the low half of its immediate (09 R259). -/
theorem trapCode_eq (f : FmtI) : trapCode f = f.imm.toNat % 65536 := congrArg (· % 2 ^ 16) (Nat.div_one f.imm.toNat)

/-- TRAP.svc on an enabled ring, where every lane's record is posted or waits for room (09 R260). -/
theorem exec_trapSvc {f : FmtI} {s v : State} {x : Ix} {c : Chip} {b : Bool} (h : Latched s f.sched x) (ha : x.active ≠ 0)
    (hop : x.operandTrap (x.own (x.t.desc.regsFrom f.sa 4)) [] = none) (hc : x.s.chip? x.t.id.lci = some c)
    (hon : c.svc.reqOn = true)
    (hpost : (lanesOf x.active).foldl (x.postLane (trapCode f) (dNum f.sa))
      (x.put (x.passed f.sched), x.s.svcClear x.t.id.lci, []) = (v, b, [])) : exec (.trapSvc f) s = .next v := by
  rw [Ix.passed] at hpost
  change execTrapSvc f s = _
  rw [execTrapSvc, issue_latched h]
  simp only [hop, if_neg ha, hc, hon, Bool.not_true, Bool.false_eq_true, if_false, hpost, List.isEmpty_nil, if_true]

/-- RTT in a handler, to a target that passes its check where software has written it. -/
theorem exec_rtt {f : FmtR} {s u : State} {x : Ix} (h : Latched s f.sched x) (ha : x.active ≠ 0) (hh : x.g.trap.handler = true)
    (hu : if x.g.trap.tpcWritten then x.s.checkTarget x.cur.core x.t.id.lci (x.rttTarget (modBit f.mod 0)) = .ok u else u = x.s) :
    exec (.rtt f) s = .next ((x.withState u).put
      (((x.withState u).passed f.sched).leave (BitVec.ofNat 64 (x.rttTarget (modBit f.mod 0))))) := by
  have hchk : (if x.g.trap.tpcWritten then x.s.checkTarget x.cur.core x.t.id.lci (x.rttTarget (modBit f.mod 0)) else .ok x.s) =
      .ok u := by
    split at hu
    · rwa [if_pos ‹_›]
    · rw [if_neg ‹_›, hu]
  change execRtt f s = _
  rw [execRtt, issue_latched h, if_neg ha]
  simp only [hh, Bool.not_true, Bool.false_eq_true, if_false, hchk, Ix.passed]

/-- A group that leaves handler mode at its issue (14 R371). -/
theorem leave_ends (y : Ix) (sc : Sched) (pc : DWord) :
    Ends { y with g := { y.g with trap := { y.g.trap with handler := false }, region := [] } } sc noWrite
      (fun l => if y.g.trap.tlanes.getLsbD l then { y.stepped l with pc := pc } else y.stepped l)
      (y.put ((y.passed sc).leave pc)) := by
  have htrap : (y.passed sc).trap = y.g.trap := by
    rw [Ix.passed, advance_eq]
    cases setCtr sc <;> rfl
  have hleave : (y.passed sc).leave pc = ((y.passed sc).modLanes y.g.trap.tlanes fun _ z => { z with pc := pc }).mapMode
      (fun t => { t with handler := false }) fun _ => [] := by
    rw [← Group.mapMode_modLanes, ← htrap]
    rfl
  rw [hleave]
  exact (wrote_none y).advance_mapMode sc y.g.trap.tlanes _ (fun _ _ _ => rfl) _ _

/-- Settles O45: TRAP.svc posts its lanes' records from the state in which they have stepped, and RTT leaves as `leave_ends` says. -/
theorem serviceCallAndReturn : Obligations.ServiceCallAndReturn := by
  unfold Obligations.ServiceCallAndReturn
  constructor
  · intro f s x h ha hop c hc hon
    refine ⟨_, pass_ends x f.sched, fun v b hpost => ?_⟩
    rw [← trapCode_eq] at hpost
    exact exec_trapSvc h ha hop hc hon hpost
  · intro f s u x h ha hh tgt hu y
    exact ⟨_, exec_rtt h ha hh hu, leave_ends y f.sched _⟩

end Sys2Proof.Machine
end

section
/-! SUPPORT. Barrier objects (09 R263, R267): bit fields of a number after one is replaced, `bar_update`, trace records, which leave
the teams, and statement O27. -/

namespace Sys2Proof.Machine

/-! ### Bit fields -/

theorem testBit_bits (x lo len i : Nat) : (bits x lo len).testBit i = (decide (i < len) && x.testBit (lo + i)) := by
  rw [bits, Nat.testBit_mod_two_pow, Nat.testBit_div_two_pow, add_comm]

/-- A field that is replaced lies between the bits above it and those below it. -/
theorem setBits_eq (x lo len v : Nat) :
    setBits x lo len v = 2 ^ lo * (2 ^ len * (x / 2 ^ lo / 2 ^ len) + v % 2 ^ len) + x % 2 ^ lo := by
  have hlo := Nat.div_add_mod x (2 ^ lo)
  have hlen := Nat.div_add_mod (x / 2 ^ lo) (2 ^ len)
  rw [setBits, bits]
  generalize x / 2 ^ lo % 2 ^ len = b at hlen ⊢
  generalize hq : 2 ^ len * (x / 2 ^ lo / 2 ^ len) = q at hlen ⊢
  have hx : x = 2 ^ lo * q + b * 2 ^ lo + x % 2 ^ lo := by
    conv_lhs => rw [← hlo, ← hlen]
    ring
  have hsplit : 2 ^ lo * (q + v % 2 ^ len) = 2 ^ lo * q + v % 2 ^ len * 2 ^ lo := by ring
  rw [hsplit]
  omega

theorem testBit_setBits (x lo len v i : Nat) :
    (setBits x lo len v).testBit i = if lo ≤ i ∧ i < lo + len then v.testBit (i - lo) else x.testBit i := by
  rw [setBits_eq, Nat.testBit_two_pow_mul_add _ (Nat.mod_lt _ (by positivity))]
  by_cases hlo : i < lo
  · rw [if_pos hlo, if_neg (by omega), Nat.testBit_mod_two_pow, decide_eq_true hlo, Bool.true_and]
  rw [if_neg hlo, Nat.testBit_two_pow_mul_add _ (Nat.mod_lt _ (by positivity))]
  by_cases hlen : i - lo < len
  · rw [if_pos hlen, if_pos (by omega), Nat.testBit_mod_two_pow, decide_eq_true hlen, Bool.true_and]
  · have hi : i - lo - len + len + lo = i := by omega
    rw [if_neg hlen, if_neg (by omega), Nat.testBit_div_two_pow, Nat.testBit_div_two_pow, hi]

/-- A field reads back. -/
@[simp] theorem bits_setBits_same (x lo len v : Nat) : bits (setBits x lo len v) lo len = v % 2 ^ len := by
  refine Nat.eq_of_testBit_eq fun i => ?_
  rw [testBit_bits, testBit_setBits, Nat.testBit_mod_two_pow]
  by_cases hi : i < len
  · rw [if_pos (by omega), Nat.add_sub_cancel_left]
  · simp [hi]

/-- A field beside the one that is replaced stands. -/
theorem bits_setBits_apart (x v : Nat) {lo len k n : Nat} (h : k + n ≤ lo ∨ lo + len ≤ k) :
    bits (setBits x lo len v) k n = bits x k n := by
  refine Nat.eq_of_testBit_eq fun i => ?_
  rw [testBit_bits, testBit_bits, testBit_setBits]
  by_cases hi : i < n
  · rw [if_neg (by omega)]
  · simp [hi]

/-- A bit that is set. -/
theorem setBits_one (x k : Nat) : setBits x k 1 1 = if x.testBit k then x else x + 2 ^ k := by
  rw [setBits, bits_one]
  split
  · have := Nat.ge_two_pow_of_testBit ‹_›
    omega
  · omega

/-! ### Counts of barrier objects -/

/-- A count within its field reads back (09 R263). -/
theorem toSigned_wrapNat_of_fits {c : Int} (h : countFits c = true) : toSigned 24 (wrapNat 24 c % 2 ^ 24) = c := by
  simp only [countFits, Bool.and_eq_true, decide_eq_true_eq] at h
  simp only [toSigned, wrapNat, Nat.mod_mod]
  generalize hy : (c % 2 ^ 24).toNat % 2 ^ 24 = y
  split
  · omega
  · omega

/-- An object whose counts have moved (09 R267). -/
def barCounted (o p : Nat) (i b : Int) : Nat :=
  setBits (setBits (setBits o 19 11 p) 32 24 (wrapNat 24 i)) 56 24 (wrapNat 24 b)

/-- An object whose phase has completed (09 R267). -/
def barCompleted (o gen phase expect : Nat) : Nat := setBits (setBits (setBits o 0 4 (gen + 1)) 80 16 (phase + 1)) 19 11 expect

section

variable {o p gen phase expect : Nat} {i b : Int}

theorem barPending_counted (hp : p < 2 ^ 11) : barPending (barCounted o p i b) = p := by
  simp only [barPending, barCounted, bits_setBits_same, bits_setBits_apart, Nat.reduceAdd, Nat.reduceLeDiff, or_false,
    Nat.mod_eq_of_lt hp]

theorem barIn_counted (hi : countFits i = true) : barIn (barCounted o p i b) = i := by
  simp only [barIn, barCounted, bits_setBits_same, bits_setBits_apart, Nat.reduceAdd, Nat.reduceLeDiff, or_false,
    toSigned_wrapNat_of_fits hi]

theorem barOut_counted (hb : countFits b = true) : barOut (barCounted o p i b) = b := by
  simp only [barOut, barCounted, bits_setBits_same, toSigned_wrapNat_of_fits hb]

@[simp] theorem barGen_counted : barGen (barCounted o p i b) = barGen o := by
  simp [barGen, barCounted, bits_setBits_apart]

@[simp] theorem barPhase_counted : barPhase (barCounted o p i b) = barPhase o := by
  simp [barPhase, barCounted, bits_setBits_apart]

@[simp] theorem barExpect_counted : barExpect (barCounted o p i b) = barExpect o := by
  simp [barExpect, barCounted, bits_setBits_apart]

theorem barPending_completed (he : expect < 2 ^ 11) : barPending (barCompleted o gen phase expect) = expect := by
  simp only [barPending, barCompleted, bits_setBits_same, Nat.mod_eq_of_lt he]

@[simp] theorem barGen_completed : barGen (barCompleted o gen phase expect) = (gen + 1) % 16 := by
  simp [barGen, barCompleted, bits_setBits_apart]

@[simp] theorem barPhase_completed : barPhase (barCompleted o gen phase expect) = (phase + 1) % 65536 := by
  simp [barPhase, barCompleted, bits_setBits_apart]

@[simp] theorem barIn_completed : barIn (barCompleted o gen phase expect) = barIn o := by
  simp [barIn, barCompleted, bits_setBits_apart]

@[simp] theorem barOut_completed : barOut (barCompleted o gen phase expect) = barOut o := by
  simp [barOut, barCompleted, bits_setBits_apart]

@[simp] theorem barExpect_completed : barExpect (barCompleted o gen phase expect) = barExpect o := by
  simp [barExpect, barCompleted, bits_setBits_apart]

end

/-! ### `bar_update` -/

/-- An update that a barrier refuses (09 R267). -/
def barRefuses (o n : Nat) (u w : Int) : Prop :=
  barOvf o = true ∨ barPending o < n ∨ ¬ countFits (barIn o + u) = true ∨ ¬ countFits (barOut o + w) = true

section

variable {o n : Nat} {u w : Int}

theorem barStep_refused (h : barRefuses o n u w) : barStep o n u w = (none, if barOvf o then o else o + 16) := by
  have hovf : barOvf o = o.testBit 4 := by
    rw [barOvf, bits_one]
    cases o.testBit 4 <;> rfl
  have hc : (barOvf o || decide (barPending o < n) || !countFits (barIn o + u) || !countFits (barOut o + w)) = true := by
    simpa [barRefuses, or_assoc] using h
  simp only [barStep, if_pos hc, setBits_one, Nat.reducePow]
  rw [hovf]

theorem barStep_taken (h : ¬ barRefuses o n u w) : barStep o n u w =
    if barPending o = n ∧ barIn o + u = 0 then
      (some (barPhase o * 65536 + barGen o + 16),
        barCompleted (barCounted o (barPending o - n) (barIn o + u) (barOut o + w)) (barGen o) (barPhase o) (barExpect o))
    else (some (barPhase o * 65536 + barGen o), barCounted o (barPending o - n) (barIn o + u) (barOut o + w)) := by
  have hc : ¬ (barOvf o || decide (barPending o < n) || !countFits (barIn o + u) || !countFits (barOut o + w)) = true := by
    simpa [barRefuses, or_assoc] using h
  have hle : n ≤ barPending o := not_lt.1 fun hlt => h (.inr (.inl hlt))
  have hp : (barPending o - n = 0 ∧ barIn o + u = 0) ↔ (barPending o = n ∧ barIn o + u = 0) := by omega
  simp only [barStep, if_neg hc, Bool.and_eq_true, decide_eq_true_eq, hp, barCompleted, barCounted]

end

/-- Settles O27: what `bar_update` refuses and what it takes, read field by field. -/
theorem barrierUpdateRule : Obligations.BarrierUpdateRule := by
  unfold Obligations.BarrierUpdateRule
  intro o n u w _ r refused complete
  have hfits : ¬ barRefuses o n u w → countFits (barIn o + u) = true ∧ countFits (barOut o + w) = true := fun h =>
    ⟨not_not.1 fun hi => h (.inr (.inr (.inl hi))), not_not.1 fun hb => h (.inr (.inr (.inr hb)))⟩
  have hpend : barPending o < 2 ^ 11 := Nat.mod_lt _ (by positivity)
  refine ⟨fun h => barStep_refused h, fun h hc => ?_, fun h hc => ?_⟩
  · obtain ⟨hi, hb⟩ := hfits h
    have hr : r = _ := (barStep_taken h).trans (if_neg hc)
    rw [hr]
    exact ⟨rfl, barPending_counted (by omega), barIn_counted hi, barOut_counted hb, barGen_counted, barPhase_counted,
      barExpect_counted⟩
  · obtain ⟨hi, hb⟩ := hfits h
    have hr : r = _ := (barStep_taken h).trans (if_pos hc)
    rw [hr]
    exact ⟨rfl, barPending_completed (Nat.mod_lt _ (by positivity)), by rw [barIn_completed, barIn_counted hi, hc.2],
      by rw [barOut_completed, barOut_counted hb], barGen_completed, barPhase_completed, by rw [barExpect_completed, barExpect_counted]⟩

/-! ### Records leave the teams as they are (17 R450) -/

/-- What carries a state, after a list of changes that leave the state's teams. -/
theorem foldl_teams {α β : Type} (st : β → State) (l : List α) {f : β → α → β}
    (hf : ∀ b a, (st (f b a)).teams = (st b).teams) (b : β) : (st (l.foldl f b)).teams = (st b).teams :=
  List.foldlRecOn (motive := fun c => (st c).teams = (st b).teams) l f rfl fun c hc a _ => (hf c a).trans hc

section

variable (s : State)

@[simp] theorem State.memWrite_teams (mpa : Nat) (l : List Byte) : (s.memWrite mpa l).teams = s.teams := by
  unfold State.memWrite
  split <;> rfl

@[simp] theorem State.postPf_teams (code a b : Nat) : (s.postPf code a b).teams = s.teams := by
  unfold State.postPf
  dsimp only
  split
  · rw [State.modHub_teams]
    split
    · exact State.memWrite_teams s _ _
    · exact State.memWrite_teams s _ _
  · rfl

@[simp] theorem State.raiseFloor_teams (lci mpa e : Nat) : (s.raiseFloor lci mpa e).teams = s.teams := by
  unfold State.raiseFloor
  split <;> rfl

@[simp] theorem State.lineLeaves_teams (b : BankLine) : (s.lineLeaves b).teams = s.teams := by
  unfold State.lineLeaves State.dropLine
  dsimp only
  rw [State.modDie_teams, State.keepBusy_teams]
  split <;> split <;> simp

@[simp] theorem State.pokeRoom_teams (lci line : Nat) : (s.pokeRoom lci line).teams = s.teams := by
  unfold State.pokeRoom
  split
  · split
    · split
      · rw [State.lineLeaves_teams]
        exact foldl_teams id _ (fun _ _ => State.memWrite_teams _ _ _) s
      · rfl
    · rfl
  · rfl

@[simp] theorem State.pokeLine_teams (lci mpa : Nat) (l : List Byte) (c : Cls) : (s.pokeLine lci mpa l c).1.teams = s.teams := by
  unfold State.pokeLine
  split
  · exact State.postPf_teams s _ _ _
  · exact State.pokeRoom_teams s _ _

theorem State.pokeGo_teams (lci : Nat) (c : Cls) (k : Nat) (a : State × Nat) (mpa : Nat) (l : List Byte) :
    (State.pokeGo lci c k a mpa l).1.teams = a.1.teams := by
  induction k generalizing a mpa l with
  | zero => rfl
  | succ k ih =>
    rw [State.pokeGo]
    split
    · rfl
    · exact (ih _ _ _).trans (State.pokeLine_teams _ _ _ _ _)

@[simp] theorem State.pokeAt_teams (lci mpa : Nat) (l : List Byte) (c : Cls) : (s.pokeAt lci mpa l c).1.teams = s.teams :=
  State.pokeGo_teams lci c _ _ _ _

@[simp] theorem State.setPrq_teams (vf queue : Nat) (q : Prq) : (s.setPrq vf queue q).teams = s.teams := by
  unfold State.setPrq
  split
  · exact State.modChip_teams s _ _
  · rfl

@[simp] theorem State.postHyp_teams (p : PageReq) : (s.postHyp p).teams = s.teams := by
  unfold State.postHyp State.modPage
  dsimp only
  split
  · rfl
  · split <;> simp

@[simp] theorem State.holdItem_teams (lci : Nat) (it : RingItem) (pod level : Nat) : (s.holdItem lci it pod level).teams = s.teams := by
  unfold State.holdItem State.postHyps State.addPage
  refine (foldl_teams id _ (fun u p => ?_) _).trans (State.modChip_teams s _ _)
  split
  · rfl
  · exact State.postHyp_teams u p

@[simp] theorem State.sepiaPut_teams (die : Nat) (u : Sepia) (recs : List (List Byte)) : (s.sepiaPut die u recs).teams = s.teams := by
  unfold State.sepiaPut
  dsimp only
  split
  · rfl
  · split
    · rfl
    · rw [State.modMod_teams]
      have hw := foldl_teams id recs.zipIdx (f := fun s p => s.memWrite (ringAddr u.ring.base u.ring.size 32 (u.ring.tail + p.2)) p.1)
        (fun _ _ => State.memWrite_teams _ _ _) s
      split
      · exact hw
      · exact hw
    · split
      · exact State.modChip_teams s _ _
      · split
        · rw [State.modMod_teams]
          refine foldl_teams Prod.fst recs.zipIdx (fun a p => ?_) (s, [])
          dsimp only
          split
          · exact State.pokeAt_teams _ _ _ _ _
          · exact State.pokeAt_teams _ _ _ _ _
          · rfl
        · exact State.holdItem_teams s _ _ _ _
        · rfl

@[simp] theorem State.trace_teams (core : Nat) (t : Team) (group kind detail info : Nat) :
    (s.trace core t group kind detail info).teams = s.teams := by
  unfold State.trace
  dsimp only
  split
  · rfl
  · split
    · exact State.sepiaPut_teams s _ _ _
    · rfl

end

end Sys2Proof.Machine
end

section
/-! SUPPORT. The barrier instructions (09 R264 to R270): what each finishes with, and statement O28. -/

namespace Sys2Proof.Machine

/-! ### Teams and contexts after a change -/

@[simp] theorem Team.markSleep_desc (t : Team) (ofs : Nat) : (t.markSleep ofs).desc = t.desc := by
  unfold Team.markSleep
  dsimp only
  split <;> rfl

@[simp] theorem Team.markSleep_id (t : Team) (ofs : Nat) : (t.markSleep ofs).id = t.id := by
  unfold Team.markSleep
  dsimp only
  split <;> rfl

@[simp] theorem Team.freeWaiters_desc (t : Team) (ofs : Nat) : (t.freeWaiters ofs).desc = t.desc := Team.markSleep_desc _ ofs

@[simp] theorem Team.freeWaiters_id (t : Team) (ofs : Nat) : (t.freeWaiters ofs).id = t.id := Team.markSleep_id _ ofs

@[simp] theorem Team.putBar_bars (t : Team) (ofs o : Nat) : (t.putBar ofs o).bars = t.bars := rfl

/-- A state's team is found among its teams alone. -/
theorem State.team?_congr {s u : State} (h : u.teams = s.teams) (id : TeamId) : u.team? id = s.team? id := by
  rw [State.team?, h, State.team?]

section

variable {s : State} {sc : Sched} {x : Ix} (h : Latched s sc x)
include h

/-- A state that leaves the team leaves the rest of the context. -/
theorem withState_of_teams {u : State} (hu : u.teams = x.s.teams) : x.withState u = { x with s := u } := by
  obtain ⟨-, hg, ht, -⟩ := latched_facts h
  simp only [Ix.withState, State.team?_congr hu, ht, ← hg]

/-- An update of a barrier leaves the team's descriptor. -/
theorem withState_barUpdate_desc {u : State} {ofs n st : Nat} {e w : Int}
    (hu : x.s.barUpdate x.t.id ofs n e w = (u, some st)) : (x.withState u).t.desc = x.t.desc := by
  obtain ⟨-, -, ht, -⟩ := latched_facts h
  have hteam : u.teams = (x.s.setTeam ((x.t.putBar ofs (barStep (x.t.bar ofs) n e w).2).freeWaiters ofs)).teams := by
    simp only [State.barUpdate, ht] at hu
    split at hu
    · split at hu
      · rw [← (Prod.mk.inj hu).1, State.trace_teams]
      · rw [← (Prod.mk.inj hu).1]
    · simp at hu
  have hfind : u.team? x.t.id = some ((x.t.putBar ofs (barStep (x.t.bar ofs) n e w).2).freeWaiters ofs) := by
    have hid : ((x.t.putBar ofs (barStep (x.t.bar ofs) n e w).2).freeWaiters ofs).id = x.t.id := Team.freeWaiters_id _ ofs
    rw [State.team?_congr hteam, State.team?_setTeam, hid, if_pos rfl, ht]
    rfl
  rw [Ix.withState, hfind]
  exact Team.freeWaiters_desc _ ofs

end

/-- An instruction that finishes in another state writes its active lanes' destination there, where the team keeps its
descriptor. -/
theorem finish_withState_ends {x : Ix} {u : State} {o : Opd} (hd : (x.withState u).t.desc = x.t.desc)
    (hn : ∀ r ∈ x.t.desc.regsOf o, r < 256) (sc : Sched) (lat : Option Nat) (val : Nat → Nat) :
    Ends (x.withState u) sc (x.wr x.active o val) (x.withState u).stepped
      ((x.withState u).finish sc lat ((lanesOf (x.withState u).active).flatMap fun l => (x.withState u).dst l o (val l))) := by
  rw [← wr_congr hd, ← withState_active x u]
  exact finish_ends _ sc lat (writes_dst (by rwa [hd]) _ _)

/-! ### Arrivals -/

/-- An arrival at an own object that takes it: its lanes get the status (09 R267, R268). -/
theorem arrive_ends {s u : State} {x : Ix} {f : FmtR} {ofs n st : Nat} {e : Int} (h : Latched s f.sched x)
    (hd : ∀ r ∈ x.t.desc.regsOf f.dst, r < 256) (hc : x.t.barCause ofs = none)
    (hu : x.s.barUpdate x.t.id ofs n e 0 = (u, some st)) :
    Ends (x.withState u) f.sched (x.wr x.active f.dst fun _ => st) (x.withState u).stepped (x.arrive f ofs n e) := by
  simp only [Ix.arrive, hc, hu]
  exact finish_withState_ends (withState_barUpdate_desc h hu) hd f.sched _ fun _ => st

/-- The state in which an arrival at an object of team `p` is posted (09 R269). -/
def Ix.barPosted (x : Ix) (p : Team) (k n : Nat) (e : Int) : State :=
  x.s.fresh.2.modTraffic fun y => { y with barUpds := y.barUpds ++ [{
    id := x.s.fresh.1, team := p.id, ofs := k, n := n, u := e, sender := x.t.id, sgroup := x.cur.group }] }

/-- An arrival at a peer's object is posted (09 R269). -/
theorem arriveWindow_ends {s : State} {x : Ix} {f : FmtR} {a n k : Nat} {e : Int} {p : Team} (h : Latched s f.sched x)
    (hc : x.s.spadCheck x.t true false a 16 16 = none) (hat : x.s.spadAt x.t true a 16 = some (p, k))
    (hb : p.bars.contains k = true) :
    Ends { x with s := x.barPosted p k n e } f.sched noWrite x.stepped (x.arriveWindow f a n e) := by
  have hrun : x.arriveWindow f a n e = (x.withState (x.barPosted p k n e)).finish f.sched (some 4) [] := by
    simp only [Ix.arriveWindow, hc, hat, hb, Bool.not_true, Bool.false_eq_true, if_false, Ix.barPosted]
  rw [hrun, withState_of_teams h (u := x.barPosted p k n e) rfl]
  exact finish_ends { x with s := x.barPosted p k n e } f.sched _ writes_nil

/-- An arrival, at an own object or at a peer's (09 R267, R269). -/
def Ix.arriveAt (x : Ix) (f : FmtR) (e : Int) : State :=
  if modBit f.mod 0 then x.arriveWindow f (x.rdVia f.perm x.low f.sa) (x.arrivals f) e
  else x.arrive f (x.rdVia f.perm x.low f.sa) (x.arrivals f) e

/-! ### The instructions -/

/-- The team after a BARINIT of the object at an offset, whose slot it takes where it has none (09 R266). -/
def Ix.barMade (x : Ix) (f : FmtR) (ofs n : Nat) (fresh : Bool) : Team :=
  let t := x.t.putBar ofs (barInitial (x.t.bar ofs) n fresh (modBit f.mod 0))
  (if fresh then { t with bars := t.bars ++ [ofs] } else t).freeWaiters ofs

/-- The context after a BARINIT: an object that stood is traced (17 R450). -/
def Ix.barInited (x : Ix) (f : FmtR) (ofs n : Nat) (fresh : Bool) : Ix :=
  let t := x.barMade f ofs n fresh
  ({ x with s := if fresh then x.s else x.s.trace x.cur.core t x.cur.group 2 (barGen (t.bar ofs)) ofs } : Ix).withTeam t

/-- What becomes of an object that stood, and of one that takes a slot. -/
theorem barMade_not (x : Ix) (f : FmtR) (ofs n : Nat) (old : Bool) : x.barMade f ofs n (!old) =
    (if old then x.t.putBar ofs (barInitial (x.t.bar ofs) n false (modBit f.mod 0))
      else { x.t.putBar ofs (barInitial (x.t.bar ofs) n true (modBit f.mod 0)) with bars := x.t.bars ++ [ofs] }).freeWaiters ofs := by
  cases old with
  | true => rw [Bool.not_true, Ix.barMade, if_neg Bool.false_ne_true, if_pos rfl]
  | false => rw [Bool.not_false, Ix.barMade, if_pos rfl, if_neg Bool.false_ne_true, Team.putBar_bars]

/-- Only an object that stood is traced. -/
theorem barInited_not (x : Ix) (f : FmtR) (ofs n : Nat) (old : Bool) :
    let t := x.barMade f ofs n (!old)
    x.barInited f ofs n (!old) =
      Ix.withTeam { x with s := if old then x.s.trace x.cur.core t x.cur.group 2 (barGen (t.bar ofs)) ofs else x.s } t := by
  cases old with
  | true => rfl
  | false => rfl

section

variable {s : State} {x : Ix} {f : FmtR} (h : Latched s f.sched x) (ha : x.active ≠ 0)
  (hop : x.operandTrap (x.via f.perm (x.t.desc.regsOf f.sa) ++ x.own (x.t.desc.regsOf f.sb)) (x.t.desc.regsOf f.dst) = none)

/-- A barrier instruction with an active lane, past the checks of its operands. -/
theorem onBar_runs (ha : x.active ≠ 0)
    (hop : x.operandTrap (x.via f.perm (x.t.desc.regsOf f.sa) ++ x.own (x.t.desc.regsOf f.sb)) (x.t.desc.regsOf f.dst) = none)
    (k : Nat → State) : x.onBar f k = k (x.rdVia f.perm x.low f.sa) := by
  simp only [Ix.onBar, hop, if_neg ha]

include h ha hop

/-- BARINIT past the checks of its address, its count and its slot (09 R266). -/
theorem exec_barinit (hsize : x.rdVia f.perm x.low f.sa < x.t.spadSize) (halign : x.rdVia f.perm x.low f.sa % 16 = 0)
    (hn : x.rd x.low f.sb < 2048)
    (hslot : x.t.bars.contains (x.rdVia f.perm x.low f.sa) = true ∨ x.t.bars.length < x.t.desc.bars) :
    exec (.barinit f) s = .next ((x.barInited f (x.rdVia f.perm x.low f.sa) (x.rd x.low f.sb)
      (!x.t.bars.contains (x.rdVia f.perm x.low f.sa))).finish f.sched (some 4) []) := by
  have hteam : ∀ (u : State) (t : Team), (x.withState u).withTeam t = ({ x with s := u } : Ix).withTeam t := fun u t => by
    unfold Ix.withState
    split <;> rfl
  have hroom : ¬ (!x.t.bars.contains (x.rdVia f.perm x.low f.sa) && decide (x.t.desc.bars ≤ x.t.bars.length)) = true := by
    rcases hslot with hold | hlt
    · rw [hold]
      exact Bool.false_ne_true
    · rw [decide_eq_false (Nat.not_le.2 hlt), Bool.and_false]
      exact Bool.false_ne_true
  change execBarinit f s = _
  rw [execBarinit, issue_latched h, onBar_runs ha hop]
  dsimp only
  rw [if_neg (Nat.not_le.2 hsize), if_neg (not_not.2 halign), if_neg (Nat.not_le.2 hn), if_neg hroom, hteam]
  rfl

/-- BARINIT.free of an object on which no lane waits (09 R266). -/
theorem exec_barinitFree (hc : x.t.barCause (x.rdVia f.perm x.low f.sa) = none)
    (hs : barSleep (x.t.bar (x.rdVia f.perm x.low f.sa)) = false) :
    exec (.barinitFree f) s = .next ((x.withTeam { x.t with
      bars := x.t.bars.filter fun b => b != x.rdVia f.perm x.low f.sa }).finish f.sched (some 4) []) := by
  change execBarinitFree f s = _
  rw [execBarinitFree, issue_latched h, onBar_runs ha hop]
  simp only [hc, hs, Bool.false_eq_true, if_false]

/-- BARARR past its release (09 R268). -/
theorem exec_bararr (hr : x.awaitRel .cluster = none) : exec (.bararr f) s = .next (x.arriveAt f 0) := by
  change execBararr f s = _
  rw [execBararr, issue_latched h, onBar_runs ha hop]
  simp only [hr, Ix.arriveAt]

/-- BAREXP past its release, of whole units (09 R268). -/
theorem exec_barexp (hr : x.awaitRel .cluster = none) (hn : x.rd x.low f.sb % 16 = 0) :
    exec (.barexp f) s = .next (x.arriveAt f (x.rd x.low f.sb / 16 : Nat)) := by
  change execBarexp f s = _
  rw [execBarexp, issue_latched h, onBar_runs ha hop]
  simp only [hr, hn, ne_eq, not_true_eq_false, if_false, Ix.arriveAt]

section

variable (hc : x.t.barCause (x.rdVia f.perm x.low f.sa) = none) (hov : barOvf (x.t.bar (x.rdVia f.perm x.low f.sa)) = false)
include hc hov

/-- BARWAIT puts the lanes whose generation stands into WAITING (09 R270). -/
theorem exec_barwait :
    let ofs := x.rdVia f.perm x.low f.sa
    exec (.barwait f) s = .next ((x.put ((x.passed f.sched).await
      (x.active &&& maskWhere fun l => barWaits (x.t.bar ofs) (x.rd l f.sb % 16) (modBit f.mod 0))
      fun l => .barrier x.cur.pc.toNat ofs (x.rd l f.sb % 16) (modBit f.mod 0))).modTeam x.t.id fun t => t.markSleep ofs) := by
  change execBarwait f s = _
  rw [execBarwait, issue_latched h, onBar_runs ha hop]
  simp only [hc, hov, Bool.false_eq_true, if_false, Ix.passed]

/-- BARTEST gives each lane whether it would go on (09 R270). -/
theorem exec_bartest : exec (.bartest f) s = .next (x.finish f.sched (some 4) ((lanesOf x.active).flatMap fun l => x.dst l f.dst
    (if barWaits (x.t.bar (x.rdVia f.perm x.low f.sa)) (x.rd l f.sb % 16) (modBit f.mod 0) then 0 else 1))) := by
  change execBartest f s = _
  rw [execBartest, issue_latched h, onBar_runs ha hop]
  simp only [hc, hov, Bool.false_eq_true, if_false]

end

end

/-- Settles O28: BARARR and BAREXP arrive at an own object or post to a peer's; each of the others takes its branch. -/
theorem barrierInstructions : Obligations.BarrierInstructions := by
  unfold Obligations.BarrierInstructions
  intro f s u x h ha hop ofs n o arrivals old made arrived posted
  have harrives : ∀ {i : Instr} {e : Int}, (x.awaitRel .cluster = none → exec i s = .next (x.arriveAt f e)) →
      arrived i e ∧ posted i e := fun {i e} hi => by
    constructor
    · intro hc hown hr st hu
      refine ⟨_, hi hr, ?_⟩
      rw [Ix.arriveAt, if_neg (by simp [hown])]
      exact arrive_ends h (names_lt hop) hc hu
    · intro hpeer hr hc p k hat hb
      refine ⟨_, hi hr, ?_⟩
      rw [Ix.arriveAt, if_pos hpeer]
      exact arriveWindow_ends h hc hat hb
  have harr := harrives (exec_bararr h ha hop)
  have hmade : x.barMade f ofs n (!old) = made := barMade_not x f ofs n old
  refine ⟨fun hsize halign hn hslot => ?_, fun hc hs => ?_, harr.1, harr.2, fun hn => ?_, fun hc hov => ⟨?_, ?_⟩⟩
  · refine ⟨_, exec_barinit h ha hop hsize halign hn hslot, ?_⟩
    rw [barInited_not, hmade]
    exact finish_ends _ f.sched _ writes_nil
  · refine ⟨_, exec_barinitFree h ha hop hc hs, ?_⟩
    rw [← withTeam_stepped h rfl]
    exact finish_ends _ f.sched _ writes_nil
  · exact harrives fun hr => exec_barexp h ha hop hr hn
  · exact ⟨_, await_passed_ends x f.sched _ _, exec_barwait h ha hop hc hov⟩
  · exact ⟨_, exec_bartest h ha hop hc hov, finish_ends x f.sched _ (writes_dst (names_lt hop) x.active _)⟩

end Sys2Proof.Machine
end

section
/-! SUPPORT. The convergence instructions (09 R271 to R273): what each finishes with past its release, and statement O29. -/

namespace Sys2Proof.Machine

/-! ### Signatures and masks -/

/-- The team once the lanes of an issue have signed a convergence register (09 R272). -/
def Ix.signed (x : Ix) (k : Nat) : Team :=
  x.t.setConv k ((x.t.convReg k).sign x.cur.group (x.t.countable (x.t.convReg k) x.cur.group x.active))

/-- The state after a CSIGN: the phase completes when every declared lane has signed (09 R272). -/
def Ix.afterSign (x : Ix) (k : Nat) : State := (x.s.setTeam (x.signed k)).evalPhase x.t.id x.cur.core k

/-- The state after a CSIGN.decl: the phase has completed, and the masks are those of the lowest active lane (09 R272). -/
def Ix.afterDecl (x : Ix) (k : Nat) (f : FmtR) : State :=
  (x.s.completePhase x.t.id x.cur.core k).modTeam x.t.id fun t =>
    t.setConv k { t.convReg k with gmask := BitVec.ofNat 32 (x.rd x.low f.sb), lmask := BitVec.ofNat 32 (x.rd x.low f.sc) }

/-- The status of a CSIGN in a lane: the phase, whether it has completed, and whether the lane is outside the declared set or
had signed (09 R272). -/
def Ix.signStatus (x : Ix) (k l : Nat) : Nat :=
  let c := x.t.convReg k
  let decl := x.t.declaredOf c x.cur.group
  let had := c.signed.extractLsb' (32 * x.cur.group) 32
  csignStatus c.phase.toNat ((x.signed k).convFull ((x.signed k).convReg k)) (!decl.getLsbD l) (decl.getLsbD l && had.getLsbD l)

section

variable {s : State} {x : Ix} {f : FmtR} (h : Latched s f.sched x) (ha : x.active ≠ 0)
include h

/-- CWAIT past the check of its source holds the lanes whose phase stands (09 R273). -/
theorem exec_cwait (hop : x.operandTrap (x.own (x.t.desc.regsOf f.sb)) [] = none) :
    exec (.cwait f) s = .next (x.put ((x.passed f.sched).await
      (x.active &&& maskWhere fun l => (x.t.convReg (convNum f.sa)).phase.toNat == x.rd l f.sb % 65536)
      fun l => .phase (convNum f.sa) (x.rd l f.sb % 65536))) := by
  change execCwait f s = _
  rw [execCwait, issue_latched h]
  simp only [hop, Ix.passed]

include ha

/-- CSIGN past its release signs, and each lane gets its status (09 R272). -/
theorem exec_csign (hop : x.operandTrap [] (x.t.desc.regsOf f.dst) = none) (hr : x.awaitRel .team = none) :
    let y := x.withState (x.afterSign (convNum f.sa))
    exec (.csign f) s = .next (y.finish f.sched (some 4)
      ((lanesOf y.active).flatMap fun l => y.dst l f.dst (x.signStatus (convNum f.sa) l))) := by
  change execCsign f s = _
  rw [execCsign, issue_latched h]
  simp only [hop, if_neg ha, hr, Ix.afterSign, Ix.signed, Ix.signStatus]

/-- CSIGN.decl past its release gives each lane the phase that its masks begin (09 R272). -/
theorem exec_csignDecl (hop : x.operandTrap (x.own (x.t.desc.regsOf f.sb ++ x.t.desc.regsOf f.sc)) (x.t.desc.regsOf f.dst) = none)
    (hr : x.awaitRel .team = none) :
    let y := x.withState (x.afterDecl (convNum f.sa) f)
    exec (.csignDecl f) s = .next (y.finish f.sched (some 4)
      ((lanesOf y.active).flatMap fun l => y.dst l f.dst (y.t.convReg (convNum f.sa)).phase.toNat)) := by
  change execCsignDecl f s = _
  rw [execCsignDecl, issue_latched h]
  simp only [hop, if_neg ha, hr, Ix.afterDecl]

end

/-- Settles O29: CSIGN and CSIGN.decl finish in the state that they leave, and the lanes of CWAIT wait. -/
theorem convergenceInstructions : Obligations.ConvergenceInstructions := by
  unfold Obligations.ConvergenceInstructions
  intro f s x h ha k c decl had signed full y z
  refine ⟨fun hop hr hd => ?_, fun hop hr hd => ?_, fun hop => ?_⟩
  · exact ⟨_, exec_csign h ha hop hr, finish_withState_ends hd (names_lt hop) f.sched _ (x.signStatus k)⟩
  · exact ⟨_, exec_csignDecl h ha hop hr, finish_withState_ends hd (names_lt hop) f.sched _ _⟩
  · exact ⟨_, exec_cwait h hop, await_passed_ends x f.sched _ _⟩

end Sys2Proof.Machine
end

section
/-! SUPPORT. Instructions that issue an access to global or pod memory (10 R281 to R291, 04 R123 to R129): what the issue of an
access leaves, the three forms that pass their checks, and statements O31 and O33. -/

namespace Sys2Proof.Machine

/-! ### The issue of an access -/

/-- A group that more holds keep from issuing. -/
def Group.addHolds (g : Group) (hs : List Hold) : Group := { g with ord := { g.ord with holds := g.ord.holds ++ hs } }

/-- Stepping lanes and new holds do not meet. -/
theorem advance_addHolds (x : Ix) (g : Group) (hs : List Hold) : x.advance (g.addHolds hs) = (x.advance g).addHolds hs :=
  List.foldl_hom (fun g : Group => g.addHolds hs) fun _ _ => rfl

/-- The context that the issue of an access steps: its number is taken, and its holds stand. -/
def Ix.accessing (y : Ix) (f : FmtM) (sp : AccSpec) (sync : Bool) : Ix :=
  { y with s := y.s.fresh.2, g := y.g.addHolds (y.accHolds f sp sync) }

/-- The state in which an issued access is recorded: its lanes have stepped and its writes are announced. -/
def Ix.accessed (y : Ix) (f : FmtM) (sp : AccSpec) (sync : Bool) : State :=
  let x := y.accessing f sp sync
  x.put (x.advance ((x.g.reserve sp.ws (x.cover f.sched none) y.s.fresh.1 x.cur.first).bump (setCtr f.sched)))

/-- An access is issued from that state. -/
theorem issueAccess_eq (y : Ix) (f : FmtM) (sp : AccSpec) (sync isSc : Bool) (ans : List LaneAns) (go : State → AccInfo → State) :
    y.issueAccess f sp sync isSc ans go =
      go ((y.accessed f sp sync).addAccess (y.accRec f sp sync isSc ans)) (y.accInfo f sync) := by
  have hg : ∀ g : Group, ((g.addHolds (y.accHolds f sp sync)).bump (setCtr f.sched)) =
      (g.bump (setCtr f.sched)).addHolds (y.accHolds f sp sync) := fun g => by cases setCtr f.sched <;> rfl
  have hr : (y.accessing f sp sync).g.reserve sp.ws ((y.accessing f sp sync).cover f.sched none) y.s.fresh.1 y.cur.first =
      (y.g.reserve sp.ws (y.cover f.sched none) y.s.fresh.1 y.cur.first).addHolds (y.accHolds f sp sync) := rfl
  have hcur : (y.accessing f sp sync).cur = y.cur := rfl
  simp only [Ix.accessed, hcur, hr, hg, advance_addHolds]
  rfl

/-- An instruction whose meaning is the issue of an access. -/
theorem accesses_of_exec {i : Instr} {s : State} {y : Ix} {f : FmtM} {sp : AccSpec} {sync isSc : Bool} {ans : List LaneAns}
    {go : State → AccInfo → State} (h : exec i s = .next (y.issueAccess f sp sync isSc ans go)) :
    Accesses i s y f sp sync isSc ans go :=
  ⟨y.accessed f sp sync, reserve_ends (y.accessing f sp sync) f.sched sp.ws _ _ _, by rw [h, issueAccess_eq]⟩

/-! ### Loads, stores and atomics past their checks -/

/-- An atomic past its checks issues an access that always synchronises (10 R289, R291). -/
theorem atomMem_issues {f : FmtM} {x y : Ix} {l : List LaneX} {op : AtomOp} {dst pred : Opd}
    (hsc : anySc l = true → y.awaitSc f.scope = none) (hord : x.awaitOrd f.ord f.scope true = none)
    (hchk : x.memCheck f op.bytes .atomic (fun c => badOrd f.ord c || c == .wo) = .ok y l) :
    x.atomMem op f dst pred = y.issueAccess f
      { dst := .atomic op dst pred, isLoad := true, isStore := true, ws := y.accWrites (y.t.desc.regsOf dst) pred }
      true (anySc l) (voided l op.bytes)
      fun u a => (byLine l op.bytes fun n => y.laneData n (atomOperand op) (y.t.desc.atomRegs op f.sb)).foldl
        (fun u g => u.atomicLine a g op (dst != .zero)) u := by
  rw [Ix.atomMem]
  simp only [hord, hchk, ite_eq_right_iff.2 hsc]

section

variable {f : FmtM} {s : State} {x y : Ix} {l : List LaneX} (h : Latched s f.sched x) (ha : x.active ≠ 0)
  (hsc : anySc l = true → y.awaitSc f.scope = none)
include h ha hsc

/-- LD past its checks: a line is answered at once from the core's own copies, or becomes a transaction (10 R285, 04 R123). -/
theorem ld_accesses {ls : LdSize} (hasp : f.asp ≠ .acc) (hord : x.awaitOrd f.ord f.scope (f.ord != .weak) = none)
    (hop : x.operandTrap (x.own (x.t.desc.regsOf f.sa)) (x.t.desc.ldRegs ls f.dst) = none)
    (hchk : x.memCheck f ls.bytes .read (badOrd f.ord) = .ok y l) :
    Accesses (.ld ls f) s y f
      { dst := .load ls f.dst f.sb, isLoad := true, isStore := false, ws := y.accWrites (y.t.desc.ldRegs ls f.dst) f.sb }
      (f.ord != .weak || anySc l) (anySc l) (voided l ls.bytes)
      fun u a => (byLine l ls.bytes fun _ => []).foldl (fun u g => u.loadLine a g) u := by
  apply accesses_of_exec
  change execLd ls f s = _
  rw [execLd, issue_latched h, onMem_runs hop ha, if_neg hasp, Ix.loadMem]
  simp only [hord, hchk, ite_eq_right_iff.2 hsc]

/-- ST past its checks, by line as LD (10 R285, R286). -/
theorem st_accesses {ss : StSize} (hasp : f.asp ≠ .acc) (hord : x.awaitOrd f.ord f.scope (f.ord != .weak) = none)
    (hop : x.operandTrap (x.own (x.t.desc.regsOf f.sa ++ x.t.desc.stRegs ss f.sb)) [] = none)
    (hchk : x.memCheck f ss.bytes .write (badOrd f.ord) = .ok y l) :
    Accesses (.st ss f) s y f { dst := .store f.dst, isLoad := false, isStore := true, ws := y.accWrites [] f.dst }
      (f.ord != .weak || anySc l) (anySc l) (voided l ss.bytes)
      fun u a => (byLine l ss.bytes fun n => y.laneData n ss.bytes (y.t.desc.stRegs ss f.sb)).foldl
        (fun u g => u.storeLineGrp a g) u := by
  apply accesses_of_exec
  change execSt ss f s = _
  rw [execSt, issue_latched h, onMem_runs hop ha, if_neg hasp, Ix.storeMem]
  simp only [hord, hchk, ite_eq_right_iff.2 hsc]

end

/-- Settles O31: past its checks LD or ST comes to the issue of an access of its lines. -/
theorem loadsAndStoresIssue : Obligations.LoadsAndStoresIssue := by
  unfold Obligations.LoadsAndStoresIssue
  intro ls ss f s x y l h ha hasp hord hsc sync
  exact ⟨fun hop hchk => ld_accesses h ha hsc hasp hord hop hchk, fun hop hchk => st_accesses h ha hsc hasp hord hop hchk⟩

/-- Settles O33: past their checks ATOM, and RED outside the scratchpads, come to the access of `atomMem_issues`. -/
theorem globalAtomicsIssue : Obligations.GlobalAtomicsIssue := by
  unfold Obligations.GlobalAtomicsIssue
  intro op f s x y l h ha hord hchk hsc go sp
  refine ⟨fun hop => accesses_of_exec ?_, fun hop hspad hwin => accesses_of_exec ?_⟩
  · change execAtom op f s = _
    rw [execAtom, issue_latched h, onMem_runs hop ha, atomMem_issues hsc hord hchk]
  · change execRed op f s = _
    rw [execRed, issue_latched h, onMem_runs hop ha, if_neg (by simp [hspad, hwin]), atomMem_issues hsc hord hchk]

end Sys2Proof.Machine
end

section
/-! SUPPORT. Translations of the lanes of an issue (02 R55, R60 to R63), which leave the module's teams as they are, PGPROBE and
PGREQ (10 R293, R294), and statement O35. -/

namespace Sys2Proof.Machine

/-! ### Translations leave the teams -/

@[simp] theorem State.walkCore_teams (s : State) (core lci : Nat) (p : Bool) (a : Nat) (k : AccKind) :
    (s.walkCore core lci p a k).2.teams = s.teams := rfl

/-- A translation's outcome does not look at the teams, and they stand after it. -/
@[simp] theorem State.xlateCore_teams (s : State) (core lci : Nat) (p : Bool) (a : Nat) (k : AccKind) :
    (s.xlateCore core lci p a k).2.teams = s.teams :=
  congrArg (fun r : Xl × State => r.2.teams) (xlateCore_withTeams s s.teams core lci p a k)

@[simp] theorem State.noteTable_teams (s : State) (lci : Nat) (t : Option Nat) : (s.noteTable lci t).teams = s.teams := by
  cases t with
  | none => rfl
  | some a => exact State.postPf_teams s _ _ _

/-- One more address of a list leaves the teams where its translation does. -/
theorem State.xlateInto_teams (lci : Nat) {f : State → Nat → Xl × State} (hf : ∀ s a, (f s a).2.teams = s.teams)
    (r : List LaneX × State) (p : Nat × Nat) : (State.xlateInto lci f r p).2.teams = r.2.teams := by
  unfold State.xlateInto
  dsimp only
  split
  · rw [State.noteTable_teams, hf]
  · exact hf _ _

@[simp] theorem State.xlateLanes_teams (s : State) (core lci : Nat) (p : Bool) (k : AccKind) (l : List (Nat × Nat)) :
    (s.xlateLanes core lci p k l).2.teams = s.teams :=
  foldl_teams Prod.snd l (State.xlateInto_teams lci fun s a => s.xlateCore_teams core lci p a k) ([], s)

@[simp] theorem State.xlateWalks_teams (s : State) (core lci : Nat) (p : Bool) (k : AccKind) (l : List (Nat × Nat)) :
    (s.xlateWalks core lci p k l).2.teams = s.teams :=
  foldl_teams Prod.snd l (State.xlateInto_teams lci fun s a => s.walkCore_teams core lci p a k) ([], s)

/-! ### Masks of lists of lanes -/

/-- A lane is in the mask of a list if the list names it. -/
theorem getLsbD_maskOf (ls : List Nat) {l : Nat} (hl : l < 32) : (maskOf ls).getLsbD l = ls.contains l := by
  simpa [maskOf] using getLsbD_foldl_setBits (w := 32) (fun _ => true) ls 0 l hl

/-- The lanes of a mask that no entry of a list names. -/
theorem filter_lanesOf_any (m : Mask) (ws : List LaneX) :
    ((lanesOf m).filter fun l => !ws.any fun z => z.lane == l) = lanesOf (m &&& ~~~maskOf (ws.map LaneX.lane)) := by
  rw [lanesOf, lanesOf, List.filter_filter]
  refine List.filter_congr fun l hl => ?_
  have hl : l < 32 := List.mem_range.1 hl
  have hany : (ws.any fun z => z.lane == l) = (ws.map LaneX.lane).contains l := by
    rw [List.contains_eq_any_beq, List.any_map]
    exact congrArg ws.any (funext fun z => Bool.beq_comm)
  rw [BitVec.getLsbD_and, BitVec.getLsbD_not, getLsbD_maskOf _ hl, hany]
  simp [hl, Bool.and_comm]

/-- No lane fails a check that no lane fails. -/
theorem failTrap_none (x : Ix) (cause : Nat) {bad : Nat → Bool} (hb : ∀ l, bad l = false) (addr : Nat → Nat) :
    x.failTrap cause bad addr = none := by
  have hm : maskWhere bad = 0 := by
    rw [maskWhere, List.filter_eq_nil_iff.2 fun l _ => by simp [hb l]]
    rfl
  simp [Ix.failTrap, hm]

/-! ### Writes now and replies later -/

/-- What an instruction leaves that ends from a group with the writes `w` already made, and makes none itself. -/
theorem Wrote.endsWith {x : Ix} {h : Group} {w : Nat → Nat → Option Word} {sc : Sched} {d : List Nat} {lane lane' : Nat → Lane}
    {t : State} (hw : Wrote x w h) (ht : EndsWith { x with g := h } sc d noWrite lane t)
    (hl : ∀ l, l < 32 → ∃ p, lane l = { lane' l with preds := p }) : EndsWith x sc d w lane' t := by
  obtain ⟨g, rfl, hkey, hlane, hsb, hdrops, hrest⟩ := ht
  obtain ⟨hwkey, -, hwrest⟩ := hw
  refine ⟨g, rfl, fun l k h32 hk => (hkey l k h32 hk).trans (hwkey l k h32 hk), fun l h32 => ?_, ?_, ?_, ?_⟩
  · obtain ⟨p, hp⟩ := hlane l h32
    obtain ⟨q, hq⟩ := hl l h32
    exact ⟨p, by rw [hp, hq]⟩
  · rw [hsb, hwrest]
    cases setCtr sc <;> rfl
  · rw [hdrops, hwrest]
  · rw [hrest, hwrest]

/-- Lanes that step and then wait differ by their predicates alone where the lanes they step from do. -/
theorem Wrote.stepped_waits {x : Ix} {h : Group} {w : Nat → Nat → Option Word} (hw : Wrote x w h) (m : Mask) (wt : Nat → Wait)
    {l : Nat} (hl : l < 32) :
    ∃ p, (if m.getLsbD l then { ({ x with g := h } : Ix).stepped l with st := .waiting, wait := some (wt l) }
        else ({ x with g := h } : Ix).stepped l) =
      { (if m.getLsbD l then { x.stepped l with st := .waiting, wait := some (wt l) } else x.stepped l) with preds := p } := by
  obtain ⟨p, hp⟩ := hw.lanes l hl
  refine ⟨p, ?_⟩
  simp only [Ix.stepped, hp]
  split <;> split <;> rfl

/-- A group none of whose registers in the lanes of a mask is discarded yet (05 R176). -/
def Group.keepLanes (g : Group) (m : Mask) : Group := { g with lost := g.lost.filter fun k => !m.getLsbD (k / 256) }

/-- Stepping lanes keep their registers from being discarded. -/
theorem advance_keepLanes (x : Ix) (g : Group) (m : Mask) : x.advance (g.keepLanes m) = (x.advance g).keepLanes m :=
  List.foldl_hom (fun g : Group => g.keepLanes m) fun _ _ => rfl

/-- Writes and discarded registers do not meet. -/
theorem Wrote.keepLanes {x : Ix} {w : Nat → Nat → Option Word} {h : Group} (hw : Wrote x w h) (m : Mask) :
    Wrote { x with g := x.g.keepLanes m } w (h.keepLanes m) :=
  ⟨hw.keys, hw.lanes, congrArg (fun g : Group => g.keepLanes m) hw.rest⟩

/-- An instruction that writes some lanes now, and others when they are answered (10 R293, 05 R168). -/
theorem Wrote.awaitReply_ends {x : Ix} {w : Nat → Nat → Option Word} {h : Group} (hw : Wrote x w h) (sc : Sched) (m : Mask)
    (wt : Nat → Wait) :
    EndsWith { x with g := x.g.keepLanes m } sc [] w
      (fun l => if m.getLsbD l then { x.stepped l with st := .waiting, wait := some (wt l) } else x.stepped l)
      (x.put ((x.advance (h.bump (setCtr sc))).awaitReply m wt)) := by
  have hbump : (h.keepLanes m).bump (setCtr sc) = (h.bump (setCtr sc)).keepLanes m := by cases setCtr sc <;> rfl
  have hgroup : Ix.advance { x with g := h.keepLanes m } ((h.keepLanes m).bump (setCtr sc)) =
      (x.advance (h.bump (setCtr sc))).keepLanes m := by
    rw [hbump]
    exact advance_keepLanes x _ m
  have hends := (hw.keepLanes m).endsWith (await_ends { x with g := h.keepLanes m } sc m wt)
    fun l hl => (hw.keepLanes m).stepped_waits m wt hl
  simp only [hgroup] at hends
  exact hends

/-! ### PGPROBE -/

section

variable {f : FmtM} {s : State} {x : Ix} (h : Latched s f.sched x) (ha : x.active ≠ 0)
  (hop : x.operandTrap (x.own (x.t.desc.regsOf f.sa)) (x.t.desc.regsOf f.dst) = none)
include h ha hop

/-- PGPROBE past its checks writes what Table 10.5 gives for each lane's translation. -/
theorem pgprobe_ends {r : List LaneX × State} (hr : x.rangeTrap f 4 = none)
    (hx : x.s.xlateLanes x.cur.core x.t.id.lci (isPodM f) .read ((lanesOf x.active).map fun l => (l, (x.ea f l).toNat)) = r) :
    ∃ t, exec (.pgprobe f) s = .next t ∧
      Ends (x.withState r.2) f.sched (lastWrite (r.1.flatMap fun z => x.dst z.lane f.dst (probeStatus z)))
        (x.withState r.2).stepped t := by
  have hy : x.withState r.2 = { x with s := r.2 } := withState_of_teams h (by rw [← hx, State.xlateLanes_teams])
  refine ⟨(x.withState r.2).finish f.sched none (r.1.flatMap fun z => (x.withState r.2).dst z.lane f.dst (probeStatus z)), ?_, ?_⟩
  · change execPgprobe f s = _
    rw [execPgprobe, issue_latched h, onMem_runs hop ha]
    simp only [hr, hx]
  · rw [hy]
    refine finish_last _ _ _ fun w hw => ?_
    obtain ⟨z, -, hz⟩ := List.mem_flatMap.1 hw
    exact dst_key_lt (names_lt hop) hz

end

/-! ### PGREQ -/

/-- The fresh walks of a PGREQ (02 R63). -/
def Ix.pgWalk (x : Ix) (f : FmtM) : List LaneX × State :=
  x.s.xlateWalks x.cur.core x.t.id.lci (isPodM f) (pgKind f.ch) ((lanesOf x.active).map fun l => (l, (x.ea f l).toNat))

/-- A lane of a PGREQ waits unless its page is in this module. -/
def LaneX.waits (z : LaneX) : Bool := match z.out with | .here _ _ => false | _ => true

/-- A lane's page is not resident, and the queue for its request is off (02 R67). -/
def LaneX.unasked (z : LaneX) (y : Ix) : Bool :=
  match z.out with
  | .nonres kind a _ => !(y.s.prqOf (y.s.pageVf y.t.id.lci kind a) (if kind = 0 then 0 else 1)).enabled
  | _ => false

/-- The lanes of a PGREQ that wait. -/
def Ix.pgWaits (x : Ix) (f : FmtM) : List LaneX := (x.pgWalk f).1.filter LaneX.waits

/-- The context that the issue of a PGREQ steps: its walks are done, and its number is taken. -/
def Ix.pgIssuing (x : Ix) (f : FmtM) : Ix := { x with s := (x.pgWalk f).2.fresh.2 }

/-- The state in which a PGREQ is recorded: the lanes on resident pages have their answer, the others wait. -/
def Ix.pgIssued (x : Ix) (f : FmtM) : State :=
  let y := x.pgIssuing f
  let now := (lanesOf x.active).filter fun l => !((x.pgWaits f).any fun z => z.lane == l)
  y.put ((y.advance ((y.g.write (now.flatMap fun l => y.dst l f.dst 0) (y.cover f.sched none) y.cur.first).bump
    (setCtr f.sched))).awaitReply (maskOf ((x.pgWaits f).map LaneX.lane)) fun l =>
      .page x.cur.pc.toNat (x.ea f l).toNat f.dst none)

/-- The record that counts the lanes of a PGREQ still to be answered. -/
def Ix.pgRec (x : Ix) (f : FmtM) : Access :=
  { id := (x.pgWalk f).2.fresh.1, team := x.t.id, group := x.cur.group, pc := x.cur.pc, ctr := setCtr f.sched,
    dst := .store .zero, active := x.active, sync := false, isSc := false, isLoad := false, isStore := false, scope := .team,
    answers := [], open_ := (x.pgWaits f).map LaneX.lane, effect := 0, followed := false }

/-- The request for the page of a lane that waits: at the chip's or the home's queue, or to another module (02 R67, R70). -/
def Ix.pgAsk (x : Ix) (f : FmtM) (u : State) (z : LaneX) : State :=
  match z.out with
  | .nonres kind a lv =>
    (match u.requestPage (dieOf x.cur.core) (u.pageVf x.t.id.lci kind a) kind a z.ea lv (pageAcc (pgKind f.ch) false) x.t.pchip
        (.lane x.t.id x.cur.group z.lane) with
     | some r => r.1.failWaiters r.2
     | none => u)
  | .remote _ pod =>
    let r := u.askFar (dieOf x.cur.core) x.t.id.lci pod (pageAcc (pgKind f.ch) false) (.lane x.t.id x.cur.group z.lane)
    if r.2 then r.1 else r.1.pageDone x.t.id x.cur.group z.lane pgLost pod
  | _ => u

/-- Its issue answers the lanes that do not wait with 0. -/
theorem pgIssued_ends {x : Ix} {f : FmtM} (hn : ∀ n ∈ x.t.desc.regsOf f.dst, n < 256) :
    let m := maskOf ((x.pgWaits f).map LaneX.lane)
    EndsWith { x.pgIssuing f with g := x.g.keepLanes m } f.sched [] (x.wr (x.active &&& ~~~m) f.dst fun _ => 0)
      (fun l => if m.getLsbD l then
          { x.stepped l with st := .waiting, wait := some (.page x.cur.pc.toNat (x.ea f l).toNat f.dst none) }
        else x.stepped l) (x.pgIssued f) := by
  intro m
  have hw := writes_dst (x := x.pgIssuing f) (o := f.dst) hn (x.active &&& ~~~m) fun _ => 0
  rw [← filter_lanesOf_any] at hw
  exact (wrote_write (x.pgIssuing f) hw _ _).awaitReply_ends f.sched m _

/-- No lane asks at a queue that is off. -/
theorem unasked_failTrap {y : Ix} {ls : List LaneX} (hq : ∀ z ∈ ls, z.unasked y = false) (cause : Nat) (addr : Nat → Nat) :
    y.failTrap cause (fun l => ls.any fun z => z.lane == l && z.unasked y) addr = none :=
  failTrap_none y cause (fun l => List.any_eq_false.2 fun z hz => by simp [hq z hz]) addr

/-- PGREQ past its checks records its lanes and asks for the pages of those that wait. -/
theorem exec_pgreq {f : FmtM} {s : State} {x : Ix} (h : Latched s f.sched x) (ha : x.active ≠ 0)
    (hop : x.operandTrap (x.own (x.t.desc.regsOf f.sa)) (x.t.desc.regsOf f.dst) = none) (hr : x.rangeTrap f 1 = none)
    (hf : failedTrap (x.pgWalk f).1 = none)
    (hq : ∀ z ∈ (x.pgWalk f).1, z.unasked { x with s := (x.pgWalk f).2 } = false) :
    exec (.pgreq f) s = .next ((x.pgWaits f).foldl (x.pgAsk f) ((x.pgIssued f).addAccess (x.pgRec f))) := by
  have hy : x.withState (x.pgWalk f).2 = { x with s := (x.pgWalk f).2 } := withState_of_teams h (State.xlateWalks_teams ..)
  have htrap : firstTrap [failedTrap (x.pgWalk f).1, Ix.failTrap { x with s := (x.pgWalk f).2 } Cause.invalidPage
      (fun l => (x.pgWalk f).1.any fun z => z.lane == l && z.unasked { x with s := (x.pgWalk f).2 })
      fun l => (x.ea f l).toNat] = none := by
    rw [hf, unasked_failTrap hq]
    rfl
  unfold Ix.pgWalk at hy
  change execPgreq f s = _
  rw [execPgreq, issue_latched h, onMem_runs hop ha]
  simp only [hr, hy]
  split
  next tr htr => cases htr.symm.trans htrap
  next => rfl

/-- Settles O35: PGPROBE finishes with its lanes' outcomes, and PGREQ records its lanes and asks for their pages. -/
theorem pageInstructions : Obligations.PageInstructions := by
  unfold Obligations.PageInstructions
  intro f s x h ha hop at_ probe walk y waits waiting ask
  have hy : y = { x with s := walk.2 } := withState_of_teams h (State.xlateWalks_teams ..)
  refine ⟨fun hr => pgprobe_ends h ha hop hr rfl, fun hr hf hq => ?_⟩
  clear_value y
  subst hy
  have hask : ∀ z ∈ (x.pgWalk f).1, z.unasked { x with s := (x.pgWalk f).2 } = false := fun z hz => by
    unfold LaneX.unasked
    split
    next kind a lv hout => exact congrArg not (hq z hz kind a lv hout)
    next => rfl
  exact ⟨x.pgIssued f, pgIssued_ends (names_lt hop), exec_pgreq h ha hop hr hf hask⟩

end Sys2Proof.Machine
end

section
/-! SUPPORT. The cache maintenance instructions (10 R295 to R299, 04 R132, R133): what each comes to past its checks, and statement
O36. -/

namespace Sys2Proof.Machine

/-! ### Lines that the active lanes name -/

/-- PREFETCH past its checks brings its lanes' lines in and ends; a lane that fails its translation brings none (10 R295). -/
theorem exec_prefetch {f : FmtM} {s : State} {x : Ix} {r : List LaneX × State} (h : Latched s f.sched x) (ha : x.active ≠ 0)
    (hop : x.operandTrap (x.own (x.t.desc.regsOf f.sa)) [] = none) (hr : x.rangeTrap f 1 = none)
    (hx : x.s.xlateLanes x.cur.core x.t.id.lci (isPodM f) .read ((lanesOf x.active).map fun l => (l, (x.ea f l).toNat)) = r) :
    exec (.prefetch f) s =
      .next ((x.withState (r.1.foldl (fun u z => x.prefetchLane f u z) r.2)).finish f.sched none []) := by
  change execPrefetch f s = _
  rw [execPrefetch, issue_latched h, onMem_runs hop ha]
  simp only [hr, hx]

/-- What an access of CFLUSH or CINVAL does to a line: the core's copy is written back and leaves, and in system scope the
shared cache of the line's home does its part (10 R296). -/
def State.maintainLine (s : State) (a : AccInfo) (sc : Scope) (inval : Bool) (k : Home) : State :=
  let w := s.flushKey a.core k false (some a.id) a.group
  let v := w.1.modAccess a.id fun z => { z with effect := max z.effect w.2 }
  if sc == .system then
    (match k with
     | .here lci mpa => v.flushBank lci mpa inval
     | .remote pod => v.askPodHome a.id a.team.lci pod (.maintain pod inval))
  else v

/-- CFLUSH and CINVAL past their checks issue an access, which takes each line once. -/
theorem maintain_issues {f : FmtM} {x : Ix} {r : List LaneX × State} (inval : Bool) (hr : x.rangeTrap f 1 = none)
    (hx : x.s.xlateLanes x.cur.core x.t.id.lci (isPodM f) .read ((lanesOf x.active).map fun l => (l, (x.ea f l).toNat)) = r)
    (hf : failedTrap r.1 = none) :
    x.maintain f inval = (x.withState r.2).issueAccess f { dst := .status .zero 0, isLoad := false, isStore := true, ws := [] }
      false false [] fun u a => ((r.1.filterMap LaneX.line?).eraseDups).foldl (fun u k => u.maintainLine a f.scope inval k) u := by
  rw [Ix.maintain]
  simp only [hr, hx, hf]
  rfl

/-! ### Ranges -/

/-- PVFL of a range that passes its checks issues an access, which ends its team's ownership page by page (10 R298). -/
theorem exec_pvfl {f : FmtM} {s : State} {x v : Ix} {l : List LaneX} (h : Latched s f.sched x) (ha : x.active ≠ 0)
    (hop : x.operandTrap (x.own (x.t.desc.regsOf f.sa ++ x.t.desc.regsOf f.sb)) (x.t.desc.regsOf f.dst) = none)
    (hc : x.rangeCheck f (fun _ => false) = .ok v l) :
    exec (.pvfl f) s = .next (v.issueAccess f
      { dst := .status f.dst (BitVec.ofNat 32 (skippedPages l)), isLoad := false, isStore := true,
        ws := v.accWrites (v.t.desc.regsOf f.dst) .zero } false false []
      fun u a => (l.filterMap (u.pageSpan (x.ea f x.low).toNat (x.rd x.low f.sb))).foldl (fun u p =>
        let w := u.endSpan a.core a.team a.group a.id p
        w.1.modAccess a.id fun z => { z with effect := max z.effect w.2 }) u) := by
  change execPvfl f s = _
  rw [execPvfl, issue_latched h, onMem_runs hop ha]
  simp only [hc]

/-- The part of a range as the record of a WOCLR keeps it, until the last acknowledgement clears it (04 R132). -/
def Span.toClear (p : Span) : Nat × Nat :=
  match p.home with
  | .here lci m => (lci, m * 8192 + p.len)
  | .remote q => (2 ^ 16, q * 8192 + p.len)

/-- WOCLR of a range that passes its checks issues an access, which asks every module of the pod (10 R299). -/
theorem exec_woclr {f : FmtM} {s : State} {x v : Ix} {l : List LaneX} (h : Latched s f.sched x) (ha : x.active ≠ 0)
    (hop : x.operandTrap (x.own (x.t.desc.regsOf f.sa ++ x.t.desc.regsOf f.sb)) (x.t.desc.regsOf f.dst) = none)
    (hc : x.rangeCheck f (fun c => c != .wo) = .ok v l) :
    let spans := l.filterMap (v.s.pageSpan (x.ea f x.low).toNat (x.rd x.low f.sb))
    exec (.woclr f) s = .next (v.issueAccess f
      { dst := .woclr f.dst (skippedPages l) (spans.map Span.toClear), isLoad := false, isStore := true,
        ws := v.accWrites (v.t.desc.regsOf f.dst) .zero } false false []
      fun u a => spans.foldl (fun u p => u.broadcastClear a.id a.team.lci p) u) := by
  change execWoclr f s = _
  rw [execWoclr, issue_latched h, onMem_runs hop ha]
  simp only [hc]
  rfl

/-- Settles O36: PREFETCH finishes once its lines are in, and the others come to the issue of an access. -/
theorem cacheMaintenance : Obligations.CacheMaintenance := by
  unfold Obligations.CacheMaintenance
  intro f s x h ha at_ r y fetched keys clean none_
  refine ⟨fun hop hr => ⟨?_, fun hf => ⟨?_, ?_⟩⟩, fun hop v l => ⟨fun hc => ?_, fun hc => ?_⟩⟩
  · exact ⟨_, exec_prefetch h ha hop hr rfl, finish_ends _ f.sched none writes_nil⟩
  · apply accesses_of_exec
    change execCflush f s = _
    rw [execCflush, issue_latched h, onMem_runs hop ha, maintain_issues false hr rfl hf]
    rfl
  · apply accesses_of_exec
    change execCinval f s = _
    rw [execCinval, issue_latched h, onMem_runs hop ha, maintain_issues true hr rfl hf]
    rfl
  · exact accesses_of_exec (exec_pvfl h ha hop hc)
  · exact accesses_of_exec (exec_woclr h ha hop hc)

end Sys2Proof.Machine
end

section
/-! SUPPORT. QSCALE, QNT and DQNT past their checks (11 R326 to R329), and statement O20. -/

namespace Sys2Proof.Machine

/-- An instruction that replaces its team outside the groups and writes one destination ends so. -/
theorem finish_withTeam_ends {s : State} {sc : Sched} {x : Ix} {t : Team} {o : Opd} (h : Latched s sc x) (ht : t.groups = x.t.groups)
    (hn : ∀ n ∈ x.t.desc.regsOf o, n < 256) (val : Nat → Nat) :
    Ends (x.withTeam t) sc (x.wr x.active o val) x.stepped
      ((x.withTeam t).finish sc none ((lanesOf x.active).flatMap fun l => x.dst l o (val l))) :=
  withTeam_stepped h ht ▸ finish_ends (x.withTeam t) sc none (writes_dst hn x.active val)

section

variable {s : State} {x : Ix} {f : FmtR} (h : Latched s f.sched x)
include h

/-- DQNT past the check of its operands. -/
theorem exec_dqnt
    (hop : x.operandTrap (((x.t.desc.regsOf f.sa).map fun n => (n, dqntLanes f x.cur.issued)) ++ x.own (x.t.desc.regsOf f.sb))
      (x.t.desc.regsOf f.dst) = none) :
    exec (.dqnt f) s = .next (x.finish f.sched none ((lanesOf x.active).flatMap fun l =>
      x.dst l f.dst (roundTo .f32 (blockDecode (f.ty == .q8) (x.rd x.low f.sb % 256) (x.dqntCode f l)) (.rm .rne) false))) := by
  change execDqnt f s = _
  rw [execDqnt, issue_latched h]
  simp only [hop]

variable (ha : x.active ≠ 0)
include ha

/-- QSCALE past the check of its operands: `q` is the encoding of its block. -/
theorem exec_qscale {o : Opds} {q : QEnc} (ho : o = if modBit f.mod 3 then opsR2 f else opsR1 f)
    (hq : q = encodeBlock (f.ty == .q8) (if modBit f.mod 2 then none else some (modField f.mod 0 2)) none
      (if modBit f.mod 3 then some (fdecode .f32 (x.rd x.low f.sb)) else none) ((x.block f.sa).map (fdecode .f32)))
    (hop : x.operandTrap (x.sources o) (x.t.desc.regsOf f.dst) = none) :
    exec (.qscale f) s = .next ((x.withTeam (x.t.raiseFlags false q.invalid)).finish f.sched none
      ((lanesOf x.active).flatMap fun l => x.dst l f.dst q.scale)) := by
  have hact : (x.active != 0) = true := bne_iff_ne.2 ha
  subst ho hq
  change execQscale f s = _
  rw [execQscale, issue_latched h]
  simp only [hop, hact, Bool.and_true]

/-- QNT past its checks: its outlier list, where it has one, is in the allocation and aligned (11 R328). -/
theorem exec_qnt {list : Nat} {q : QDone × Bool}
    (hop : x.operandTrap (x.sources (opsR2 f) ++ x.own (x.t.desc.regsFrom f.sc 2)) (x.t.desc.regsOf f.dst) = none)
    (hl : list = x.regsNat x.low (x.t.desc.regsFrom f.sc 2) % 2 ^ 32)
    (hq : q = qntBlock (f.ty == .q8) (x.rd x.low f.sb % 256) x.t list (x.regsNat x.low (x.t.desc.regsFrom f.sc 2) / 2 ^ 32) (x.block f.sa))
    (hc : list = 0xFFFFFFFF ∨ x.t.listCause list = none) :
    exec (.qnt f) s = .next ((x.withTeam ({ x.t with spad := q.1.spad }.raiseFlags q.1.full q.2)).finish f.sched none
      ((lanesOf x.active).flatMap fun l => x.dst l f.dst (qntWord (f.ty == .q8) (modBit f.mod 4) q.1.codes l))) := by
  have hcause : (if list = 0xFFFFFFFF || x.active = 0 then none else x.t.listCause list) = none := by
    rcases hc with hc | hc
    · exact if_pos (by simp [hc])
    · rw [hc, ite_self]
  subst hl hq
  change execQnt f s = _
  rw [execQnt, issue_latched h]
  simp only [hop, hcause, if_neg ha]

end

/-- Settles O20: each instruction finishes with the writes of its active lanes, under the team that its block leaves. -/
theorem quantisationInstructions : Obligations.QuantisationInstructions := by
  unfold Obligations.QuantisationInstructions
  intro f s x h ha q8 clip ops block scale list q
  refine ⟨fun hop => ?_, fun hop hc => ?_, fun hop => ?_⟩
  · exact ⟨_, exec_qscale h ha rfl rfl hop, finish_withTeam_ends (t := x.t.raiseFlags false scale.invalid)
      h rfl (names_lt hop) fun _ => scale.scale⟩
  · exact ⟨_, exec_qnt h ha hop rfl rfl hc, finish_withTeam_ends (t := { x.t with spad := q.1.spad }.raiseFlags q.1.full q.2)
      h rfl (names_lt hop) (qntWord q8 (modBit f.mod 4) q.1.codes)⟩
  · exact ⟨_, exec_dqnt h hop, finish_ends x f.sched none (writes_dst (names_lt hop) x.active _)⟩

end Sys2Proof.Machine
end

section
/-! SUPPORT. The posting of matrix requests (11 R306, R307, R320): contributions to a phase, tile operations and drains, and
statements O40, O41 and O42. -/

namespace Sys2Proof.Machine

/-! ### Groups that post a request -/

/-- A group under other fragment guards, with more drops of its counters due. -/
def Group.posting (g : Group) (gs : List FragGuard) (d : List Nat) : Group :=
  { g with guards := gs, ord := { g.ord with drops := g.ord.drops ++ d } }

/-- A counter that rises leaves the guards. -/
@[simp] theorem Group.bump_guards (g : Group) (j : Option Nat) : (g.bump j).guards = g.guards := by
  cases j <;> rfl

/-- With no drop due, the guards alone change. -/
theorem Group.posting_nil (g : Group) (gs : List FragGuard) : g.posting gs [] = { g with guards := gs } := by
  simp only [Group.posting, List.append_nil]

/-- A group whose counters' drops are due keeps its guards. -/
theorem Group.due_due (g : Group) (i j : Option Nat) : (g.due i).due j = g.posting g.guards (i.toList ++ j.toList) := by
  cases i <;> cases j <;> simp [Group.due, Group.posting]

/-- An instruction that posts: its lanes step, its counter rises, and no register is written. -/
theorem posting_ends (x : Ix) (sc : Sched) (gs : List FragGuard) (d : List Nat) :
    EndsWith x sc d noWrite x.stepped (x.put (x.advance ((x.g.bump (setCtr sc)).posting gs d))) := by
  have hlane : ∀ l, ((x.g.bump (setCtr sc)).posting gs d).lane l = x.g.lane l := Group.bump_lane x.g (setCtr sc)
  refine ⟨_, rfl, fun l k hl _ => ?_, fun l hl => ⟨(x.g.lane l).preds, ?_⟩, ?_, ?_, ?_⟩
  · rw [advance_key x _ hl]
    exact Group.bump_key x.g (setCtr sc) l k
  · rw [advance_lane x _ hl, hlane, Ix.stepped]
    split <;> rfl
  all_goals
    rw [advance_eq]
    cases setCtr sc <;> rfl

/-- The team that a group is put back into holds that group. -/
theorem group_of_put {x : Ix} {g : Group} {t : Team} (h : (x.put g).team? x.t.id = some t) : t.group x.cur.group = g := by
  have hput : (x.put g).team? x.t.id = (x.s.setTeam (x.t.setGroup x.cur.group g)).team? x.t.id := rfl
  rw [hput, State.team?_setTeam, Team.setGroup_id, if_pos rfl, Option.map_eq_some_iff] at h
  obtain ⟨-, -, rfl⟩ := h
  rw [Team.group_setGroup, if_pos rfl]

/-! ### MMA and MMAQ -/

/-- The DONE field as the SET field of a schedule names the same counter (11 R307). -/
def doneSched (f : FmtR) : Sched := { f.sched with set := BitVec.ofNat 3 (modField f.mod 8 3) }

theorem setCtr_doneSched (f : FmtR) : setCtr (doneSched f) = doneCtr f := by
  have hlt : modField f.mod 8 3 < 8 := Nat.mod_lt _ (by decide)
  have hset : (BitVec.ofNat 3 (modField f.mod 8 3)).toNat = modField f.mod 8 3 := by
    rw [BitVec.toNat_ofNat]
    exact Nat.mod_eq_of_lt hlt
  have heq : (doneSched f).set = 7 ↔ modField f.mod 8 3 = 7 := by
    rw [← BitVec.toNat_inj, doneSched, hset]
    rfl
  simp only [setCtr, doneCtr, heq]
  rw [doneSched, hset]

/-- What MMA or MMAQ leaves in a context whose SET counter has risen: its DONE counter rises too. -/
theorem contributing_ends (x : Ix) (f : FmtR) (gs : List FragGuard) (d : List Nat) :
    EndsWith x (doneSched f) d noWrite x.stepped (x.put (x.advance ((x.g.bump (doneCtr f)).posting gs d))) :=
  setCtr_doneSched f ▸ posting_ends x (doneSched f) gs d

/-- MMA or MMAQ past its checks contributes. -/
theorem exec_mma {f : FmtR} {quant : Bool} {s : State} {x : Ix} (h : Latched s f.sched x) (ht : x.tileTrap f.dst = none)
    (hn : x.nameTrap ((x.t.desc.regsOf f.sa ++ x.t.desc.regsOf f.sb ++ (if quant then x.t.desc.regsFrom f.sc 4 else [])).map
      fun n => (n, 0xFFFFFFFF)) [] = none) :
    exec (if quant then Instr.mmaq f else Instr.mma f) s = .next (x.contribute quant f) := by
  have hexec : exec (if quant then Instr.mmaq f else Instr.mma f) s = mmaIssue quant f s := by cases quant <;> rfl
  rw [hexec, mmaIssue, issue_latched h]
  simp only [ht, hn, firstTrap]

section

variable {x : Ix} {f : FmtR} {quant : Bool} {c : Conv} (hc : x.t.convReg (modField f.mod 0 3) = c)
include hc

/-- A first issue with no signature that counts passes: both counters rise, and both drops are due (11 R307). -/
theorem contribute_unsigned (hfind : (c.contribs.find? fun d => d.group == x.cur.group) = none)
    (hm : x.t.countable c x.cur.group x.active = 0) :
    x.contribute quant f = x.put (x.advance (((x.g.bump (setCtr f.sched)).bump (doneCtr f)).posting x.g.guards
      ((setCtr f.sched).toList ++ (doneCtr f).toList))) := by
  subst hc
  simp only [Ix.contribute, hfind, hm, beq_self_eq_true, Group.due_due, Group.bump_guards]

/-- A first issue that signs makes its group's contribution, under a guard of its registers (11 R307, R310). -/
theorem contribute_new (hfind : (c.contribs.find? fun d => d.group == x.cur.group) = none)
    (hm : x.t.countable c x.cur.group x.active ≠ 0) :
    let d : Contrib := { group := x.cur.group, quant := quant, f := f, pc := x.cur.pc.toNat, guard := x.s.fresh.1,
                         sets := (setCtr f.sched).toList, dones := (doneCtr f).toList }
    let y : Ix := { x with
      s := x.s.fresh.2
      t := x.t.setConv (modField f.mod 0 3)
        { c.sign x.cur.group (x.t.countable c x.cur.group x.active) with contribs := putContrib c.contribs d } }
    x.contribute quant f = (y.put (y.advance (((x.g.bump (setCtr f.sched)).bump (doneCtr f)).posting
      (x.g.guards ++ [x.mkGuard x.s.fresh.1 true (d.regs x.t.desc)]) []))).evalPhase x.t.id x.cur.core (modField f.mod 0 3) := by
  subst hc
  simp only [Ix.contribute, hfind, beq_eq_false_iff_ne.2 hm, Group.posting_nil, Group.bump_guards]
  rfl

/-- A later issue with the same fields signs too, and its counters join the contribution (11 R307). -/
theorem contribute_join {d : Contrib} (hfind : (c.contribs.find? fun d => d.group == x.cur.group) = some d)
    (hq : d.quant = quant) (hf : sameFields d.f f = true) :
    let y : Ix := { x with
      t := x.t.setConv (modField f.mod 0 3)
        { c.sign x.cur.group (x.t.countable c x.cur.group x.active) with
          contribs := putContrib c.contribs (d.join (setCtr f.sched) (doneCtr f)) } }
    x.contribute quant f = (y.put (y.advance (((x.g.bump (setCtr f.sched)).bump (doneCtr f)).posting x.g.guards []))).evalPhase
      x.t.id x.cur.core (modField f.mod 0 3) := by
  subst hc hq
  have hguards : ((x.g.bump (setCtr f.sched)).bump (doneCtr f)).posting x.g.guards [] =
      (x.g.bump (setCtr f.sched)).bump (doneCtr f) := by
    rw [Group.posting_nil, ← Group.bump_guards x.g (setCtr f.sched), ← Group.bump_guards _ (doneCtr f)]
  have hdiff : (d.quant != d.quant || !sameFields d.f f) = false := by simp [hf]
  simp only [Ix.contribute, hfind, hdiff, hguards]
  rfl

end

/-- Settles O40: a contribution takes one of three branches, each of which leaves the group as `contributing_ends` says. -/
theorem matrixContributions : Obligations.MatrixContributions := by
  unfold Obligations.MatrixContributions
  intro f quant s x h i regs k c m old done raised joins ht hn
  have hexec : exec i s = .next (x.contribute quant f) := exec_mma h ht hn
  have hstep : ∀ (u : State) (t : Team), ({ x with s := u, t := t, g := raised } : Ix).stepped = x.stepped := fun u t =>
    stepped_congr rfl fun l => Group.bump_lane x.g (setCtr f.sched) l
  refine ⟨fun hfind hm => ?_, fun hfind hm => ?_, fun d hfind hq hf => ?_⟩
  · exact ⟨_, by rw [hexec, contribute_unsigned rfl hfind hm]; rfl,
      hstep x.s x.t ▸ contributing_ends { x with g := raised } f x.g.guards _⟩
  · exact ⟨_, hstep _ _ ▸ contributing_ends { x with s := _, t := _, g := raised } f _ [],
      by rw [hexec, contribute_new rfl hfind hm]; rfl⟩
  · exact ⟨_, hstep _ _ ▸ contributing_ends { x with t := _, g := raised } f _ [],
      by rw [hexec, contribute_join rfl hfind hq hf]; rfl⟩

/-! ### Tile operations -/

/-- A tile operation past its checks runs. -/
theorem onTile_runs {x : Ix} {tile : Opd} {srcs : List (Nat × Mask)} {dsts : List Nat} (ha : x.active ≠ 0)
    (ht : x.tileTrap tile = none) (hn : x.nameTrap srcs dsts = none) (f : FmtR) (k : Unit → State) :
    x.onTile f tile srcs dsts k = k () := by
  simp only [Ix.onTile, ht, hn, firstTrap, if_neg ha]

/-- The guards of a group that posts an operation: one more where the operation reads registers (11 R310). -/
def Ix.opGuards (x : Ix) (strict : Bool) (regs : List Nat) : List FragGuard :=
  if regs = [] then x.g.guards else x.g.guards ++ [x.mkGuard x.s.fresh.1 strict regs]

/-- The group with those guards, as the posting of an operation writes it. -/
theorem Ix.posting_opGuards (x : Ix) (j : Option Nat) (strict : Bool) (regs : List Nat) :
    (x.g.bump j).posting (x.opGuards strict regs) [] =
      if regs.isEmpty then x.g.bump j
      else { x.g.bump j with guards := (x.g.bump j).guards ++ [x.mkGuard x.s.fresh.1 strict regs] } := by
  rw [Group.posting_nil, Ix.opGuards]
  cases regs with
  | nil =>
    rw [if_pos rfl, ← Group.bump_guards x.g j]
    rfl
  | cons n r =>
    rw [if_neg (List.cons_ne_nil n r), ← Group.bump_guards x.g j]
    rfl

/-- An instruction whose meaning is the posting of a tile operation. -/
theorem postsOp_of_exec {i : Instr} {s : State} {x : Ix} {f : FmtR} {op : TileOp} {strict : Bool} {regs : List Nat}
    (hfull : x.tableFull = false) (h : exec i s = .next (x.postOp f op strict regs)) : PostsOp i s x f op strict regs := by
  set y : Ix := { x with s := x.s.fresh.2 }
  refine ⟨y.put (y.advance ((x.g.bump (setCtr f.sched)).posting (x.opGuards strict regs) [])),
    posting_ends y f.sched _ [], fun t ht => ?_, ?_⟩
  · rw [group_of_put (x := y) ht, advance_eq]
    rfl
  · rw [h, Ix.postOp, hfull, Ix.posting_opGuards]
    rfl

/-- An instruction whose meaning is the posting of a tile operation that ends as an access. -/
theorem postsAcc_of_exec {i : Instr} {s : State} {x : Ix} {f : FmtR} {op : TileOp} {dst : AccDst} {isLoad isStore sc : Bool}
    {scope : Scope} {ws : List Wr} {ans : List LaneAns} (hfull : x.tableFull = false)
    (h : exec i s = .next (x.postAcc f op dst isLoad isStore sc scope ws ans)) :
    PostsAcc i s x f op dst isLoad isStore sc scope ans := by
  set hs : List Hold := if sc then [Hold.answer x.s.fresh.2.fresh.1] else [] with hhs
  set y : Ix := { x with s := x.s.fresh.2.fresh.2, g := x.g.addHolds hs }
  refine ⟨_, reserve_ends y f.sched ws (y.cover f.sched none) x.s.fresh.2.fresh.1 y.cur.first, ?_⟩
  have hgroup : (y.g.reserve ws (y.cover f.sched none) x.s.fresh.2.fresh.1 y.cur.first).bump (setCtr f.sched) =
      ((x.g.reserve ws (x.cover f.sched none) x.s.fresh.2.fresh.1 x.cur.first).bump (setCtr f.sched)).addHolds hs := by
    cases setCtr f.sched <;> rfl
  rw [h, Ix.postAcc, hfull, hgroup]
  cases sc with
  | true => rfl
  | false =>
    rw [hhs]
    simp only [Group.addHolds, Bool.false_eq_true, ↓reduceIte, List.append_nil]
    rfl

/-- Generators that step take no entry of the table. -/
@[simp] theorem srStepped_tableFull (x : Ix) (f : FmtR) (lanes : List Nat) (n : Nat) :
    (x.srStepped f lanes n).tableFull = x.tableFull := by
  unfold Ix.srStepped
  split <;> rfl

section

variable {s : State} {x : Ix} {f : FmtR} (h : Latched s f.sched x) (ha : x.active ≠ 0)
include h ha

/-- MZERO past its checks. -/
theorem exec_mzero (ht : x.tileTrap f.dst = none) (hn : x.nameTrap [] [] = none) :
    exec (.mzero f) s = .next (x.postOp f (.mzero (x.t.desc.tileOf f.dst)) false []) := by
  change execMzero f s = _
  rw [execMzero, issue_latched h, onTile_runs ha ht hn]

/-- MWRA past its checks. -/
theorem exec_mwra (ht : x.tileTrap f.dst = none) (hn : x.nameTrap (x.own (x.t.desc.regsOf f.sa)) [] = none) :
    exec (.mwra f) s = .next (x.postOp f (.mwra (x.t.desc.tileOf f.dst) ((x.t.desc.regsOf f.sa).headD 0) f x.active) false
      (x.t.desc.regsOf f.sa)) := by
  change execMwra f s = _
  rw [execMwra, issue_latched h, onTile_runs ha ht hn]

/-- MLDA of rows that pass their checks (11 R321). -/
theorem exec_mlda {ofs pitch : Nat} {rows : List (Nat × Nat)} (hofs : ofs = x.rd x.low f.sa) (hpitch : pitch = x.rd x.low f.sb)
    (hrows : rows = (List.range 64).map fun k => (ofs + k * pitch, 64 * elBytes f.ty)) (ht : x.tileTrap f.dst = none)
    (hn : x.nameTrap (x.own (x.t.desc.regsOf f.sa ++ x.t.desc.regsOf f.sb)) [] = none) (hout : x.t.runOut rows = none)
    (ho : ofs % 16 = 0) (hp : pitch % 16 = 0) (hle : 64 * elBytes f.ty ≤ pitch) (hcause : x.t.runCause false rows = none) :
    exec (.mlda f) s = .next (x.postOp f (.mlda (x.t.desc.tileOf f.dst) f.ty ofs pitch) false []) := by
  have hpb : ¬ ((decide (pitch % 16 ≠ 0) || decide (pitch < 64 * elBytes f.ty)) = true) := by simp [hp, hle]
  subst hrows hofs hpitch
  change execMlda f s = _
  rw [execMlda, issue_latched h, onTile_runs ha ht hn]
  simp only [hout, if_neg (not_not.2 ho), if_neg hpb, hcause]

/-- MXOUT of entries that pass their checks (11 R322). -/
theorem exec_mxout {par : Nat → Nat} {entries : List (Nat × Nat)}
    (hpar : par = fun k => x.reg x.low ((x.t.desc.regsFrom f.sb 4).getD k 0))
    (hents : entries = (List.range (par 2)).map fun j => (par 0 + 8 + 8 * (par 1 + j), 8)) (ht : x.tileTrap f.dst = none)
    (hn : x.nameTrap (((mxoutRegs x.t.desc f).map fun n => (n, 0xFFFFFFFF)) ++ x.own (x.t.desc.regsFrom f.sb 4)) [] = none)
    (hlist : x.t.listCause (par 0) = none) (hpos : 0 < par 2) (hle : par 2 ≤ 64) (hout : x.t.runOut entries = none)
    (hcause : x.t.runCause false entries = none) :
    exec (.mxout f) s = .next (x.postOp f (.mxout (x.t.desc.tileOf f.dst) ((x.t.desc.regsOf f.sa).headD 0) f (par 0) (par 1) (par 2)
      (par 3 % 65536) (par 3 / 65536)) true (mxoutRegs x.t.desc f)) := by
  subst hents hpar
  change execMxout f s = _
  rw [execMxout, issue_latched h, onTile_runs ha ht hn]
  simp only [hlist, if_neg (Nat.not_lt.2 hle), if_neg hpos.ne', hout, hcause]

/-- MRDA past its checks: its lanes' generators step at once (07 R219). -/
theorem exec_mrda (hfull : x.tableFull = false) (ht : x.tileTrap f.sa = none) (hn : x.nameTrap [] (x.t.desc.regsOf f.dst) = none) :
    exec (.mrda f) s = .next ((x.srStepped f (lanesOf x.active) (2 * (64 / elBytes f.ty))).postAcc f
      (.mrda (x.t.desc.tileOf f.sa) ((x.t.desc.regsOf f.dst).headD 0) f x.active (x.srSeeds (lanesOf x.active))) (.store .zero)
      true false false .device (x.accWrites (x.t.desc.regsOf f.dst) .zero) []) := by
  change execMrda f s = _
  rw [execMrda, issue_latched h, onTile_runs ha ht hn]
  simp only [hfull]
  rfl

end

/-- Settles O41: past its checks each operation comes to `postOp`, and MRDA to `postAcc`. -/
theorem tileOperationsPost : Obligations.TileOperationsPost := by
  unfold Obligations.TileOperationsPost
  intro f s x h ha hfull d ofs pitch n rows par entries
  refine ⟨fun ht => ⟨fun hn => ?_, fun hn hout ho hp hle hc => ?_, fun hn => ?_, fun hn hl hpos hle hout hc => ?_⟩,
    fun ht hn => ?_⟩
  · exact postsOp_of_exec hfull (exec_mzero h ha ht hn)
  · exact postsOp_of_exec hfull (exec_mlda h ha rfl rfl rfl ht hn hout ho hp hle hc)
  · exact postsOp_of_exec hfull (exec_mwra h ha ht hn)
  · exact postsOp_of_exec hfull (exec_mxout h ha rfl rfl ht hn hl hpos hle hout hc)
  · exact postsAcc_of_exec ((srStepped_tableFull x f _ _).trans hfull) (exec_mrda h ha hfull ht hn)

/-! ### Drains -/

/-- The first run of a drain that leaves its destination: the 2^57 bytes of an address space, or the own allocation (11 R325). -/
def Ix.drainOutside (x : Ix) (gl : Bool) (runs : List (Nat × Nat)) : Option Nat :=
  if gl then (runs.find? fun r => decide (2 ^ 57 < r.1 + r.2)).map (·.1) else x.t.runOut runs

/-- Runs that stay in it. -/
theorem drainOutside_none {x : Ix} {gl : Bool} {runs : List (Nat × Nat)} (hgl : gl = true → ∀ r ∈ runs, r.1 + r.2 ≤ 2 ^ 57)
    (hown : gl = false → x.t.runOut runs = none) : x.drainOutside gl runs = none := by
  cases gl with
  | false => exact hown rfl
  | true =>
    have hfind : (runs.find? fun r => decide (2 ^ 57 < r.1 + r.2)) = none :=
      List.find?_eq_none.2 fun r hr => by simpa using hgl rfl r hr
    rw [Ix.drainOutside, if_pos rfl, hfind]
    rfl

/-- MDRAIN or MDRAIN.tq whose destination has been reached: it posts, and its lane's generator steps at once (07 R219, 11 R324). -/
theorem exec_mdrain {f : FmtR} {tq sc void : Bool} {s : State} {x y : Ix} {pages : List (Nat × Tlb)} {pars : List Nat} {par : Nat → Nat}
    {runs : List (Nat × Nat)} (h : Latched s f.sched x) (ha : x.active ≠ 0) (hfull : y.tableFull = false)
    (hpars : pars = x.t.desc.regsFrom f.sb (if tq then 8 else 1)) (hpar : par = fun k => x.reg x.low (pars.getD k 0))
    (hruns : runs = drainRuns f tq (x.rd x.low f.sa) par) (ht : x.tileTrap f.sc = none)
    (hn : x.nameTrap (x.own (x.t.desc.regsOf f.sa ++ pars)) [] = none) (hout : x.drainOutside (modBit f.mod 0) runs = none)
    (hodd : drainOdd f tq (x.rd x.low f.sa) par = none) (hlist : tq = true → modBit f.mod 6 = true → x.t.listCause (par 4) = none)
    (hreach : x.drainReach (modBit f.mod 0) runs = .ok y sc void pages) (hsc : sc = true → y.awaitSc .device = none) :
    exec (if tq then .mdrainTq f else .mdrain f) s = .next ((y.srStepped f [x.low] 4096).postAcc f
      (.mdrain (y.t.desc.tileOf f.sc) tq f (x.rd x.low f.sa) (pars.map fun n => BitVec.ofNat 32 (x.reg x.low n))
        (y.g.lane x.low).seed pages)
      (.drain f.dst) false true sc (if modBit f.mod 0 then .device else .team) (y.accWrites [] f.dst)
      (if void then [{ lane := x.low, data := [], valid := false, cause := none, member := none }] else [])) := by
  have hexec : exec (if tq then .mdrainTq f else .mdrain f) s = mdrainIssue tq f s := by cases tq <;> rfl
  have hcause : (if tq && modBit f.mod 6 then x.t.listCause (par 4) else none) = none :=
    ite_eq_right_iff.2 fun hb => hlist (Bool.and_eq_true_iff.1 hb).1 (Bool.and_eq_true_iff.1 hb).2
  have hwait : (if sc then y.awaitSc .device else none) = none := ite_eq_right_iff.2 hsc
  rw [Ix.drainOutside] at hout
  subst hruns hpar hpars
  rw [hexec, mdrainIssue, issue_latched h, onTile_runs ha ht hn]
  simp only [hout, hodd, hcause, hreach, hwait, hfull]
  rfl

/-- Settles O42: past its checks a drain comes to `postAcc`, in the context that its translations leave. -/
theorem drainsPost : Obligations.DrainsPost := by
  unfold Obligations.DrainsPost
  intro f tq s x y sc void pages h ha hfull gl pars par base runs ht hn hgl hown hodd hlist hreach hsc
  exact postsAcc_of_exec ((srStepped_tableFull y f _ _).trans hfull)
    (exec_mdrain h ha hfull rfl rfl rfl ht hn (drainOutside_none hgl hown) hodd hlist hreach hsc)

end Sys2Proof.Machine
end

section
/-! SUPPORT. The events of the matrix engine (11 R308, R309, R324): a grant, the application of a request's passes, the end of a
drain to the own scratchpad, and statement O43. -/

namespace Sys2Proof.Machine

/-! ### What passes leave of a team -/

/-- A pass changes its tile and no name of its team. -/
@[simp] theorem Team.applyPass_id (t : Team) (c : Contrib) (fr : SMap Word × SMap Bool) : (t.applyPass c fr).id = t.id := rfl

/-- The team after passes, in their order, with the DONE counters of each due (11 R307, R309). -/
def Team.passesDone (t : Team) (passes : List Contrib) (frags : List (SMap Word × SMap Bool)) : Team :=
  passes.foldl (fun (t : Team) c => t.modGroup c.group fun g => c.dones.foldl (fun g j => g.due (some j)) g)
    ((passes.zip frags).foldl (fun t p => t.applyPass p.1 p.2) t)

/-- Passes keep their team's name. -/
theorem Team.passesDone_id (t : Team) (passes : List Contrib) (frags : List (SMap Word × SMap Bool)) :
    (t.passesDone passes frags).id = t.id := by
  have hpass : ((passes.zip frags).foldl (fun t p => t.applyPass p.1 p.2) t).id = t.id :=
    List.foldlRecOn (motive := fun u : Team => u.id = t.id) _ _ rfl fun u hu p _ => (Team.applyPass_id u p.1 p.2).trans hu
  exact List.foldlRecOn (motive := fun u : Team => u.id = t.id) passes _ hpass fun _ hu _ _ => hu

/-- Counting events changes the counter banks alone (17 R453). -/
theorem State.count_eq_modMod (s : State) (die lci select n : Nat) : ∃ f, s.count die lci select n = s.modMod f := by
  unfold State.count
  split
  · exact ⟨id, rfl⟩
  · exact ⟨_, rfl⟩

/-- The cluster that has been changed. -/
theorem State.cluster_modCluster_same (s : State) (n : Nat) (f : Cluster → Cluster) :
    (s.modCluster n f).cluster n = f (s.cluster n) := by
  rw [State.cluster_modCluster, if_pos rfl]

/-! ### The events -/

/-- What a request reads at its grant: each pass's operands in order, then its operation's (11 R309, R310). -/
def Team.readRequest (t : Team) (free : Nat) (r : MxReq) : Team × List (SMap Word × SMap Bool) :=
  let p := r.passes.foldl (fun (a : Team × List (SMap Word × SMap Bool)) d =>
    let x := a.1.readPass free d
    (x.1, a.2 ++ [x.2])) (t, [])
  match r.op with
  | some o => let x := p.1.readOp free r o; (x.1, p.2 ++ [x.2])
  | none => p

/-- An engine that has granted a request with what it has read: the request has left the table. -/
def Cluster.grant (c : Cluster) (r : MxReq) (frags : List (SMap Word × SMap Bool)) : Cluster :=
  { c with
    granted := some { r with frags := frags }
    table := c.table.filter fun q => q.id != r.id
    grants := c.grants + r.passes.length + (if r.op.isSome then 1 else 0) }

/-- An idle engine grants the arbiter's pick (11 R309). -/
theorem exec_matrixGrant {k : Nat} {s : State} {r : MxReq} {t : Team} (hg : (s.cluster k).granted = none)
    (hp : s.pickReq (s.cluster k) = some r) (ht : s.team? r.team = some t) :
    exec (.matrixGrant k) s = .next ((s.setTeam (t.readRequest s.free r).1).modCluster k fun c =>
      c.grant r (t.readRequest s.free r).2) := by
  have hidle : ¬ (s.cluster k).granted.isSome = true := by simp [hg]
  change execMatrixGrant k s = _
  rw [execMatrixGrant]
  dsimp only
  rw [if_neg hidle, hp]
  dsimp only
  rw [ht]
  rfl

/-- No request with the granted one's number waits in the table. -/
theorem ne_of_mem_grant_table {c : Cluster} {r q : MxReq} {frags : List (SMap Word × SMap Bool)}
    (hq : q ∈ (c.grant r frags).table) : q.id ≠ r.id :=
  bne_iff_ne.1 (List.mem_filter.1 hq).2

/-- The state whose engine has applied its request and waits for a grant. -/
def State.engineFreed (s : State) (k : Nat) : State := s.modCluster k fun c => { c with granted := none }.refill

@[simp] theorem State.team?_engineFreed (s : State) (k : Nat) (id : TeamId) : (s.engineFreed k).team? id = s.team? id := rfl

@[simp] theorem State.granted_engineFreed (s : State) (k : Nat) : ((s.engineFreed k).cluster k).granted = none := by
  rw [State.engineFreed, State.cluster_modCluster_same]
  rfl

/-- The application of a request of passes: its team has done them, and the engine waits for a grant (11 R308, R309). -/
theorem exec_matrixRequestApplied {k : Nat} {s : State} {r : MxReq} {t : Team} (hg : (s.cluster k).granted = some r)
    (ht : s.team? r.team = some t) (hop : r.op = none) :
    exec (.matrixRequestApplied k) s = .next
      (((s.engineFreed k).setTeam (t.passesDone r.passes r.frags)).count (k / 32) r.team.lci 4 r.passes.length) := by
  have hteam : (s.engineFreed k).team? r.team = some t := ht
  rw [State.engineFreed] at hteam
  change execMatrixRequestApplied k s = _
  rw [execMatrixRequestApplied, hg]
  dsimp only
  rw [hteam, hop]
  rfl

/-- The writes of a drain to the own scratchpad are performed, and its part of its access ends (11 R324, R325). -/
theorem exec_mdrainWritesDone {k c : Nat} {s : State} {d : Drain} {t : Team}
    (hd : s.clusters.findSome? (fun c => (c.2.drains.find? fun d => d.id == k).map fun d => (c.1, d)) = some (c, d))
    (hl : d.isGlobal = false) (ht : s.team? d.team = some t) :
    exec (.mdrainWritesDone k) s = .next ((((s.modCluster c fun c => { c with drains := c.drains.filter fun e => e.id != d.id }).setTeam
        (t.drainIn d.writes).1).modAccess d.acc fun a => { a with
          answers := if (t.drainIn d.writes).2.isSome then
              a.answers ++ [{ lane := 0, data := [], valid := false, cause := (t.drainIn d.writes).2, member := none }]
            else a.answers }).endPart d.acc d.id) := by
  have hteam : (s.modCluster c fun c => { c with drains := c.drains.filter fun e => e.id != d.id }).team? d.team = some t := ht
  change execMdrainWritesDone k s = _
  rw [execMdrainWritesDone, hd]
  simp only [hl, Bool.false_and, Bool.false_eq_true, ↓reduceIte, hteam]

/-- Settles O43: each event under its condition. -/
theorem matrixEvents : Obligations.MatrixEvents := by
  unfold Obligations.MatrixEvents
  intro k s r t
  refine ⟨fun hg hp ht => ?_, fun hg ht hop => ?_, fun c d hd hl ht => exec_mdrainWritesDone hd hl ht⟩
  · refine ⟨_, exec_matrixGrant hg hp ht, by rw [State.cluster_modCluster_same]; rfl, fun q hq => ?_, rfl, rfl⟩
    rw [State.cluster_modCluster_same] at hq
    exact ne_of_mem_grant_table hq
  · have hid : (t.passesDone r.passes r.frags).id = r.team := (t.passesDone_id _ _).trans (State.team?_id ht)
    have hteam : ((s.engineFreed k).setTeam (t.passesDone r.passes r.frags)).team? r.team = some (t.passesDone r.passes r.frags) := by
      rw [State.team?_setTeam, hid, if_pos rfl, State.team?_engineFreed, ht]
      rfl
    obtain ⟨f, hcount⟩ := State.count_eq_modMod ((s.engineFreed k).setTeam (t.passesDone r.passes r.frags)) (k / 32) r.team.lci 4
      r.passes.length
    have hexec := exec_matrixRequestApplied hg ht hop
    rw [hcount] at hexec
    exact ⟨_, hexec, s.granted_engineFreed k, rfl, hteam⟩

end Sys2Proof.Machine
end

section
/-! SUPPORT. STM and LDX past their checks (12 R356, R357): the set they name, their addresses after stage 1 and at each member, and
statement O37. -/

namespace Sys2Proof.Machine

/-! ### Lanes after stage 1 and at the members -/

/-- The members of the multicast set `n` of the issuing team's chip. -/
def Ix.multicastSet (x : Ix) (n : Nat) : List Nat :=
  match x.s.chip? x.t.id.lci with
  | some c => c.multicast n
  | none => []

/-- The active lanes with the outcome of stage 1, after their fresh walks. -/
def Ix.stagedLanes (x : Ix) (f : FmtM) (k : AccKind) : List LaneX :=
  (lanesOf x.active).map fun l =>
    { lane := l, ea := (x.ea f l).toNat, out := (x.freshWalks f k).s.stageOne (dieOf x.cur.core) x.t.id.lci (x.ea f l).toNat k }

/-- Each member of the set with its place, and the lanes at that member. -/
def Ix.lanesAtMembers (x : Ix) (f : FmtM) (k : AccKind) (n : Nat) : List (Nat × Nat × List LaneX) :=
  (x.multicastSet n).zipIdx.map fun p => (p.2, p.1, (x.stagedLanes f k).map ((x.freshWalks f k).atMember k p.1))

/-- The checks and waits of a multicast access that runs, in the order in which the model makes them. -/
structure MultiReady (x : Ix) (f : FmtM) (bytes n : Nat) (k : AccKind) : Prop where
  ord : x.awaitOrd f.ord f.scope (f.ord != .weak) = none
  set : x.multicastSet n ≠ []
  range : x.rangeTrap f bytes = none
  stage : failedTrap (x.stagedLanes f k) = none
  stageCls : classTrap (x.stagedLanes f k) (fun c => c == .pv) = none
  memberCls : classTrap ((x.lanesAtMembers f k n).flatMap fun p => p.2.2) (fun c => c == .pv) = none
  foot : (x.freshWalks f k).footTrap (k == .write) bytes (fun l => (x.ea f l).toNat) = none
  sc : anySc (x.stagedLanes f k) = true → (x.freshWalks f k).awaitSc f.scope = none

/-- The state after the fresh walks of the active lanes' addresses (02 R63). -/
def Ix.walked (x : Ix) (f : FmtM) (k : AccKind) : State :=
  (lanesOf x.active).foldl (fun s l => (s.walkCore x.cur.core x.t.id.lci false (x.ea f l).toNat k).2) x.s

theorem Ix.walked_free (x : Ix) (f : FmtM) (k : AccKind) : (x.walked f k).free = x.s.free :=
  List.foldlRecOn (motive := fun u : State => u.free = x.s.free) (lanesOf x.active) _ rfl fun _ hu _ _ => hu

theorem Ix.walked_teams (x : Ix) (f : FmtM) (k : AccKind) : (x.walked f k).teams = x.s.teams :=
  foldl_teams id (lanesOf x.active) (fun s l => s.walkCore_teams x.cur.core x.t.id.lci false (x.ea f l).toNat k) x.s

/-- Fresh walks change the state of their context alone. -/
theorem freshWalks_eq {s : State} {sc : Sched} {x : Ix} (h : Latched s sc x) (f : FmtM) (k : AccKind) :
    x.freshWalks f k = { x with s := x.walked f k } := withState_of_teams h (x.walked_teams f k)

/-- What a lane reads looks at the count of free values alone of what lies outside its team. -/
theorem rd_congr_free {x : Ix} {u : State} (hu : u.free = x.s.free) (l : Nat) (o : Opd) : { x with s := u }.rd l o = x.rd l o := by
  have hregs : ∀ r, { x with s := u }.regsNat l r = x.regsNat l r := fun r => by
    induction r with
    | nil => rfl
    | cons n r ih => simp only [Ix.regsNat, ih, Ix.reg, hu]
  cases o with
  | v n => exact hregs _
  | d n => exact hregs _
  | p n => simp only [Ix.rd, hu]
  | t n => rfl
  | a n => rfl
  | zero => rfl
  | c n => rfl

/-- A multicast access past its checks is one access with the lines of every member. -/
theorem multi_issues {s : State} {sc : Sched} {x : Ix} (h : Latched s sc x) {f : FmtM} {bytes : Nat} {set : Opd} {kind : TxnKind}
    {k : AccKind} {data : Nat → List Byte} {sp : Nat → AccSpec} (hr : MultiReady x f bytes (x.rd x.low set % 256) k) :
    x.multi f bytes set kind k data sp = (x.freshWalks f k).issueAccess f (sp (x.multicastSet (x.rd x.low set % 256)).length)
      (f.ord != .weak || anySc (x.stagedLanes f k)) (anySc (x.stagedLanes f k))
      ((x.lanesAtMembers f k (x.rd x.low set % 256)).flatMap fun p =>
        (x.freshWalks f k).memberAns p.1 p.2.1 bytes (x.stagedLanes f k) p.2.2)
      fun u a => (x.lanesAtMembers f k (x.rd x.low set % 256)).foldl (fun u p =>
        u.memberLines { a with lease := 0, install := false } p.1 kind (byLine p.2.2 bytes data)) u := by
  obtain ⟨hord, hset, hrange, hstage, hcls, hmem, hfoot, hsc⟩ := hr
  have hwait := ite_eq_right_iff.2 hsc
  have hwalks := freshWalks_eq h f k
  have hea : (x.freshWalks f k).ea f = x.ea f := funext fun l => by
    rw [hwalks, Ix.ea, rd_congr_free (x.walked_free f k)]
    rfl
  have hactive : (x.freshWalks f k).active = x.active := by rw [hwalks]
  have hcur : (x.freshWalks f k).cur = x.cur := by rw [hwalks]
  have hteam : (x.freshWalks f k).t = x.t := by rw [hwalks]
  have hone : (lanesOf x.active).map (fun l => LaneX.mk l (x.ea f l).toNat
      ((x.freshWalks f k).s.stageOne (dieOf x.cur.core) x.t.id.lci (x.ea f l).toNat k)) = x.stagedLanes f k := rfl
  cases hc : x.s.chip? x.t.id.lci with
  | none => exact absurd (by rw [Ix.multicastSet, hc]) hset
  | some c =>
    have hmembers : ∀ n, x.multicastSet n = c.multicast n := fun n => by rw [Ix.multicastSet, hc]
    simp only [Ix.lanesAtMembers, hmembers, Ix.low] at *
    have hempty := List.isEmpty_eq_false_iff.2 hset
    unfold Ix.multi
    rw [hord]
    simp only [hc, hempty, hrange, hea, hactive, hcur, hteam, hone, hstage, hcls, hmem, hfoot, firstTrap, hwait,
      Bool.false_eq_true, if_false]

/-- STM of a set whose checks pass. -/
theorem exec_stm {sz : StSize} {f : FmtM} {s : State} {x : Ix} (h : Latched s f.sched x) (ha : x.active ≠ 0)
    (hop : x.operandTrap (x.own (x.t.desc.regsOf f.sa ++ x.t.desc.stRegs sz f.sb ++ x.t.desc.regsOf f.dst)) (x.t.desc.regsOf f.dst) = none) :
    exec (.stm sz f) s = .next (x.multi f sz.bytes f.dst .store .write (fun l => x.laneData l sz.bytes (x.t.desc.stRegs sz f.sb))
      fun n => { dst := .stm f.dst n, isLoad := false, isStore := true, ws := x.accWrites (x.t.desc.regsOf f.dst) .zero }) := by
  change execStm sz f s = _
  rw [execStm, issue_latched h, onMem_runs hop ha]

/-- LDX of a set whose checks pass. -/
theorem exec_ldx {op : LdxOp} {f : FmtM} {s : State} {x : Ix} (h : Latched s f.sched x) (ha : x.active ≠ 0)
    (hop : x.operandTrap (x.own (x.t.desc.regsOf f.sa ++ x.t.desc.regsOf f.sb)) (x.t.desc.regsOf f.dst) = none) :
    exec (.ldx op f) s = .next (x.multi f 4 f.sb .load .read (fun _ => []) fun n =>
      { dst := .ldx op f.dst (chPred f.ch) n, isLoad := true, isStore := false,
        ws := x.accWrites (x.t.desc.regsOf f.dst) (chPred f.ch) }) := by
  change execLdx op f s = _
  rw [execLdx, issue_latched h, onMem_runs hop ha]

/-- Settles O37: past its checks STM or LDX comes to the one access of `multi_issues`. The fresh walk for each member, and the answer
of a member that has no chip, are the model's log 56. -/
theorem multicastIssues : Obligations.MulticastIssues := by
  unfold Obligations.MulticastIssues
  intro sz op f s x h ha hord mem at_ one per pv runs
  have hmem : mem = x.multicastSet := funext fun n => by
    change (match x.s.chip? x.t.id.lci with | some c => c.multicast n | none => []) = _
    rw [Ix.multicastSet]
  clear_value mem
  subst hmem
  have hruns : ∀ (i : Instr) (bytes : Nat) (set : Opd) (kind : TxnKind) (k : AccKind) (data : Nat → List Byte) (sp : Nat → AccSpec),
      exec i s = .next (x.multi f bytes set kind k data sp) → runs i bytes (x.rd x.low set % 256) kind k data sp := by
    intro i bytes set kind k data sp hi hset hrange hstage hcls hmem hfoot hsc
    rw [multi_issues h ⟨hord, hset, hrange, hstage, hcls, hmem, hfoot, hsc⟩] at hi
    exact accesses_of_exec hi
  refine ⟨fun hop => ?_, fun hop => ?_⟩
  · have hstm := hruns _ _ _ _ _ _ _ (exec_stm h ha hop)
    exact hstm
  · have hldx := hruns _ _ _ _ _ _ _ (exec_ldx (op := op) h ha hop)
    exact hldx

end Sys2Proof.Machine
end

section
/-! SUPPORT. TCOPY, TGATHER and FSEND past their checks (12 R330 to R335, R340, R352): the posted job, and statement O47. -/

namespace Sys2Proof.Machine

/-- An instruction whose implied fence finds nothing to wait for goes on (04 R149). -/
theorem fenced_runs {x : Ix} {sc : Scope} (hb : x.boundary true = none) (hr : x.awaitRel sc = none) (k : Unit → State) :
    x.fenced sc k = k () := by
  simp only [Ix.fenced, hb, hr]

/-- An instruction that posts a job to a channel with room finishes with the promise in DST (12 R334, R335). -/
theorem postsJob_of_exec {i : Instr} {s : State} {x : Ix} {f : FmtX} {p : JobPlan} {far : Bool}
    (hd : ∀ n ∈ x.t.desc.regsOf f.r.dst, n < 256) (hq : x.s.queued (dieOf x.cur.core) (coreChan x.cur.core) < 16)
    (h : exec i s = .next (x.postJob f p far)) : PostsJob i s x f p far := by
  rw [Ix.postJob, if_neg (Nat.not_le.2 hq)] at h
  exact ⟨_, finish_ends { x with s := x.s.fresh.2 } f.r.sched none (writes_dst (x := x) hd x.active _), h⟩

section

variable {f : FmtX} {s : State} {x : Ix} {b : Box} (h : Latched s f.r.sched x) (ha : x.active ≠ 0)
  (hop : x.operandTrap (x.own (x.regsX f)) (x.t.desc.regsOf f.r.dst) = none)
include ha hop

/-- TCOPY and TGATHER with an active lane, whose operands pass their checks and whose record resolves. -/
theorem onBox_runs {span : Bool} (hres : x.resolve f.shape span = .inr b) (k : Box → State) : x.onBox f span k = k b := by
  simp only [Ix.onBox, hop, if_neg ha, hres]

include h

/-- TCOPY past its checks. -/
theorem exec_tcopy {p : JobPlan} {dir : Nat} (hdir : dir = if f.r.mod.getLsbD 0 then 1 else 0)
    (hp : p = { kind := .copy, dir := dir, box := b, rows := b.rowCount, prio := bits f.r.mod.toNat 2 2, arr := f.r.mod.getLsbD 1 })
    (hres : x.resolve f.shape true = .inr b) (hbox : x.boxTrap b b.rowCount (decide (dir = 0)) = none) (hb : x.boundary true = none)
    (hr : x.awaitRel (if x.planFar p then .pod else .device) = none) : exec (.tcopy f) s = .next (x.postJob f p false) := by
  subst hp hdir
  change execTcopy f s = _
  rw [execTcopy, issue_latched h, onBox_runs ha hop hres]
  simp only [hbox, fenced_runs hb hr]

/-- TGATHER past its checks. -/
theorem exec_tgather {p : JobPlan} {dir : Nat} {rows : List Int} (hdir : dir = if f.r.mod.getLsbD 0 then 1 else 0)
    (hrows : rows = x.indices f.r.sb)
    (hp : p = { kind := .gather rows, dir := dir, box := b, rows := rows.length, prio := bits f.r.mod.toNat 2 2, arr := f.r.mod.getLsbD 1 })
    (hres : x.resolve f.shape false = .inr b) (hg : gatherBad b rows = none)
    (hbox : x.boxTrap b rows.length (decide (dir = 0)) = none) (hb : x.boundary true = none)
    (hr : x.awaitRel (if x.planFar p then .pod else .device) = none) : exec (.tgather f) s = .next (x.postJob f p false) := by
  subst hp hdir hrows
  change execTgather f s = _
  rw [execTgather, issue_latched h, onBox_runs ha hop hres]
  simp only [hg, hbox, fenced_runs hb hr]

/-- FSEND past its checks; its fence has pod scope (12 R352, 04 R149). -/
theorem exec_fsend {v fld : Nat} (hv : v = x.rd x.low f.r.sa) (hplace : x.sendPlace v = .inr fld)
    (hres : x.resolve f.shape true = .inr b) (hbox : x.boxTrap b b.rowCount false = none) (hlen : b.rowCount * b.rowBytes ≤ 2 ^ 26)
    (hb : x.boundary true = none) (hr : x.awaitRel .pod = none) :
    exec (.fsend f) s = .next (x.postJob f {
      kind := .send (bits v 12 12) fld (BitVec.ofNat 32 (x.rd x.low f.r.sb)) (f.r.mod.getLsbD 2), dir := 1, box := b,
      rows := b.rowCount, prio := bits f.r.mod.toNat 0 2, arr := false } true) := by
  subst hv
  change execFsend f s = _
  rw [execFsend, issue_latched h]
  simp only [hop, if_neg ha, hplace, hres, hbox, if_neg (Nat.not_lt.2 hlen), fenced_runs hb hr]

end

/-- Settles O47: past its checks and its fence each of the three posts the job of its plan. -/
theorem engineInstructionsPost : Obligations.EngineInstructionsPost := by
  unfold Obligations.EngineInstructionsPost
  intro f s x b h ha hop hq hb dir plan fence rows copy gather v
  have hd := names_lt hop
  refine ⟨fun hres hbox hr => ?_, fun hres hg hbox hr => ?_, fun fld hplace hres hbox hlen hr => ?_⟩
  · exact postsJob_of_exec hd hq (exec_tcopy h ha hop rfl rfl hres hbox hb hr)
  · exact postsJob_of_exec hd hq (exec_tgather h ha hop rfl rfl rfl hres hg hbox hb hr)
  · exact postsJob_of_exec hd hq (exec_fsend h ha hop rfl hplace hres hbox hlen hb hr)

end Sys2Proof.Machine
end

section
/-! SUPPORT. TCHAIN, TSTAT and TCANCEL (12 R343, R346, R347): what each leaves on the channel that SB selects, and statement O48. -/

namespace Sys2Proof.Machine

/-- An instruction that gives every active lane one value finishes. -/
theorem allDst_ends {x : Ix} {o : Opd} (hd : ∀ n ∈ x.t.desc.regsOf o, n < 256) (sc : Sched) (v : Nat) :
    Ends x sc (x.wr x.active o fun _ => v) x.stepped (x.finish sc none (x.allDst o v)) :=
  finish_ends x sc none (writes_dst hd x.active fun _ => v)

section

variable {f : FmtR} {s : State} {x : Ix} {ch : Nat} (h : Latched s f.sched x) (ha : x.active ≠ 0)
  (hop : x.operandTrap (x.own (x.t.desc.regsOf f.sa ++ x.t.desc.regsOf f.sb)) (x.t.desc.regsOf f.dst) = none)
  (hch : x.chanOf f.sb = .inr ch)
include ha hop hch

/-- A channel instruction with an active lane, whose operands pass their checks, acts on the channel that SB selects. -/
theorem onChan_runs (k : Nat → State) : x.onChan f k = k ch := by
  simp only [Ix.onChan, hop, if_neg ha, hch]

include h

/-- TCHAIN past its checks starts the list on an idle walker (12 R343). -/
theorem exec_tchain (hal : x.rd x.low f.sa % 128 = 0) (hb : x.boundary true = none) (hr : x.awaitRel .device = none) :
    let va := x.rd x.low f.sa
    exec (.tchain f) s = .next (if (x.s.channel (dieOf x.cur.core) ch).walk.isSome then x.finish f.sched none (x.allDst f.dst 1)
      else (x.finish f.sched none (x.allDst f.dst 0)).modChannel (dieOf x.cur.core) ch fun c =>
        { c with walk := if va = 0 then none else some va, walkTeam := if va = 0 then none else some x.t.id }) := by
  change execTchain f s = _
  rw [execTchain, issue_latched h, onChan_runs ha hop hch, if_neg (not_not.2 hal), fenced_runs hb hr]

/-- TSTAT reads the channel's word and clears LCAUSE where its bit says so (12 R347). -/
theorem exec_tstat :
    let u := x.finish f.sched none (x.allDst f.dst (x.s.tstat (dieOf x.cur.core) ch x.t.id))
    exec (.tstat f) s =
      .next (if f.mod.getLsbD 0 then u.modChannel (dieOf x.cur.core) ch fun c => { c with lcause := 0 } else u) := by
  change execTstat f s = _
  rw [execTstat, issue_latched h, onChan_runs ha hop hch]

end

/-- The context of an instruction that has taken a number. -/
def Ix.numbered (x : Ix) : Ix := { x with s := x.s.fresh.2 }

/-- Settles O48: each instruction acts on the channel that SB selects. That a head of 0 answers 0 and starts nothing is the model's
log 45, what TCANCEL counts its log 54. -/
theorem channelInstructions : Obligations.ChannelInstructions := by
  unfold Obligations.ChannelInstructions
  intro f s x ch h ha hop hch va die mode sel
  have hd := names_lt hop
  refine ⟨fun hal hb hr => ?_, ⟨_, allDst_ends hd _ _, exec_tstat h ha hop hch⟩, ?_⟩
  · have hexec := exec_tchain h ha hop hch hal hb hr
    cases hw : (x.s.channel die ch).walk.isSome with
    | true => exact ⟨_, allDst_ends hd f.sched 1, hexec.trans (by rw [if_pos hw]; rfl)⟩
    | false => exact ⟨_, allDst_ends hd f.sched 0, hexec.trans (by rw [if_neg fun ht => Bool.false_ne_true (hw.symm.trans ht)]; rfl)⟩
  · refine ⟨_, reserve_ends x.numbered f.sched (x.numbered.allDst f.dst 0) (x.numbered.cover f.sched none) x.s.fresh.1 x.cur.first, ?_⟩
    change execTcancel f s = _
    rw [execTcancel, issue_latched h, onChan_runs ha hop hch]
    rfl

end Sys2Proof.Machine
end

section
/-! SUPPORT. COLL with a permutation (06 R190, 12 R348): the model reads the card's address in the lane that PERM names, while statement
O49 takes it from the lowest active lane itself. Here the two lanes hold different addresses, and the statement fails. -/

namespace Sys2Proof.Machine

/-- A team whose lane 1 holds the address 1 in d1; d1 of lane 0 is 0. -/
def permCollTeam : Team := progTeam.modGroup 0 fun g => { g with regs := [(256 + 2, 1)] }

/-- Its group 0 is about to issue in lane 0. -/
def permCollCur : Cur := {
  team := progTeam.id, group := 0, core := 0, pc := 0x200000, next := 0x200010, issued := 1, line := 0x200000, first := false }

/-- The module with that team alone, and its instruction in the issue latch. -/
def permCollState : State := { State.reset.placeProgram 96 nopWord.toNat with agenda := [], teams := [permCollTeam], cur := some permCollCur, gtc := 1000 }

/-- COLL whose SA is read from lane 1. -/
def permColl : FmtR := {
  sched := { stall := 0, fin := false, pg := 7, pn := false, set := 7, wait := 0 }, dst := .v 4, sa := .d 1, perm := .broadcast 1,
  sb := .zero, sc := .zero, ty := .i32, rm := .rne, sat := false, mod := 0 }

/-- What the instruction finds. -/
def permCollIx : Ix := { s := permCollState, cur := permCollCur, t := permCollTeam, g := permCollTeam.group 0, active := 1 }

/-- The card that lane 0 addresses: unwritten memory, so every byte is 0. -/
theorem permColl_card : permCollIx.s.hwRead permCollIx.t.id.lci permCollIx.cardOwner 0 0 128 = .bytes (List.replicate 128 0) permCollState := by
  decide +kernel

/-- The other premises of the statement hold. -/
theorem permColl_premises :
    permCollState.latched permColl.sched = some permCollIx ∧ permCollIx.active ≠ 0 ∧ permCollIx.rd permCollIx.low permColl.sa = 0 ∧
    permCollIx.operandTrap (permCollIx.own (permCollIx.t.desc.regsOf permColl.sa)) (permCollIx.t.desc.regsOf permColl.dst) = none ∧
    permCollIx.boundary true = none ∧ permCollIx.awaitRel .pod = none ∧ (permCollIx.withState permCollState).t.desc = permCollIx.t.desc ∧
    cardOk (leNat (List.replicate 128 0)) = false := by
  decide +kernel

theorem permColl_latched : Latched permCollState permColl.sched permCollIx := permColl_premises.1

/-- COLL meets the misaligned address of lane 1 and traps. -/
theorem exec_permColl : exec (.coll permColl) permCollState = .next (permCollIx.trapActive Cause.misaligned 1) := by
  change execColl _ _ = _
  rw [execColl, issue_latched permColl_latched]
  exact congrArg Host.Outcome.next (by decide +kernel)

/-- A trap takes no free value, as an instruction that ends does. -/
theorem permColl_free : (permCollIx.trapActive Cause.misaligned 1).free = permCollState.free := by decide +kernel

/-- Refutes O49: with PERM, COLL reads its card's address in another lane than the lowest active one. Lane 0 addresses a card of zeros,
which the statement answers with 2, while COLL traps on the misaligned address of lane 1. -/
theorem not_collectiveAndMessageInstructions : ¬ Obligations.CollectiveAndMessageInstructions := by
  unfold Obligations.CollectiveAndMessageInstructions
  intro h
  obtain ⟨-, ha, hva, hop, hb, hr, hdesc, hbad⟩ := permColl_premises
  obtain ⟨hcoll, -, -⟩ := h permColl permCollState permCollIx permColl_latched ha
  simp only [hva] at hcoll
  obtain ⟨hends, -⟩ := hcoll hop (by decide) (by decide) hb hr _ _ permColl_card hdesc
  obtain ⟨t, ht, g, rfl, -⟩ := hends hbad
  have hfree := congrArg State.free (Host.Outcome.next.inj (exec_permColl.symm.trans ht))
  rw [permColl_free] at hfree
  exact absurd hfree (Nat.ne_of_lt (Nat.lt_succ_self _))

end Sys2Proof.Machine
end

section
/-! SUPPORT. The events of the engines (12 R334 to R351): jobs, chains and collective cards, each where its condition holds, and statement
O56. -/

namespace Sys2Proof.Machine

/-! ### Jobs -/

/-- A channel's first posted job starts when the dependence unit has room (12 R334). -/
theorem exec_jobStart_copy {s : State} {die : BitVec 4} {ch : BitVec 5} {j : Job}
    (hj : ((s.chanJobs die.toNat ch.toNat).find? fun j => !j.started && j.outcome == 0) = some j) (hheld : j.held = false)
    (hrun : s.chipRuns j.lci = true) (hroom : s.depCount die.toNat < 256) (hk : j.kind = .copy) :
    exec (.jobStart die ch) s = .next (s.enterUnit j) := by
  change execJobStart die ch s = _
  rw [execJobStart]
  simp only [hj, hheld, hrun, hk, Nat.not_le.2 hroom, Bool.not_true, Bool.or_false, Bool.false_eq_true, decide_false, if_false]

/-- A row of a copy moves in the direction of its job once its tokens have come (12 R339). -/
theorem exec_boxRow_copy {s : State} {n k : Nat} {j : Job} (hj : s.job? n = some j) (hmay : s.mayRow j k = true) (hk : j.kind = .copy) :
    let r := (s.walkAhead j k).rowPull j k
    exec (.boxRow n k) s = .next (if r.1 then (if j.dir = 0 then r.2.rowIn j k else r.2.rowOut j k).rowMoved j k else r.2) := by
  change execBoxRow n k s = _
  rw [execBoxRow]
  simp only [hj, hmay, State.moveRow, hk, Bool.not_true, Bool.false_eq_true, if_false]

/-- A job that no record posted ends with its outcome, done where nothing went wrong (12 R335). -/
theorem exec_jobEnd {s : State} {n : Nat} {j : Job} (hj : s.job? n = some j) (hover : s.jobOver j = true) (hrec : j.record = none) :
    let o := if j.outcome = 0 then 1 else j.outcome
    exec (.jobEnd n) s = .next (((s.jobArrives j).modJob n fun x => { x with outcome := o }).jobGone { j with outcome := o } 0) := by
  change execJobEnd n s = _
  rw [execJobEnd]
  simp only [hj, hover, hrec, Bool.not_true, Bool.false_eq_true, if_false]

/-! ### Chains -/

section

variable {s : State} {die : BitVec 4} {ch : BitVec 5} {va : Nat} {t : TeamId}
  (hva : (s.channel die.toNat ch.toNat).walk = some va) (ht : (s.channel die.toNat ch.toNat).walkTeam = some t)
  (hrun : s.chipRuns t.lci = true) (hroom : s.queued die.toNat ch.toNat < 16)
include hva ht hrun hroom

/-- A record at an address that is no multiple of 128 faults its chain (12 R344). -/
theorem exec_chainRecordRead_misaligned (hal : va % 128 ≠ 0) :
    exec (.chainRecordRead die ch) s = .next (s.walkFault die.toNat ch.toNat Cause.misaligned) := by
  change execChainRecordRead die ch s = _
  rw [execChainRecordRead]
  simp only [hva, ht, hrun, Nat.not_le.2 hroom, Bool.not_true, Bool.or_false, decide_false, Bool.false_eq_true, if_false, if_pos hal]

/-- A record that has been read is taken (12 R344). -/
theorem exec_chainRecordRead_taken (hal : va % 128 = 0) {l : List Byte} {v : State}
    (hr : s.hwRead t.lci (walkOwner die.toNat ch.toNat) 0 va 128 = .bytes l v) :
    exec (.chainRecordRead die ch) s = .next (v.takeRecord die.toNat ch.toNat t (v.pchipOf t.lci) va (leNat l)) := by
  change execChainRecordRead die ch s = _
  rw [execChainRecordRead]
  simp only [hva, ht, hrun, Nat.not_le.2 hroom, Bool.not_true, Bool.or_false, decide_false, Bool.false_eq_true, if_false,
    if_neg (not_not.2 hal), hr]

end

/-! ### Collective cards -/

/-- A card whose member list has been read and resolves joins the collective of its group (12 R349). -/
theorem exec_collCardStart_joins {s v : State} {n : Nat} {c : Card} {h : Chip} {l : List Byte} {q : Nat} {m : List Nat}
    (hc : s.card? n = some c) (hh : s.chip? c.lci = some h) (hstart : c.started = false) (hout : c.outcome = 0) (hheld : c.held = false)
    (hres : h.res.resident = true) (hturn : s.cardTurn c = true) (hroom : s.depCount c.die < 256)
    (hrun : s.loadRun (c.job c.id) 0 (2 * c.nmem) (RowPart.mk c.memb 0 (2 * c.nmem) false).parts = .done v l q)
    (hm : (v.dropFetches c.id 0).resolveMembers h (memberFields l c.nmem) = .inr m) :
    exec (.collCardStart n) s = .next ((v.dropFetches c.id 0).joinCard c m) := by
  change execCollCardStart n s = _
  rw [execCollCardStart]
  simp only [hc, hh, hstart, hout, hheld, hres, hturn, Nat.not_le.2 hroom, bne_self_eq_false, Bool.not_true, Bool.or_false,
    Bool.false_eq_true, decide_false, if_false, State.cardRun, hrun, hm]

/-- A chunk whose writes have taken effect is counted (12 R351). -/
theorem exec_collChunkLanding_counts {s : State} {n k : Nat} {c : Card} {p : Nat × Nat} (hc : s.card? n = some c) (hk : k ∈ c.chunks)
    (hheld : c.held = false) (hrun : s.chipRuns c.lci = true) (hp : c.counting.find? (fun p => p.1 == k) = some p) (ht : p.2 ≤ s.gtc) :
    exec (.collChunkLanding n k) s = .next (s.chunkCount c k) := by
  change execCollChunkLanding n k s = _
  rw [execCollChunkLanding]
  simp only [hc, List.contains_iff_mem.2 hk, hheld, hrun, hp, if_pos ht, Bool.not_true, Bool.or_false, Bool.false_eq_true, if_false]

/-- Settles O56: each event under its condition. That a misaligned NEXT is MISALIGNED is the model's log 45, that cards stand in the
dependence unit its log 53. -/
theorem engineEvents : Obligations.EngineEvents := by
  unfold Obligations.EngineEvents
  intro s n k die ch
  refine ⟨fun j hj hheld hrun hroom hk => exec_jobStart_copy hj hheld hrun hroom hk, fun j hj hmay hk => exec_boxRow_copy hj hmay hk,
    fun j hj hover hrec => exec_jobEnd hj hover hrec, fun va t hva ht hrun hroom => ⟨fun hal => ?_, fun l v hal hr => ?_⟩,
    fun c h l v q m hc hh hstart hout hheld hres hturn hroom hrun hm => ?_, fun c p hc hk hheld hrun hp ht => ?_,
    fun c hc hbegun hcount hheld heff hout hskip => ?_⟩
  · exact exec_chainRecordRead_misaligned hva ht hrun hroom hal
  · exact exec_chainRecordRead_taken hva ht hrun hroom hal hr
  · exact exec_collCardStart_joins hc hh hstart hout hheld hres hturn hroom hrun hm
  · exact exec_collChunkLanding_counts hc hk hheld hrun hp ht
  · have hend := exec_collCardEnd_skip hc ⟨hbegun, hcount, hheld, heff, .inl hout⟩ hskip
    rwa [Card.endOutcome, if_neg hout] at hend

end Sys2Proof.Machine
end

section
/-! SUPPORT. The events of scheduling (13 R359 to R368, 05 R172 to R178, 14 R379 to R381): slots, counters, register requests, sleepers,
teams that leave or come back, and the dispatcher, each where its condition holds; and statement O54. -/

namespace Sys2Proof.Machine

/-! ### Groups of a resident team -/

/-- A free slot takes the first claim of its core, and the start of its run is traced (13 R367). -/
theorem exec_issueSlotPick {s v : State} {core slot : Nat} {c : Claim} {r : List Claim} {t : Team} (hfree : s.slotFree core slot = true)
    (hclaims : (s.claims core).mergeSort Claim.before = c :: r)
    (hv : v = s.modGroup c.id c.group fun g => { g with run := some { core := core, slot := slot, count := 0, pcs := [] } })
    (ht : v.team? c.id = some t) :
    exec (.issueSlotPick core slot) s = .next (v.trace core t c.group 0 (lanesOf (t.group c.group).issuedMask).length
      ((t.group c.group).minPc (t.group c.group).readyMask)) := by
  subst hv
  change execIssueSlotPick core slot s = _
  rw [execIssueSlotPick]
  simp only [hfree, hclaims, List.head?_cons, ht, Bool.not_true, Bool.false_eq_true, if_false]

/-- A change of a group of a team that exists. -/
theorem modGroup_eq {s : State} {id : TeamId} {t : Team} (ht : s.team? id = some t) (k : Nat) (f : Group → Group) :
    s.modGroup id k f = s.setTeam (t.setGroup k (f (t.group k))) := by
  obtain rfl := State.team?_id ht
  rw [State.modGroup, modTeam_eq ht]
  rfl

/-- A group after a due drop of a counter (06 R197). -/
def Group.dropped (g : Group) (j : Nat) : Group := ({ g with ord := { g.ord with drops := g.ord.drops.erase j } }).drop (some j)

/-- A drop that is due lowers its counter (06 R197). -/
theorem exec_scoreboardDecrement {s : State} {id : TeamId} {t : Team} {k j : Nat} (ht : s.team? id = some t)
    (hj : j ∈ (t.group k).ord.drops) :
    exec (.scoreboardDecrement id k j) s = .next (s.setTeam (t.setGroup k ((t.group k).dropped j))) := by
  change execScoreboardDecrement id k j s = _
  rw [execScoreboardDecrement, modGroup_eq ht, if_pos (List.contains_iff_mem.2 hj)]
  rfl

/-- The oldest request for registers is granted when it fits (05 R173). -/
theorem exec_reggrowGrant {s : State} {core : Nat} {p : TeamId × Nat} (hp : s.grantable core = some p) :
    exec (.reggrowGrant core) s = .next (s.modGroup p.1 p.2 Group.granted) := by
  change execReggrowGrant core s = _
  rw [execReggrowGrant, hp]

section

variable {s : State} {id : TeamId} {t : Team} {k core : Nat} (ht : s.team? id = some t) (hc : t.core? = some core)
include ht hc

/-- A group none of whose sleeps is due sleeps on (09 R257). -/
theorem exec_sleepWake_none (hd : (t.group k).sleepsDue s.gtc = []) : exec (.sleepWake id k) s = .next s := by
  change execSleepWake id k s = _
  rw [execSleepWake]
  simp only [ht, hc, hd, List.foldl_nil]

/-- The lanes of the one sleep that is due go on (09 R257, R258). -/
theorem exec_sleepWake_one {q : Nat × Nat × Option (Nat × Nat)} (hd : (t.group k).sleepsDue s.gtc = [q]) :
    exec (.sleepWake id k) s = .next (s.releaseSleep id k core
      (maskWhere fun l => ((t.group k).lane l).wait == some (Wait.sleep q.1 q.2.1 q.2.2) && ((t.group k).lane l).st == .waiting)
      q.1 q.2.1 q.2.2) := by
  change execSleepWake id k s = _
  rw [execSleepWake]
  simp only [ht, hc, hd, List.foldl_cons, List.foldl_nil]

/-! ### Teams that leave, wake and end -/

/-- A gang that may leave its cores, and that the save area has room for, leaves them (14 R379 to R382). -/
theorem exec_teamPark_leaves {c : Chip} (hl : t.leave ≠ 0) (he : t.ended = false)
    (hgang : s.gangMayLeave (s.gangOf t.gangKey) = true) (hchip : s.chip? t.id.lci = some c)
    (hroom : t.leave ≠ 1 ∨ s.parkedCount t.id.lci + ((s.gangOf t.gangKey).filter fun u => !u.ended).length ≤ c.qos.save) :
    exec (.teamPark id) s = .next ((s.gangLeaves (s.gangOf t.gangKey) t.leave).deadlockPark core) := by
  have hfits : (decide (t.leave = 1) && decide (c.qos.save < s.parkedCount t.id.lci +
      ((s.gangOf t.gangKey).filter fun u => !u.ended).length)) = false := by
    rcases hroom with h | h
    · rw [decide_eq_false h, Bool.false_and]
    · rw [decide_eq_false (Nat.not_lt.2 h), Bool.and_false]
  change execTeamPark id s = _
  rw [execTeamPark]
  simp only [ht, hc, hl, he, hgang, hchip, hfits, decide_false, Bool.or_false, Bool.not_true, Bool.false_eq_true, if_false]

/-- A team whose lanes have all ended ends once it may leave (05 R159). -/
theorem exec_teamEnd (he : t.ended = false) (hs : t.stopping = false) (hx : t.allExited = true) (hm : s.mayLeave t = true) :
    exec (.teamEnd id) s = .next (s.endTeam t core) := by
  change execTeamEnd id s = _
  rw [execTeamEnd]
  simp only [ht, hc, he, hs, hx, hm, Bool.or_true, Bool.not_true, Bool.or_self, Bool.false_eq_true, if_false, if_true]

end

section

variable {s : State} {id : TeamId} {t : Team} (ht : s.team? id = some t)
include ht

/-- A gang all of whose resident teams may park begins to (05 R177). -/
theorem exec_parkThresholdExpiry (hl : t.leave = 0) (hp : s.parkEligible t = true)
    (hgang : ∀ u ∈ s.gangOf t.gangKey, u.ended = false → u.core?.isNone = true ∨ s.parkEligible u = true) :
    exec (.parkThresholdExpiry id) s = .next (s.setLeave t.gangKey 1) := by
  have hall : ((s.gangOf t.gangKey).filter fun u => !u.ended).all (fun u => u.core?.isNone || s.parkEligible u) = true :=
    List.all_eq_true.2 fun u hu => by
      obtain ⟨hmem, hend⟩ := List.mem_filter.1 hu
      simpa using hgang u hmem (by simpa using hend)
  change execParkThresholdExpiry id s = _
  rw [execParkThresholdExpiry]
  simp only [ht, hl, hp, hall, beq_self_eq_true, Bool.and_self, if_true]

/-- A parked team whose wake condition holds is queued to resume (05 R178). -/
theorem exec_teamWake (hp : t.place = .parked) (he : t.ended = false) (hw : t.wakeMet s.gtc = true) :
    exec (.teamWake id) s = .next (s.queueResume t.gangKey) := by
  change execTeamWake id s = _
  rw [execTeamWake]
  simp only [ht, hp, he, hw, Bool.not_false, Bool.and_self, if_true]

end

/-! ### The dispatcher -/

/-- A unit that waits to resume and fits is seated (13 R365, R366). -/
theorem exec_dispatchPlacement_resumes {s : State} {lci : BitVec 8} {c : Chip} {key : TeamId} {p : List (Team × Nat) × Nat}
    (hc : s.chip? lci.toNat = some c) (hd : c.dispatches = true) (hk : c.disp.nextResume = some key)
    (hp : s.fitUnit c (s.gangOf key) = some p) :
    exec (.dispatchPlacement lci) s = .next ((s.modChip lci.toNat fun c => { c with
      disp := { c.disp with resume := c.disp.resume.filter fun k => k != key, rr := p.2 }
      res := { c.res with saveFull := false, everRan := true } }).seatUnit p.1 false) := by
  change execDispatchPlacement lci s = _
  rw [execDispatchPlacement]
  simp only [hc, hd, hk, hp, Bool.not_true, Bool.false_eq_true, if_false]

/-- The oldest LAUNCH of a queue whose record is accepted is answered with its handle (13 R360). -/
theorem exec_launchAcceptance_ok {s v w : State} {lci lq : BitVec 8} {q : LaunchReq} {c : Chip} {l : List Byte} {h : Nat}
    (hq : s.traffic.launches.find? (fun q => q.team.lci == lci.toNat && q.lq % 2 ^ 32 == lq.toNat) = some q)
    (hc : s.chip? q.team.lci = some c) (hk : (c.lqueue? q.lq false).isSome = true) (hr : s.hwRead q.team.lci q.id 0 q.va 64 = .bytes l v)
    (ha : v.accept q.team.lci q.lq false (leNat l) q.priv q.id = .ok h w) :
    exec (.launchAcceptance lci lq) s = .next (w.launchAnswer q (2 ^ 31 + h)) := by
  change execLaunchAcceptance lci lq s = _
  rw [execLaunchAcceptance]
  simp only [hq, hc, hk, hr, ha, Bool.not_true, Bool.false_eq_true, if_false]

/-- Settles O54: each event under its condition. Which units are tried first is the model's log 37, what a team needs to leave its core
its log 38. -/
theorem schedulingEvents : Obligations.SchedulingEvents := by
  unfold Obligations.SchedulingEvents
  intro s id t k ht
  refine ⟨fun core slot c r hfree hclaims => ?_, fun j hj => ?_,
    fun core p hp => exec_reggrowGrant hp, fun core hc hd => exec_sleepWake_none ht hc hd, fun core q lanes hc hd hlanes => ?_,
    fun hl hp hgang => exec_parkThresholdExpiry ht hl hp hgang,
    fun core c hc hl he hgang hchip hroom => exec_teamPark_leaves ht hc hl he hgang hchip hroom,
    fun hp he hw => exec_teamWake ht hp he hw, fun core hc he hs hx hm => exec_teamEnd ht hc he hs hx hm,
    fun lci c key p hc hd hk hp => exec_dispatchPlacement_resumes hc hd hk hp,
    fun lci lq q c l v h w hq hc hk hr ha => exec_launchAcceptance_ok hq hc hk hr ha⟩
  · exact fun v hv => exec_issueSlotPick hfree hclaims rfl hv
  · obtain rfl := State.team?_id ht
    refine ⟨_, t.setGroup k ((t.group k).dropped j), exec_scoreboardDecrement ht hj, ?_, ?_⟩
    · rw [State.team?_setTeam, Team.setGroup_id, if_pos rfl, ht]
      rfl
    · rw [Team.group_setGroup, if_pos rfl]
      refine ⟨smGet_smSet_self _ _ _ _, rfl, fun i hi => ?_, rfl, rfl⟩
      exact (smGet_smSet _ _ _ _ _).trans (if_neg (Ne.symm hi))
  · rw [hlanes]
    exact exec_sleepWake_one ht hc hd

end Sys2Proof.Machine
end

section
/-! SUPPORT. Traps (14 R369 to R372, 09 R259): what entry to a handler leaves of its group, the lanes that issue in handler mode, traps
that a handler takes and that none takes, and statement O44. -/

namespace Sys2Proof.Machine

/-! ### Handler mode -/

/-- Entry changes the group's lanes, trap registers and region alone (14 R369). -/
theorem Group.enter_eq (g : Group) (tr : Trap) (pc trapv : DWord) (defer : Bool) : g.enter tr pc defer trapv = { g with
    lanes := (g.enter tr pc defer trapv).lanes
    trap := { handler := true, tcause := BitVec.ofNat 32 (tr.cause + if defer then 256 else 0), tpc := pc, tlanes := tr.lanes,
              taddr := BitVec.ofNat 64 tr.addr, tpcWritten := false }
    region := [] } := Group.modLanes_eq _ _ _

/-- The lanes that a trap names go to TRAPV (14 R369). -/
theorem Group.enter_lane (g : Group) (tr : Trap) (pc trapv : DWord) (defer : Bool) {l : Nat} (hl : l < 32) :
    (g.enter tr pc defer trapv).lane l = if tr.lanes.getLsbD l then { g.lane l with pc := trapv } else g.lane l :=
  Group.lane_modLanes _ tr.lanes (fun _ x => { x with pc := trapv }) l hl

/-- In handler mode only lanes of sr.tlanes issue (14 R371). -/
theorem Group.issuedMask_handler {g : Group} (hh : g.trap.handler = true) {l : Nat} (hi : g.issuedMask.getLsbD l = true) :
    g.trap.tlanes.getLsbD l = true := by
  rw [Group.issuedMask, getLsbD_maskWhere _ (BitVec.lt_of_getLsbD hi), Bool.and_eq_true, Group.readyMask, if_pos hh,
    BitVec.getLsbD_and, Bool.and_eq_true] at hi
  exact hi.1.2

/-! ### Traps taken -/

section

variable {s : State} {sc : Sched} {x : Ix} (h : Latched s sc x) (tr : Trap)
include h

/-- A trap of an instruction in a group out of handler mode, whose team names a legal target, enters its handler (14 R369). -/
theorem trap_handled {u : State} (hv : x.t.desc.trapv ≠ 0) (hh : x.g.trap.handler = false)
    (hc : (x.s.trace x.cur.core x.t x.cur.group 1 tr.cause x.cur.pc.toNat).checkTarget x.cur.core x.t.id.lci x.t.desc.trapv.toNat = .ok u) :
    x.trap tr = u.modGroup x.t.id x.cur.group fun g => g.enter tr x.cur.pc false x.t.desc.trapv := by
  obtain ⟨-, hg, ht, -⟩ := latched_facts h
  rw [hg] at hh
  simp only [Ix.trap, State.takeTrap, ht, hv, hh, hc, decide_false, Bool.or_self, Bool.false_eq_true, if_false]

/-- A trap of an instruction without a TRAPV, or in handler mode, stops its team (14 R372). -/
theorem trap_unhandled (hn : ¬ (x.t.desc.trapv ≠ 0 ∧ x.g.trap.handler = false)) :
    x.trap tr = (x.s.trace x.cur.core x.t x.cur.group 1 tr.cause x.cur.pc.toNat).stopTeam x.t.id x.cur.group tr.cause x.cur.pc.toNat
      tr.addr := by
  obtain ⟨-, hg, ht, -⟩ := latched_facts h
  have hstop : (decide (x.t.desc.trapv = 0) || (x.t.group x.cur.group).trap.handler) = true := by
    rw [hg] at hn
    simpa [or_iff_not_imp_left] using hn
  simp only [Ix.trap, State.takeTrap, ht, hstop, if_true]

end

/-! ### TRAP.sys and TRAP.bkpt -/

section

variable {f : FmtI} {s : State} {x : Ix} (h : Latched s f.sched x) (ha : x.active ≠ 0)
include h ha

/-- TRAP.sys traps with its code as the address (09 R259). -/
theorem exec_trapSys :
    exec (.trapSys f) s = .next (x.trap { cause := Cause.svc, lanes := x.active, addr := f.imm.toNat % 65536 }) := by
  change execTrapSys f s = _
  rw [execTrapSys, issue_latched h, if_neg ha, trapCode_eq]

/-- TRAP.bkpt without a debugger traps with its code as the address (09 R259). -/
theorem exec_trapBkpt_traps (hd : x.s.attached x.t.id.lci = false) :
    exec (.trapBkpt f) s = .next (x.trap { cause := Cause.bkpt, lanes := x.active, addr := f.imm.toNat % 65536 }) := by
  change execTrapBkpt f s = _
  rw [execTrapBkpt, issue_latched h, if_neg ha, if_neg (by simp [hd]), trapCode_eq]

/-- TRAP.bkpt under a debugger stops its team, and its group waits (17 R442). -/
theorem exec_trapBkpt_stops (hd : x.s.attached x.t.id.lci = true) :
    exec (.trapBkpt f) s = .next (x.withState ((x.s.trigger x.t.id 2 x.cur.pc.toNat (some x.cur.group) 0 0).modTeam x.t.id fun t =>
      { t with dbg := { t.dbg with bkpts := x.cur.group :: t.dbg.bkpts.filter fun g => g != x.cur.group } })).hold := by
  change execTrapBkpt f s = _
  rw [execTrapBkpt, issue_latched h, if_neg ha, if_pos hd]

end

/-- Settles O44: entry to a handler field by field, and the two trap instructions through what becomes of a trap. -/
theorem trapEntry : Obligations.TrapEntry := by
  unfold Obligations.TrapEntry
  refine ⟨fun g tr pc trapv defer => ?_, fun g l hh hi => Group.issuedMask_handler hh hi, ?_⟩
  · intro e
    have he : e = _ := Group.enter_eq g tr pc trapv defer
    have htrap := congrArg Group.trap he
    refine ⟨congrArg TrapRegs.handler htrap, congrArg TrapRegs.tcause htrap, congrArg TrapRegs.tpc htrap, congrArg TrapRegs.tlanes htrap,
      congrArg TrapRegs.taddr htrap, congrArg Group.region he, fun l hl => Group.enter_lane g tr pc trapv defer hl, ?_⟩
    rw [htrap, congrArg Group.region he]
    exact he
  · intro f s u x h ha code tr handled at_ taken
    have htaken : ∀ (i : Instr) (cause : Nat), exec i s = .next (x.trap (tr cause)) → taken i cause := fun i cause hi =>
      ⟨fun ⟨hv, hh⟩ hc => hi.trans (congrArg _ (trap_handled h (tr cause) hv hh hc)),
        fun hn => hi.trans (congrArg _ (trap_unhandled h (tr cause) hn))⟩
    exact ⟨htaken _ _ (exec_trapSys h ha), fun hd => htaken _ _ (exec_trapBkpt_traps h ha hd),
      fun hd => ⟨_, _, exec_trapBkpt_stops h ha hd, rfl, rfl⟩⟩

end Sys2Proof.Machine
end

section
/-! SUPPORT. Commands on virtual chips that the PF gives (18 Table 18.5, 15 R391 to R396, 02 R71 to R75), and the statement O50. -/

namespace Sys2Proof.Machine

/-- A command that names a chip which exists, is not busy, and may be named, goes on with it (15 R497). -/
theorem onChip_runs {u : State} {n : Nat} {c : Chip} {inc : Bool} (hc : u.chip? n = some c) (hb : u.chipBusy n = false)
    (hi : c.ident.incoming = false ∨ inc = true) (k : Chip → CmdRes) : u.onChip n inc k = k c := by
  rcases hi with hi | rfl <;> simp [State.onChip, *]

theorem pfOnly_runs {h : CmdHdr} (hfn : h.fn = .pf) (u : State) (k : State → CmdRes) : pfOnly h u k = k u := if_pos hfn

theorem ownChip_pf {h : CmdHdr} (hfn : h.fn = .pf) (n : Nat) (u : State) (k : State → CmdRes) : ownChip h n u k = k u := by
  simp only [ownChip, hfn]

theorem readOperand_bytes {u : State} {h : CmdHdr} {a n : Nat} {b : List Byte} (hr : u.issuerRead h.fn a n = .bytes b)
    (k : List Byte → CmdRes) : u.readOperand h a n k = k b := by
  simp only [State.readOperand, hr]

/-- A command of the command queue that completes answers. -/
theorem answers_of_done {h : CmdHdr} {i : Instr} {s u v : State} {k : State → CmdRes} {st r : Nat} (hc : Commanded s h i u)
    (he : exec i s = s.onCmd h i k) (hk : k u = .done v st r) : Answers i s h v st r := by
  rw [Answers, he, State.onCmd, onQueue_done hc k hk]

/-- A command of the command queue that goes on in the background answers later. -/
theorem answersLater_of_later {h : CmdHdr} {i : Instr} {s u v : State} {k : State → CmdRes} (hc : Commanded s h i u)
    (he : exec i s = s.onCmd h i k) (hk : k u = .later v) : AnswersLater i s h v := by
  rw [AnswersLater, he, State.onCmd, onQueue_later hc k hk]

section
variable {h : CmdHdr} {s u : State} {lci : BitVec 8} {c : Chip}

/-! ### VC_CREATE -/

section
variable {chw : BitVec 8} {pchip gid : BitVec 16} {inc : Bool} {s2 qos : DWord}

/-- VC_CREATE of another function than the PF is denied (18 R461). -/
theorem vcCreate_denied (hc : Commanded s h (.vcCreate h lci chw pchip gid inc s2 qos) u) (hfn : h.fn ≠ .pf) :
    Answers (.vcCreate h lci chw pchip gid inc s2 qos) s h u stDenied 0 :=
  answers_of_done hc rfl (if_neg hfn)

/-- VC_CREATE whose identity, context and parameters pass, and for which resources are free, adds the chip (15 R391). -/
theorem vcCreate_adds {b : List Byte} (hc : Commanded s h (.vcCreate h lci chw pchip gid inc s2 qos) u) (hfn : h.fn = .pf)
    (hnew : u.chip? lci.toNat = none) (hg : u.guestBusy gid.toNat = false)
    (hid : u.identOk { gid := gid.toNat, pchip := pchip.toNat, chw := chw.toNat, incoming := inc, tdi := 0 } = true)
    (hctx : s2CtxOk s2.toNat = true) (hrd : u.issuerRead h.fn qos.toNat 64 = .bytes b)
    (hq : (Qos.init.ofBlock b 0xFFFF).ok = true)
    (hbind : ∀ y, bindOf b 0xFFFF = some y → u.bindOk lci.toNat b y = true)
    (hsum : u.sumsFit lci.toNat (Qos.init.ofBlock b 0xFFFF) = true)
    (hbank : (Qos.init.ofBlock b 0xFFFF).minb ≤ u.freeBanks.length)
    (hchan : (Qos.init.ofBlock b 0xFFFF).mind ≤ u.freeChannels.length) :
    Answers (.vcCreate h lci chw pchip gid inc s2 qos) s h
      (u.addChip lci.toNat { gid := gid.toNat, pchip := pchip.toNat, chw := chw.toNat, incoming := inc, tdi := 0 } s2
        (Qos.init.ofBlock b 0xFFFF) (bindOf b 0xFFFF)) stOk (u.incOf lci.toNat) := by
  refine answers_of_done hc rfl ?_
  simp only [pfOnly_runs hfn, hnew, Option.isSome_none, hg, hid, hctx, readOperand_bytes hrd, Bool.or_self, Bool.false_eq_true, if_false,
    Bool.not_true]
  cases hx : bindOf b 0xFFFF with
  | none => simp [hq, hsum, hbank, hchan]
  | some y => simp [hq, hsum, hbank, hchan, hbind y hx]

end

/-! ### Commands on a chip that exists -/

section
variable (hfn : h.fn = .pf) (hchip : u.chip? lci.toNat = some c) (hbusy : u.chipBusy lci.toNat = false)
  (hinc : c.ident.incoming = false)

include hfn hchip hbusy

/-- VC_DESTROY of a chip whose TDI is not locked removes it (15 R404). -/
theorem vcDestroy_removes (hc : Commanded s h (.vcDestroy h lci) u) (hl : c.locked = false) :
    Answers (.vcDestroy h lci) s h (u.removeChip lci.toNat).resumeGuaranteed stOk 0 :=
  answers_of_done hc rfl (by
    simp only [pfOnly_runs hfn, onChip_runs hchip hbusy (.inr rfl), hl, Bool.false_eq_true, if_false])

/-- VC_DESTROY of a chip whose TDI is locked answers LOCKED (15 R410; the order of statuses is log 57's). -/
theorem vcDestroy_locked (hc : Commanded s h (.vcDestroy h lci) u) (hl : c.locked = true) :
    Answers (.vcDestroy h lci) s h u stLocked 0 :=
  answers_of_done hc rfl (by simp only [pfOnly_runs hfn, onChip_runs hchip hbusy (.inr rfl), hl, if_true, State.refuse])

/-- MAP of stage 1 with a context of the chip's own slot, which keeps the stripe table base, starts a shootdown (02 R41, R74). -/
theorem map_startsShootdown {ctx : BitVec 128} (hc : Commanded s h (.map h 1 lci ctx) u) (hctx : s1CtxOk c.ident ctx.toNat = true)
    (hbase : u.stripeBaseKept c ctx.toNat = true) :
    AnswersLater (.map h 1 lci ctx) s h (u.startShoot lci.toNat 1 true none 0 0 h (some ctx)) := by
  refine answersLater_of_later hc rfl ?_
  simp [ownChip_pf hfn, hfn, onChip_runs hchip hbusy (.inr rfl), hctx, hbase]

/-- SHOOT of stage 1 or 2 starts a shootdown (02 R75). -/
theorem shoot_startsShootdown {stage cls : BitVec 8} {all : Bool} {first count : DWord} (hc : Commanded s h (.shoot h lci stage all cls first count) u)
    (hst : stage = 1 ∨ stage = 2) :
    AnswersLater (.shoot h lci stage all cls first count) s h (u.startShoot lci.toNat stage.toNat all
      (if cls.getLsbD 2 then some (Cls.ofCode (cls.toNat % 4)) else none) first.toNat count.toNat h none) := by
  refine answersLater_of_later hc rfl ?_
  rcases hst with rfl | rfl <;> simp [ownChip_pf hfn, hfn, onChip_runs hchip hbusy (.inr rfl)]

include hinc

/-- VC_QOS that assigns no queue and leaves the guaranteed banks as they are applies its parameters (15 R392). -/
theorem vcQos_applies {qos : DWord} {b : List Byte} {q : Qos} (hq : q = c.nextMin.ofBlock b (packetNat b 60 4))
    (hc : Commanded s h (.vcQos h lci qos) u) (hrd : u.issuerRead h.fn qos.toNat 64 = .bytes b) (hok : q.ok = true)
    (hkeep : q.minb ≠ 0 ∨ c.res.banks = []) (hbind : bindOf b (packetNat b 60 4) = none) (hminb : q.minb = c.qos.minb)
    (hflb : q.flb = c.qos.flb) (hsum : u.sumsFit lci.toNat q = true) (hbank : q.minb - c.res.banks.length ≤ u.freeBanks.length)
    (hchan : q.mind - c.res.channels.length ≤ u.freeChannels.length) :
    Answers (.vcQos h lci qos) s h ((u.applyQos lci.toNat c q none).refitBanks lci.toNat c.res.banks.length) stOk 0 := by
  refine answers_of_done hc rfl ?_
  have hlast : (q.minb == 0 && !c.res.banks.isEmpty) = false := by rcases hkeep with h | h <;> simp [h]
  simp only [pfOnly_runs hfn, onChip_runs hchip hbusy (.inl hinc), readOperand_bytes hrd, ← hq, hbind, hok, hlast]
  simp [hminb, hflb, hsum, hminb ▸ hbank, hchan]

/-- PAGE_REPLY of a queue and a status that exist answers its page request (02 R71). -/
theorem pageReply_answers {queue status : BitVec 8} {reqid inc : BitVec 16} (hc : Commanded s h (.pageReply h lci queue status reqid inc) u)
    (hqu : queue.toNat ≤ 1) (hst : status.toNat ≤ 1) :
    Answers (.pageReply h lci queue status reqid inc) s h
      (u.pageReply lci.toNat queue.toNat reqid.toNat inc.toNat (status == 0)) stOk 0 := by
  refine answers_of_done hc rfl ?_
  simp only [ownChip_pf hfn, hfn, bne_self_eq_false, Bool.false_and, Bool.false_eq_true, if_false,
    onChip_runs hchip hbusy (.inl hinc), Nat.not_lt.mpr hqu, Nat.not_lt.mpr hst, decide_false, Bool.or_self]

/-- EVENT_ARM of a chip arms its ring (15 R398): the field names the PF's ring by 0xFFFF, which no chip's number is. -/
theorem eventArm_arms (hc : Commanded s h (.eventArm h (lci.setWidth 16)) u) :
    Answers (.eventArm h (lci.setWidth 16)) s h (u.armRing (.vf lci)) stOk 0 := by
  refine answers_of_done hc rfl ?_
  have hnat : (lci.setWidth 16).toNat = lci.toNat := by have := lci.isLt; simp; omega
  have hne : lci.setWidth 16 ≠ 0xFFFF := by
    intro e
    have hn : lci.toNat = 0xFFFF := hnat.symm.trans (congrArg BitVec.toNat e)
    exact absurd lci.isLt (by omega)
  simp only [if_neg hne, hnat, ownChip_pf hfn, onChip_runs hchip hbusy (.inl hinc), BitVec.ofNat_toNat, BitVec.setWidth_eq]

/-- PLACE_LOAD of a table whose every entry may be held replaces the table of a chip that is not resident (01 R34, R35). -/
theorem placeLoad_replaces {table : DWord} {b : List Byte} (hc : Commanded s h (.placeLoad h lci table) u) (hl : c.locked = false)
    (hres : c.res.resident = false) (hrd : u.issuerRead h.fn table.toNat 12352 = .bytes b)
    (hall : ∀ p ∈ (List.range 3088).map fun k => (k, packetNat b (4 * k) 4), u.placeOk p.2 = true) :
    Answers (.placeLoad h lci table) s h ((u.modChip lci.toNat fun c => { c with
      places := (((List.range 3088).map fun k => (k, packetNat b (4 * k) 4)).filter fun p => p.2 != 0).map fun p =>
        (p.1, BitVec.ofNat 32 p.2) }).migrated lci.toNat) stOk 0 := by
  refine answers_of_done hc rfl ?_
  simp only [pfOnly_runs hfn, onChip_runs hchip hbusy (.inl hinc), hl, hres, Bool.false_eq_true, if_false, readOperand_bytes hrd,
    List.all_eq_true.mpr hall, Bool.not_true]

end

end

/-- Settles O50: each command by its own rule, from the state in which firmware has read its packet. -/
theorem chipCommands : Obligations.ChipCommands := by
  intro h s u lci c n here
  refine ⟨fun chw pchip gid inc s2 qos b => ⟨vcCreate_denied, ?_⟩, ?_, ?_, ?_, ?_, ?_, ?_, ?_, ?_⟩
  · exact fun hc hfn hnew hg hid hctx hrd hq hbind hsum hbank hchan =>
      vcCreate_adds hc hfn hnew hg hid hctx hrd hq hbind hsum hbank hchan
  · rintro ⟨hc, hfn, hchip, hbusy, -⟩ hl
    exact vcDestroy_removes hfn hchip hbusy hc hl
  · rintro ⟨hc, hfn, hchip, hbusy, -⟩ hl
    exact vcDestroy_locked hfn hchip hbusy hc hl
  · rintro qos b ⟨hc, hfn, hchip, hbusy, hinc⟩ hrd q hok hkeep hbind hminb hflb hsum hbank hchan
    exact vcQos_applies hfn hchip hbusy hinc rfl hc hrd hok hkeep hbind hminb hflb hsum hbank hchan
  · rintro ctx ⟨hc, hfn, hchip, hbusy, -⟩ hctx hbase
    exact map_startsShootdown hfn hchip hbusy hc hctx hbase
  · rintro stage all cls first count ⟨hc, hfn, hchip, hbusy, -⟩ hst
    exact shoot_startsShootdown hfn hchip hbusy hc hst
  · rintro queue status reqid inc ⟨hc, hfn, hchip, hbusy, hinc⟩ hqu hst
    exact pageReply_answers hfn hchip hbusy hinc hc hqu hst
  · rintro ⟨hc, hfn, hchip, hbusy, hinc⟩
    exact eventArm_arms hfn hchip hbusy hinc hc
  · rintro table b ⟨hc, hfn, hchip, hbusy, hinc⟩ hl hres hrd l hall
    exact placeLoad_replaces hfn hchip hbusy hinc hc hl hres hrd hall

end Sys2Proof.Machine
end

section
/-! SUPPORT. The events of links and peers (16 R413 to R418, R434 to R437, 15 R412), each where its condition holds, and the statement
O57. -/

namespace Sys2Proof.Machine

/-! ### Links -/

/-- Packets that the peer has not accepted go again in order, up to 16 times (16 R414). -/
theorem exec_resendTimeout_resends {s : State} {port : BitVec 4} (hup : (s.die port.toNat).port.up = true)
    (hne : (s.die port.toNat).port.unacked ≠ []) (hfew : (s.die port.toNat).port.resends < 16) :
    exec (.resendTimeout port) s = .next { (s.modPort port.toNat fun x => { x with resends := x.resends + 1 }) with
      outbox := (s.die port.toNat).port.unacked.reverse ++ s.outbox } := by
  change execResendTimeout port s = _
  simp only [execResendTimeout, hup, List.isEmpty_eq_false_iff.mpr hne, hfew, Bool.not_true, Bool.or_self, Bool.false_eq_true, if_false,
    if_true]

/-- After 16 resends that failed the link goes down (16 R414). -/
theorem exec_resendTimeout_linkDown {s : State} {port : BitVec 4} (hup : (s.die port.toNat).port.up = true)
    (hne : (s.die port.toNat).port.unacked ≠ []) (hmany : 16 ≤ (s.die port.toNat).port.resends) :
    exec (.resendTimeout port) s = .next (s.linkDown port.toNat) := by
  change execResendTimeout port s = _
  simp only [execResendTimeout, hup, List.isEmpty_eq_false_iff.mpr hne, Nat.not_lt.mpr hmany, Bool.not_true, Bool.or_self,
    Bool.false_eq_true, if_false]

/-- A link that is down trains to version 1 when the peer's range holds it (16 R415). -/
theorem exec_linkTraining_up {s : State} {port : BitVec 4} {lo hi : Nat} (hdown : (s.die port.toNat).port.up = false) (hlo : lo ≤ 1)
    (hhi : 1 ≤ hi) : exec (.linkTraining port lo hi) s =
      .next (s.modPort port.toNat fun p => { p with up := true, version := 1, unacked := [], resends := 0 }) := by
  change execLinkTraining port lo hi s = _
  rw [execLinkTraining, hdown, if_neg Bool.false_ne_true, if_pos ⟨hlo, hhi⟩]

/-- A link whose peer's range lacks version 1 stays down, and an event says so (16 R415). -/
theorem exec_linkTraining_fails {s : State} {port : BitVec 4} {lo hi : Nat} (hdown : (s.die port.toNat).port.up = false)
    (hout : 1 < lo ∨ hi < 1) : exec (.linkTraining port lo hi) s = .next (s.postPf 0x0046 port.toNat hi) := by
  change execLinkTraining port lo hi s = _
  rw [execLinkTraining, hdown, if_neg Bool.false_ne_true, if_neg (by omega)]

/-- The sending end of a virtual link changes its key after 2^31 packets (15 R412). -/
theorem exec_linkRekey {s : State} {src dst : BitVec 10} {gid : BitVec 16} :
    let key := linkKey gid.toNat src.toNat dst.toNat
    2 ^ 31 ≤ smGet 0 s.mod.keys key / 2 →
      exec (.linkRekey src dst gid) s = .next (s.modMod fun m => { m with keys := smSet 0 m.keys key ((smGet 0 s.mod.keys key + 1) % 2) }) := by
  intro key hmany
  change execLinkRekey src dst gid s = _
  rw [execLinkRekey, if_neg (Nat.not_lt.mpr hmany)]

/-! ### Peers and time -/

/-- At a port without peers an exchange only steers the GTC, by 2 ticks at most (16 R435; how much is log 55's choice). -/
theorem exec_timeSyncExchange {s : State} {port : BitVec 5} {o : Int} (hp : s.portPeers port.toNat = []) :
    exec (.timeSyncExchange port o) s = .next { s with gtc := s.gtc + min 2 (-o).toNat } := by
  change execTimeSyncExchange port o s = _
  rw [execTimeSyncExchange, hp, List.foldl_nil]

/-- A module whose time is lost isolates every peer that it knows (16 R435). -/
theorem exec_timeLost {s : State} {o : Int} (ho : 30 < o.natAbs) : exec (.timeLost o) s =
    .next (s.knownPeers.foldl (fun v i => v.isolatePeer i 0 false) (s.postPf 0x0047 (addr64 o) 0)) := by
  change execTimeLost o s = _
  rw [execTimeLost, if_neg (Nat.not_le.mpr ho)]

/-- The count of a chip's dropped stores is posted, and starts anew (16 R434, R437). -/
theorem exec_storeDropped {s : State} {lci : BitVec 8} {q : Nat × Nat × Nat} (hq : s.mod.dropped.find? (fun q => q.1 == lci.toNat) = some q) :
    exec (.storeDropped lci) s = .next ((s.modMod fun m => { m with dropped := m.dropped.filter fun q => q.1 != lci.toNat }).postEvent
      lci.toNat 0x0042 q.2.1 q.2.2) := by
  change execStoreDropped lci s = _
  simp only [execStoreDropped, hq]

/-- Settles O57: each event by its own rule; an acknowledgement and a lost heartbeat have no condition. -/
theorem linkEvents : Obligations.LinkEvents := by
  intro s port p
  exact ⟨fun _ => rfl, exec_resendTimeout_resends, exec_resendTimeout_linkDown, fun _ _ => exec_linkTraining_up,
    fun _ _ => exec_linkTraining_fails, fun _ _ _ => exec_linkRekey, fun _ => rfl, fun _ _ => exec_timeSyncExchange, fun _ => exec_timeLost,
    fun _ _ => exec_storeDropped⟩

end Sys2Proof.Machine
end

section
/-! SUPPORT. The packets that another module's chips send here, and the answers that come back (16 R416 to R434, 02 R67, 12 R356), and
the statement O58. -/

namespace Sys2Proof.Machine

/-- The event of a packet type serves a delivered packet by the state that its handler makes of the chip. -/
theorem served_of_arrives {i : Instr} {s : State} {port : BitVec 5} {p : Packet} {ty lci : Nat} {k : Nat → State} {v : State}
    (hd : Delivered s port p ty lci) (he : exec i s = .next (s.arrives port.toNat p ty k)) (hk : k lci = v) :
    Served i s port p lci v := by
  rw [Served, he, arrives_delivered hd, hk]

section
variable {s : State} {port : BitVec 5} {p : Packet} {lci : Nat}

/-! ### Requests, served at their home -/

/-- A page request of another module is served at its home (02 R67). -/
theorem preq_served (hd : Delivered s port p ptPreq lci) (hkind : beatGet (pktCtl p) 0 8 = 0) :
    Served (.preq port p) s port p lci (s.servePreq port.toNat lci p) :=
  served_of_arrives hd rfl (if_pos hkind)

/-- A message request that its queue takes (16 R427). -/
theorem msgReq_taken {i k : Nat} {v : State} (hd : Delivered s port p ptMsgReq lci) (hcopy : beatGet (pktCtl p) 89 1 = 0)
    (hpeer : s.chipHome (s.gidOf lci) p.src.toNat = .peer i k)
    (htaken : s.arriveMsg (portDie port.toNat) lci p.src.toNat (beatGet (pktCtl p) 64 12) p.msgid.toNat (beatGet (pktCtl p) 0 32)
      (beatGet (pktCtl p) 80 2) (BitVec.ofNat 32 (beatGet (pktCtl p) 32 32)) (beatGet (pktCtl p) 88 1 == 1) i = .taken v) :
    Served (.msgReq port p) s port p lci v :=
  served_of_arrives hd rfl (by simp only [hcopy, hpeer, htaken, Nat.zero_ne_one, if_false])

/-- The request of a copy is entered for grants where there is room (12 R356; told from others as log 56 has it). -/
theorem msgReq_entersPull (hd : Delivered s port p ptMsgReq lci) (hcopy : beatGet (pktCtl p) 89 1 = 1)
    (hroom : s.grantsFull (portDie port.toNat) = false) :
    Served (.msgReq port p) s port p lci (s.enterPull (portDie port.toNat) lci p.src.toNat p.msgid.toNat (beatGet (pktCtl p) 0 32)
      (beatGet (pktCtl p) 80 2) [] fun _ => .named) :=
  served_of_arrives hd rfl (by simp only [hcopy, hroom, Bool.false_eq_true, if_false, if_true])

/-- The data of a message lands under its request, whose orphan timer starts anew when any of it did (16 R427, R431). -/
theorem msgData_lands {m : MsgReq} (hd : Delivered s port p ptMsgData lci) (hm : s.dataReq port.toNat lci p = some m) :
    let r := s.dataIn m p.addr.toNat ((dataOf p).take (m.len - p.addr.toNat))
    Served (.msgData port p) s port p lci (if r.2 then r.1.touchMsg m.id else r.1) :=
  served_of_arrives hd rfl (by simp only [hm])

/-! ### Answers, given to what waits for them -/

/-- A load's answer is given to its transaction (16 R417). -/
theorem loadRsp_answers {t : Txn} (hd : Delivered s port p ptLoadRsp lci) (ht : s.answeredTxn lci p = some t) :
    Served (.loadRsp port p) s port p lci (s.loadAnswered t p) :=
  served_of_arrives hd rfl (by simp only [ht])

/-- A store's answer is given to its transaction, at its effect time (04 R124). -/
theorem storeAck_answers {t : Txn} (hd : Delivered s port p ptStoreAck lci) (hw : s.answeredWcb p = none)
    (ht : s.answeredTxn lci p = some t) :
    let c := pktCtl p
    Served (.storeAck port p) s port p lci ((s.storeTold t (beatGet c 64 32 != 0) (beatGet c 0 64 + 40)).answerTxn t
      (wordAnswers t.lanes (beatGet c 64 32) (beatGet c 96 8) t.pod []) (if beatGet c 64 32 = 0 then 0 else beatGet c 0 64 + 40)) :=
  served_of_arrives hd rfl (by simp only [State.storeAnswered, hw, ht])

/-- An atomic's answer is given to its transaction (16 R418). -/
theorem atomicRsp_answers {t : Txn} (hd : Delivered s port p ptAtomicRsp lci) (ht : s.answeredTxn lci p = some t) :
    Served (.atomicRsp port p) s port p lci (s.atomicAnswered t p) :=
  served_of_arrives hd rfl (by simp only [ht])

/-- A message that is refused is told to its sender (16 R428). -/
theorem nak_told {x : Send} (hd : Delivered s port p ptNak lci)
    (hx : s.traffic.sends.find? (fun x => x.lci == lci && x.pchip == p.src.toNat && x.queue == beatGet (pktCtl p) 32 12 &&
      x.msgid == p.msgid.toNat) = some x) : Served (.nak port p) s port p lci (s.sendNak x (beatGet (pktCtl p) 0 8)) :=
  served_of_arrives hd rfl (by simp only [hx])

/-- An error fails the transaction that it answers (15 R412). -/
theorem error_fails {t : Txn} (hd : Delivered s port p ptError lci) (hw : s.answeredWcb p = none) (ht : s.answeredTxn lci p = some t) :
    Served (.error port p) s port p lci
      ((if t.kind == .store then s.storeTold t false 0 else s).loseTxn t lci (beatGet (pktCtl p) 0 8)) :=
  served_of_arrives hd rfl (by simp only [hw, ht])

end

/-- Settles O58: every packet type has one handler, which a delivered packet reaches with its chip. -/
theorem fabricPackets : Obligations.FabricPackets := by
  constructor
  · intro s port p lci c
    exact ⟨fun hd => served_of_arrives hd rfl rfl, fun hd => served_of_arrives hd rfl rfl, fun hd => served_of_arrives hd rfl rfl,
      preq_served, fun _ _ _ => msgReq_taken, msgReq_entersPull, fun _ => msgData_lands⟩
  · intro s port p lci c
    exact ⟨fun _ => loadRsp_answers, fun _ => storeAck_answers, fun _ => atomicRsp_answers, fun hd => served_of_arrives hd rfl rfl,
      fun hd => served_of_arrives hd rfl rfl, fun hd => served_of_arrives hd rfl rfl, fun _ => nak_told, fun _ => error_fails⟩

end Sys2Proof.Machine
end

section
/-! SUPPORT. The grant scheduler and its timers, the ends of background commands, slices, drains, hints, retirements and dumps
(16 R426 to R432, 15 R393 to R410, 14 R385, 17 R442, 18 R465 to R470), and the statement O59. -/

namespace Sys2Proof.Machine

variable {s : State} {n : Nat} {die : BitVec 4}

/-! ### The grant scheduler and its timers -/

/-- Where the die's one message has nothing to complete and no sender waits, the scheduler only grants a token (16 R429). -/
theorem exec_tokenIssue_grants {m m' : MsgReq} (hmsg : (s.traffic.msgs.filter fun m => m.die == die.toNat) = [m])
    (hsend : (s.traffic.sends.filter fun x => x.die == die.toNat) = []) (hfin : s.msgFinish m.id = s) (hlog : s.refuseLogged m = s)
    (hroom : (s.traffic.tokens.filter fun k => k.die == die.toNat).length < 1024)
    (hnext : s.nextGrant die.toNat (Config.freeNat s.free) = some m') :
    exec (.tokenIssue die) s = .next ({ s with free := s.free + 1 }.grant m') := by
  change execTokenIssue die s = _
  simp only [execTokenIssue, hmsg, hsend, hfin, hlog, hnext, Nat.not_le.mpr hroom, List.map_cons, List.map_nil, List.foldl_cons,
    List.foldl_nil, if_false]

/-- A token that is due is void, unless its guest is paused (16 R430, 15 R401). -/
theorem exec_tokenExpiry {k : Token} {m : MsgReq} (hk : s.traffic.tokens.find? (fun k => k.die == die.toNat && k.num == n) = some k)
    (hm : s.tokenReq k = some m) (hrun : (s.guest (s.gidOf m.lci)).paused = false) (hdue : k.expiry ≤ s.gtc) :
    exec (.tokenExpiry die n) s = .next (s.voidToken k) := by
  change execTokenExpiry die n s = _
  simp only [execTokenExpiry, hk, hm, hrun, Nat.not_lt.mpr hdue, decide_false, Bool.or_self, Bool.false_eq_true, if_false]

/-- A request whose orphan timer runs and is due is an orphan (16 R431). -/
theorem exec_orphanTimeout {m : MsgReq} {t : Nat} (hm : s.msg? n = some m) (ht : m.orphAt = some t) (hdie : m.die = die.toNat)
    (hdue : t ≤ s.gtc) (hrun : s.orphanRuns m = true) : exec (.orphanTimeout die n) s = .next (s.orphan m) := by
  change execOrphanTimeout die n s = _
  simp only [execOrphanTimeout, hm, ht, hdie, hdue, hrun, beq_self_eq_true, decide_true, Bool.and_self, if_true]

/-- A sender whose wait after a refusal is over sends its request and first bytes again (16 R428). -/
theorem exec_nakRetry {x y : Send} {t : Nat} (hx : s.send? n = some x) (ht : x.nakUntil = some t) (hdue : t ≤ s.gtc)
    (hrun : (s.guest (s.gidOf x.lci)).paused = false)
    (hy : (s.modSend n fun y => { y with nakUntil := none, sentTo := 0 }).send? n = some y) :
    exec (.nakRetry n) s = .next (((s.modSend n fun y => { y with nakUntil := none, sentTo := 0 }).sendReq y).pumpSend n) := by
  change execNakRetry n s = _
  simp only [execNakRetry, hx, ht, hrun, hy, Nat.not_lt.mpr hdue, decide_false, Bool.or_self, Bool.false_eq_true, if_false]

/-! ### The ends of background commands -/

/-- A pause ends when no link holds an unaccepted packet of its guest (18 R465, 15 R401). -/
theorem exec_guestPauseComplete {gid : BitVec 16} {h : CmdHdr} {r : List Background} (hacked : s.podUnacked gid.toNat = false)
    (hbg : s.hub.background = .pause h gid.toNat :: r) :
    exec (.guestPauseComplete gid) s = .next ((((s.endBackground (.pause h gid.toNat)).setGuest gid.toNat
      { s.guest gid.toNat with pauseDone := true }).finishCmd h stOk 0).pollQueue h.fn .cmd) := by
  change execGuestPauseComplete gid s = _
  simp only [execGuestPauseComplete, hacked, hbg, List.find?_cons, beq_self_eq_true, Bool.false_eq_true, if_false]

/-- A checkpoint ends when every chip of its guest has left its clusters (18 R466, 15 R405). -/
theorem exec_checkpointComplete {gid : BitVec 16} {h : CmdHdr} {narrow : Bool} {dest ranges : Nat} {r : List Background}
    (hleft : s.allLeft gid.toNat = true) (hbg : s.hub.background = .ckpt h gid.toNat narrow dest ranges :: r) :
    exec (.checkpointComplete gid) s = .next (s.finishCkpt h gid.toNat narrow dest ranges) := by
  change execCheckpointComplete gid s = _
  simp only [execCheckpointComplete, hleft, hbg, List.find?_cons, beq_self_eq_true, Bool.not_true, Bool.false_eq_true, if_false]

/-- A migration goes on to send its chip (18 R467, 15 R408). -/
theorem exec_migrationComplete {lci : BitVec 8} {c : Chip} {h : CmdHdr} {target : Nat} {l : List (Nat × DWord)} {r : List Background}
    (hc : s.chip? lci.toNat = some c) (hbg : s.hub.background = .migrate h lci.toNat target l :: r) :
    exec (.migrationComplete lci) s = .next (s.migrateOut h lci.toNat target l c) := by
  change execMigrationComplete lci s = _
  simp only [execMigrationComplete, hc, hbg, List.find?_cons, beq_self_eq_true]

/-! ### Drains and hints -/

/-- Before its drain bound a chip whose clusters are empty leaves them (14 R385). -/
theorem exec_drainBoundExpiry_empty {lci : BitVec 8} {c : Chip} {t : Nat} (hc : s.chip? lci.toNat = some c) (ht : c.res.drainAt = some t)
    (hearly : s.gtc < t) (hempty : s.outEmpty lci.toNat c.res.out = true) :
    exec (.drainBoundExpiry lci) s = .next (s.vacate lci.toNat) := by
  change execDrainBoundExpiry lci s = _
  simp only [execDrainBoundExpiry, hc, ht, Nat.not_le.mpr hearly, hempty, if_false, if_true]

/-- A hint for a group that a chip here belongs to is kept while it is within that chip's slice (15 R394). -/
theorem exec_coschedHint {cg : Word} {start : Nat} {c : Nat × Chip} (hc : c ∈ s.chips) (hcg : cg ≠ 0) (hgroup : c.2.qos.cgroup = cg.toNat)
    (hfresh : s.gtc ≤ start + c.2.qos.slice) :
    exec (.coschedHint cg start) s = .next (s.modMod fun m => { m with hints := m.hints ++ [(cg.toNat, start)] }) := by
  change execCoschedHint cg start s = _
  have hmine : c ∈ s.chips.filter fun c => c.2.qos.cgroup == cg.toNat && cg != 0 := List.mem_filter.mpr ⟨hc, by simpa [hgroup] using hcg⟩
  rw [execCoschedHint, if_pos (List.any_eq_true.mpr ⟨c, hmine, decide_eq_true hfresh⟩)]

/-! ### Dumps -/

/-- A team that was asked to stop, and is on no core, is stopped, and its chip's dump list gains it (17 R442). -/
theorem exec_stopDump {id : TeamId} {t : Team} (ht : s.team? id = some t) (hst : t.dbg.state = 1) (hcore : t.core? = none) :
    let v := { t with dbg := { t.dbg with state := 2, stopT := s.gtc, slot := none, mark := false } }
    exec (.stopDump id) s = .next (((s.setTeam (v.mapGroups fun g => { g with stopped := true, stepping := false, run := none })).modChip id.lci
      fun c => { c with dbg := { c.dbg with pending := c.dbg.pending ++ [(id, v.dumpHead)] } }).flushDumps id.lci) := by
  intro v
  change execStopDump id s = _
  have hcore' : (v.mapGroups fun g => { g with stopped := true, stepping := false, run := none }).core? = none := hcore
  simp only [execStopDump, ht, hst, ne_eq, not_true, if_false, v] at hcore' ⊢
  simp only [hcore']

/-- Settles O59: each event by its own rule; slices and retirements have no condition. -/
theorem timersAndBackground : Obligations.TimersAndBackground := by
  intro s n die
  refine ⟨?_, fun _ _ => exec_tokenExpiry, fun _ _ => exec_orphanTimeout, fun _ _ _ => exec_nakRetry,
    fun _ _ _ => exec_guestPauseComplete, fun _ _ _ _ _ _ => exec_checkpointComplete, fun _ _ _ _ _ _ => exec_migrationComplete, rfl,
    fun _ _ _ => exec_drainBoundExpiry_empty, fun _ _ _ => exec_coschedHint, fun _ => rfl, rfl, fun _ _ => exec_stopDump⟩
  rintro d m rfl hmsg hsend hfin hlog hroom hnext
  exact exec_tokenIssue_grants hmsg hsend hfin hlog hroom hnext

end Sys2Proof.Machine
end

section
/-! SUPPORT. The debug control of a chip (17 R439 to R449): what its holder's writes do, and that another function's do nothing; the
statement O52. -/

namespace Sys2Proof.Machine

variable {fn : Fn} {s : State} {c : Chip}

/-- A write of the debug control's holder is run (17 R440). -/
theorem onDbg_holder {lci : Nat} (hc : s.chip? lci = some c) (hh : c.dbg.holder = some fn) (k : Chip → State) :
    s.onDbg fn lci k = k c := by
  simp only [State.onDbg, hc, hh, if_true]

/-- A write of another function is ignored (17 R440). -/
theorem onDbg_other {lci : Nat} (hc : s.chip? lci = some c) (hh : c.dbg.holder ≠ some fn) (k : Chip → State) :
    s.onDbg fn lci k = s := by
  simp only [State.onDbg, hc, hh, if_false]

section
variable {team : TeamId} {t : Team} (hc : s.chip? team.lci = some c)
include hc

/-- A command that names a team of another function's chip is ignored (17 R440; log 61). -/
theorem onStopped_other (hh : c.dbg.holder ≠ some fn) (k : Team → State) : s.onStopped fn team k = s :=
  onDbg_other hc hh _

variable (hh : c.dbg.holder = some fn) (ht : s.team? team = some t)
include hh ht

/-- STOP of a team on a core raises its trigger (17 R441). -/
theorem exec_dbgcmdStop_resident {core k : Nat} (he : t.ended = false) (hp : t.place = .resident core k) :
    exec (.dbgcmdStop fn team) s = .next ((s.dbgDone team 0).trigger team 1 0 none 0 0) := by
  change execDbgcmdStop fn team s = _
  simp only [execDbgcmdStop, onDbg_holder hc hh, ht, he, hp, Bool.false_eq_true, if_false]

variable (hst : t.dbg.state = 2)
include hst

/-- A register of a stopped team is written (17 R445). -/
theorem exec_registerWindowWrite {g : BitVec 5} {w : WinTarget} {d : DWord} (hg : g.toNat < t.desc.groupCount) :
    exec (.registerWindowWrite fn team g w d) s = .next (s.setTeam (t.windowWrite g.toNat w d)) := by
  change execRegisterWindowWrite fn team g w d s = _
  simp only [execRegisterWindowWrite, onDbg_holder hc hh, ht, hst, hg, decide_true, Bool.and_self, if_true]

variable (he : t.ended = false)
include he

/-- A command of the holder that names a stopped team is run (17 R441). -/
theorem onStopped_runs (k : Team → State) : s.onStopped fn team k = k t := by
  simp only [State.onStopped, onDbg_holder hc hh, ht, he, hst, Bool.false_eq_true, if_false, if_true]

/-- RESUME lifts the stop (17 R441). -/
theorem exec_dbgcmdResume : exec (.dbgcmdResume fn team) s = .next ((s.dbgDone team 0).liftStop team) :=
  congrArg Host.Outcome.next (onStopped_runs hc hh ht hst he _)

/-- RESUME_NEXT lifts the stop and passes the breakpoints that the team stands at (17 R441). -/
theorem exec_dbgcmdResumeNext :
    exec (.dbgcmdResumeNext fn team) s = .next (((s.dbgDone team 0).pastBkpts team).liftStop team) :=
  congrArg Host.Outcome.next (onStopped_runs hc hh ht hst he _)

/-- STEP lets a group that has a lane to issue for issue once; the team's dump slot is free again (17 R449; log 61). -/
theorem exec_dbgcmdStep {g : BitVec 5} (hr : (t.group g.toNat).readyMask ≠ 0) :
    exec (.dbgcmdStep fn team g) s = .next (((s.dbgDone team 0).freeDump team).modTeam team fun t =>
      { t.modGroup g.toNat (fun g => { g with stepping := true, stopped := false, skid := 0, eligibleAt := s.gtc }) with
        dbg := { t.dbg with state := 3, slot := none, hits := 0 } }) := by
  change execDbgcmdStep fn team g s = _
  rw [execDbgcmdStep, onStopped_runs hc hh ht hst he, if_neg hr]

end

/-- DETACH releases the debug control (17 R440). -/
theorem exec_dbgcmdDetach {lci : BitVec 8} (hc : s.chip? lci.toNat = some c) (hh : c.dbg.holder = some fn) :
    exec (.dbgcmdDetach fn lci) s = .next (s.detach lci.toNat) :=
  congrArg Host.Outcome.next (onDbg_holder hc hh _)

/-- A watchpoint of the core at a place of the chip is replaced (17 R447). -/
theorem exec_watchpointWrite {lci : BitVec 8} {lcore : BitVec 11} {wp : BitVec 2} {v : BitVec 128} {core : Nat}
    (hc : s.chip? lci.toNat = some c) (hh : c.dbg.holder = some fn) (hp : c.place placeCore 0 lcore.toNat = some core) :
    exec (.watchpointWrite fn lci lcore wp v) s = .next (s.modCore core fun k => { k with
      watch := (wp.toNat, Watch.ofBits lci.toNat v.toNat) :: k.watch.filter fun w => w.1 != wp.toNat }) := by
  change execWatchpointWrite fn lci lcore wp v s = _
  rw [execWatchpointWrite, onDbg_holder hc hh]
  simp only [hp]

/-- Settles O52: every write goes through the test of its holder, and a command that names a team through that of its stop. -/
theorem debugWrites : Obligations.DebugWrites := by
  intro fn team g s c t hc holds stopped done
  refine ⟨fun hh => ⟨?_, ?_, ?_, ?_⟩, ?_, ?_, ?_, ?_, ?_, ?_⟩
  · exact congrArg Host.Outcome.next (onDbg_other hc hh _)
  · exact congrArg Host.Outcome.next (onStopped_other hc hh _)
  · exact congrArg Host.Outcome.next (onStopped_other hc hh _)
  · exact congrArg Host.Outcome.next (onStopped_other hc hh _)
  · exact fun core k hh ht he hp => exec_dbgcmdStop_resident hc hh ht he hp
  · rintro ⟨hh, ht, he, hst⟩
    exact ⟨exec_dbgcmdResume hc hh ht hst he, exec_dbgcmdResumeNext hc hh ht hst he⟩
  · rintro ⟨hh, ht, he, hst⟩ hr
    exact exec_dbgcmdStep hc hh ht hst he hr
  · intro lci hl hh
    rw [← hl] at hc ⊢
    exact exec_dbgcmdDetach hc hh
  · rintro w d ⟨hh, ht, -, hst⟩ hg
    exact exec_registerWindowWrite hc hh ht hst hg
  · intro lci lcore wp v core hl hh hp
    rw [← hl] at hc ⊢
    exact exec_watchpointWrite hc hh hp

end Sys2Proof.Machine
end

section
/-! SUPPORT. The state after reset (18 R463), and what a team has at its start (05 R158, Table 5.1, 03 R95, R98, R101, R109, 07 R219,
09 R271); the statement O2. -/

namespace Sys2Proof.Machine

/-- The value of a map that is tabulated over a list of keys, at one of them. -/
theorem smGet_map_keys {α : Type} (d : α) (f : Nat → α) {l : List Nat} {k : Nat} (hk : k ∈ l) : smGet d (l.map fun n => (n, f n)) k = f k := by
  induction l with
  | nil => cases hk
  | cons n r ih =>
    rw [List.map_cons, smGet]
    split
    · next h => rw [h]
    · next h => exact ih ((List.mem_cons.mp hk).resolve_left fun e => h e.symm)

/-- Reset leaves no power, no chip, no team and no work, and memory with nothing listed (18 R463; that nothing is listed is the
choice of logs 1 and 3). -/
theorem reset_empty : let s := State.reset
    s.hub.power = .off ∧ s.chips = [] ∧ s.teams = [] ∧ s.traffic = Traffic.init ∧ s.mem = [] ∧ memWf s.mem = true ∧ s.Settled :=
  ⟨rfl, rfl, rfl, rfl, rfl, reset_memWf, fun _ ht => absurd ht List.not_mem_nil⟩

/-- A lane of a group that starts: at its role's entry point, READY, its predicates at zero and its seed as R219 gives it. -/
theorem startGroup_lane (d : Desc) (index grp : Nat) {l : Nat} (hl : l < 32) : (d.startGroup index grp).lane l =
    { pc := (d.roleOf grp).entry, st := .ready, wait := none, preds := 0, seed := srSeed d.seed index grp l } :=
  smGet_map_keys _ _ (List.mem_range.mpr hl)

/-- The registers and the predicates of a group that starts are zero (05 R158). -/
theorem startGroup_key (d : Desc) (index grp : Nat) {l : Nat} (hl : l < 32) (n : Nat) : (d.startGroup index grp).key l n = 0 := by
  rw [Group.key, startGroup_lane d index grp hl]
  split
  · rfl
  · exact if_neg (by simp)

/-- The groups of a team that starts. -/
theorem start_group {id : TeamId} {pchip lq rank size order core slot base : Nat} {d : Desc} {k : Nat} (hk : k < d.groupCount) :
    (Team.start id pchip lq d rank size order core slot base).group k = d.startGroup id.index k :=
  smGet_map_keys _ _ (List.mem_range.mpr hk)

/-- The convergence registers of a team that starts wait for every lane of every group (09 R271). -/
theorem start_convReg {id : TeamId} {pchip lq rank size order core slot base : Nat} {d : Desc} {j : Nat} (hj : j < 8) :
    (Team.start id pchip lq d rank size order core slot base).convReg j = Conv.init d.groupCount :=
  smGet_map_keys _ _ (List.mem_range.mpr hj)

/-- Settles O2: reset by its definition, and a team's start group by group. -/
theorem resetAndTeamStart : Obligations.ResetAndTeamStart := by
  refine ⟨reset_empty, fun id pchip lq rank size order core slot base d k l hk hl => ?_⟩
  intro t g
  have hg : g = d.startGroup id.index k := start_group hk
  have hlane := startGroup_lane d id.index k hl
  rw [hg, hlane]
  exact ⟨rfl, rfl, rfl, rfl, fun n _ => startGroup_key d id.index k hl n, Nat.mul_comm _ _, fun _ => ⟨rfl, rfl⟩, rfl, rfl,
    fun _ => ⟨rfl, rfl⟩, fun _ => ⟨rfl, rfl⟩, fun _ => start_convReg, rfl, rfl⟩

end Sys2Proof.Machine
end

section
/-! SUPPORT. Commands of a queue, a function or a guest (18 R458 to R468, R494, R497, 15 R401 to R411, 13 R360), and the statement O51. -/

namespace Sys2Proof.Machine

section
variable {h : CmdHdr} {s u : State}

/-! ### Queues and functions -/

/-- NOP of the command queue only completes (18 R458). -/
theorem nopCmd_answers (hq : s.nopQueue h = .cmd) (hc : Commanded s h (.nopCmd h) u) : Answers (.nopCmd h) s h u stOk 0 :=
  answers_of_done (k := fun s => .done s stOk 0) hc (by change execNopCmd h s = _; rw [execNopCmd, hq, State.onCmd]) rfl

/-- SETVER to version 1, before the function's first other command, records the version of its interface (18 R462). -/
theorem setver_records {iface : BitVec 8} (hc : Commanded s h (.setver h iface 1) u) (hi : iface.toNat ≤ 2)
    (hfirst : s.hub.seenCmd.contains (Fn.num h.fn) = false) :
    Answers (.setver h iface 1) s h
      (u.modHub fun x => { x with versions := smSet 0 x.versions (4 * Fn.num h.fn + iface.toNat) 1 }) stOk 0 :=
  answers_of_done hc rfl (by simp only [Nat.not_lt.mpr hi, hfirst, bne_self_eq_false, Bool.false_eq_true, if_false])

/-- ATTEST writes its record where every page of the output is reached (18 R464). -/
theorem attest_writes {nonce : BitVec 256} {out : DWord} (hc : Commanded s h (.attest h nonce out) u)
    (hreach : u.issuerBlock h.fn ((u.evidence nonce).length / 4096 + 2) out.toNat (u.evidence nonce).length = none) :
    Answers (.attest h nonce out) s h ({ u with free := u.free + 2 }.issuerWrite h.fn out.toNat (u.evidence nonce)) stOk
      (u.evidence nonce).length :=
  answers_of_done hc rfl (by simp only [hreach])

/-- COUNTER_ACQ by the PF of a bank for every chip gives it the bank, cleared (17 R439; that it starts cleared is log 62's). -/
theorem counterAcq_takes {die bank : BitVec 8} {who : Option Fn} (hc : Commanded s h (.counterAcq h 0 0 die bank 0xFFFF) u) (hfn : h.fn = .pf)
    (hdie : die.toNat < 16) (hbank : bank.toNat < 8) (hon : u.onDie h.fn die.toNat = true)
    (hwho : acquire h.fn 0 (smGet CtrBank.init u.mod.banks (8 * die.toNat + bank.toNat)).holder = some who) :
    Answers (.counterAcq h 0 0 die bank 0xFFFF) s h (u.modMod fun m => { m with
      banks := smSet CtrBank.init m.banks (8 * die.toNat + bank.toNat) { CtrBank.init with holder := who, chip := none } }) stOk 0 := by
  rw [hfn] at hon hwho
  refine answers_of_done hc rfl ?_
  simp [hfn, Nat.not_le.mpr hdie, Nat.not_le.mpr hbank, hon, hwho]

/-- A launch packet whose record is accepted completes with its handle (13 R360). -/
theorem exec_launchPacket_accepted {lq : BitVec 8} {rec : BitVec 512} {b : List Byte} {d : QDesc} {lci handle a : Nat} {k : Cls} {v : State}
    (hfront : s.front h.fn (.launch lq) = .packet b) (hq : s.queue? h.fn (.launch lq) = some d)
    (hchip : s.launchChip h.fn lq.toNat = some lci) (hp : s.hub.power ≠ .p2) (hop : byteAt b 0 = 1) (hhdr : cmdHdr h.fn d.head b = h)
    (hrec : packetNat b 16 64 = rec.toNat) (hcpl : s.cplaAt h = .at_ a k) (hfn : h.fn = .pf)
    (hacc : s.accept lci lq.toNat true rec.toNat true (2 ^ 43 + 257 * lq.toNat + Fn.num h.fn) = .ok handle v) :
    exec (.launchPacket h lq rec) s =
      .next (((v.pastPacket h.fn (.launch lq) b).finishCmd h stOk handle).pollQueue h.fn (.launch lq)) := by
  change execLaunchPacket h lq rec s = _
  simp only [hfn] at hfront hq hchip hhdr hacc ⊢
  simp [-Nat.reducePow, execLaunchPacket, hfn, hfront, hq, hchip, hp, hop, hhdr, hrec, hcpl, hacc]

/-! ### Guests -/

/-- ROUTE_LOAD of a chip table or a port's routes stores its entries; routes that a port gains bring back the peers behind it
(18 R494, 16 R434). -/
theorem routeLoad_stores {gid : BitVec 16} {kind sel : BitVec 8} {src : DWord} {first count : Word} {b : List Byte} :
    let shape := routeShape kind.toNat
    let l := (List.range count.toNat).map fun k => packetNat b (shape.1 * k) shape.1
    let v := u.loadRoutes gid.toNat kind.toNat sel.toNat first.toNat l
    Commanded s h (.routeLoad h gid kind sel src first count) u → h.fn = .pf → u.guestBusy gid.toNat = false →
      (u.guest gid.toNat).paused = true → kind.toNat < 2 → u.routeSelOk gid.toNat kind.toNat sel.toNat = true →
      first.toNat + count.toNat ≤ shape.2 → u.issuerRead h.fn src.toNat (count.toNat * shape.1) = .bytes b →
      entriesOk kind.toNat l = true →
      Answers (.routeLoad h gid kind sel src first count) s h (if kind.toNat = 1 then v.liftPeers sel.toNat else v) stOk 0 := by
  intro shape l v hc hfn hbusy hp hkind hsel hroom hrd hok
  refine answers_of_done hc rfl ?_
  have h2 : ¬ kind.toNat = 2 := by omega
  have h3 : ¬ kind.toNat = 3 := by omega
  have h4 : ¬ 3 < kind.toNat := by omega
  simp only [shape, l] at hroom hrd hok
  simp only [pfOnly_runs hfn, hbusy, hp, hsel, Nat.not_lt.mpr hroom, h2, h3, h4, readOperand_bytes hrd, hok, decide_false, Bool.not_true,
    Bool.and_false, Bool.false_and, Bool.or_self, Bool.false_eq_true, if_false]
  rfl

section
variable {gid : BitVec 16} (hfn : h.fn = .pf) (hbusy : u.guestBusy gid.toNat = false)
include hfn hbusy

/-- GUEST_PAUSE pauses the pod, and ends in the background (15 R401). -/
theorem guestPause_pauses (hc : Commanded s h (.guestPause h gid) u) : AnswersLater (.guestPause h gid) s h
    ((u.pauseGuest gid.toNat).modHub fun x => { x with background := x.background ++ [.pause h gid.toNat] }) :=
  answersLater_of_later hc rfl (by simp only [pfOnly_runs hfn, hbusy, Bool.false_eq_true, if_false])

/-- GUEST_RESUME lets the pod send again, and its chips run (15 R402). -/
theorem guestResume_resumes (hc : Commanded s h (.guestResume h gid) u) : Answers (.guestResume h gid) s h
    ((u.unpauseGuest gid.toNat).resumeChips gid.toNat) stOk 0 :=
  answers_of_done hc rfl (by simp only [pfOnly_runs hfn, hbusy, Bool.false_eq_true, if_false])

/-- A whole CKPT of a guest whose pause has ended suspends its chips; the save goes on in the background (18 R465, R466). -/
theorem ckpt_suspends {dest ranges rt : DWord} (hc : Commanded s h (.ckpt h gid false dest ranges rt) u)
    (hp : (u.guest gid.toNat).paused = true) (hd : (u.guest gid.toNat).pauseDone = true)
    (hdest : (u.runList h.fn runListMax dest.toNat).isSome = true) :
    AnswersLater (.ckpt h gid false dest ranges rt) s h (((u.guestChips gid.toNat).foldl (fun v k => v.suspend k 0 true) u).modHub fun x =>
      { x with background := x.background ++ [.ckpt h gid.toNat false dest.toNat ranges.toNat] }) := by
  refine answersLater_of_later hc rfl ?_
  have hsome : (u.runList h.fn runListMax dest.toNat).isNone = false := by rw [← Option.not_isSome, hdest]; rfl
  simp only [pfOnly_runs hfn, hbusy, hp, hd, hsome, Bool.not_true, Bool.false_and, Bool.or_self, Bool.false_eq_true, if_false]

/-- RESTORE of images whose chips are off their cores suspends those chips; the load goes on in the background (18 R467; that it
suspends them is log 59's). -/
theorem restore_suspends {src : DWord} {l : List (Nat × Nat)} :
    let images := u.imagesAt gid.toNat (firstRun (some l))
    Commanded s h (.restore h gid src) u → u.runList h.fn runListMax src.toNat = some l → images ≠ [] →
      (∀ k ∈ images, (u.imageChip k).isSome = true) →
      AnswersLater (.restore h gid src) s h ((images.foldl (fun (v : State) k =>
        match v.imageChip k with
        | some c => if c.2.res.suspended.isSome then v else v.suspend c.1 0 true
        | none => v) u).modHub fun x => { x with background := x.background ++ [.restore h gid.toNat (firstRun (some l))] }) := by
  intro images hc hl hne hall
  refine answersLater_of_later hc rfl ?_
  have hall' : (images.all fun i => (u.imageChip i).isSome) = true := List.all_eq_true.mpr hall
  have hne' : images.isEmpty = false := List.isEmpty_eq_false_iff.mpr hne
  simp only [pfOnly_runs hfn, hbusy, hl, Option.isNone_some, images] at hall' hne' ⊢
  simp only [hall', hne', Bool.not_true, Bool.or_self, Bool.false_eq_true, if_false] <;> rfl

end

/-- VC_MIGRATE of a chip, to another module and with a route block that names every module of its pod, suspends it; the rest
goes on in the background (15 R404, R497). -/
theorem vcMigrate_suspends {lci : BitVec 8} {target : BitVec 16} {route : DWord} {c : Chip} {b0 b : List Byte} {l : List (Nat × DWord)}
    (hc : Commanded s h (.vcMigrate h lci target route) u) (hfn : h.fn = .pf) (hchip : u.chip? lci.toNat = some c)
    (hbusy : u.chipBusy lci.toNat = false) (hinc : c.ident.incoming = false) (hlock : c.locked = false)
    (hpos : target.toNat ≠ u.hub.position) (ht : target.toNat < 16 ∨ (2 ^ 15 ≤ target.toNat ∧ target.toNat - 2 ^ 15 < 4096))
    (hrd0 : u.issuerRead h.fn route.toNat 8 = .bytes b0) (hn : leNat b0 ≤ 2 ^ 16)
    (hrd : u.issuerRead h.fn (route.toNat + 8) (16 * leNat b0) = .bytes b) (hblock : routeBlock b (leNat b0) = some l)
    (hmods : ∀ m ∈ u.podModules c.ident.gid target.toNat, ∃ r ∈ l, r.1 = m) :
    AnswersLater (.vcMigrate h lci target route) s h ((u.suspend lci.toNat 0 false).modHub fun x =>
      { x with background := x.background ++ [.migrate h lci.toNat target.toNat l] }) := by
  refine answersLater_of_later hc rfl ?_
  have hrange : (decide (target.toNat < 2 ^ 15) && decide (16 ≤ target.toNat) ||
      decide (2 ^ 15 ≤ target.toNat) && decide (4096 ≤ target.toNat - 2 ^ 15)) = false := by
    simp only [Bool.or_eq_false_iff, Bool.and_eq_false_iff, decide_eq_false_iff_not]
    omega
  have hall : ((u.podModules c.ident.gid target.toNat).all fun m => l.any fun r => r.1 == m) = true :=
    List.all_eq_true.mpr fun m hm => by simpa using hmods m hm
  simp only [pfOnly_runs hfn, onChip_runs hchip hbusy (.inl hinc), hlock, Bool.false_eq_true, if_false, hpos, decide_false, Bool.false_or,
    hrange, readOperand_bytes hrd0, Nat.not_lt.mpr hn, readOperand_bytes hrd, hblock, hall, Bool.not_true]

end

/-- Settles O51: each command by its own rule, from the state in which firmware has read its packet. -/
theorem guestCommands : Obligations.GuestCommands := by
  intro h s u gid g pf later
  refine ⟨nopCmd_answers, fun hc => answers_of_done hc rfl rfl, fun _ => setver_records, fun _ _ => attest_writes,
    fun _ _ => ?_, ?_, ?_, ?_, ?_, ?_, ?_, ?_⟩
  · exact fun hc hfn hdie hbank hon who hwho => counterAcq_takes hc hfn hdie hbank hon hwho
  · rintro kind sel src first count b i shape l ⟨hc, hfn, hbusy⟩ hp hkind hsel hroom hrd hok v
    have hk : (kind = 1) = (kind.toNat = 1) := propext (BitVec.toNat_inj (y := 1)).symm
    simp only [hk]
    exact routeLoad_stores hc hfn hbusy hp hkind hsel hroom hrd hok
  · rintro ⟨hc, hfn, hbusy⟩
    exact guestPause_pauses hfn hbusy hc
  · rintro ⟨hc, hfn, hbusy⟩
    exact guestResume_resumes hfn hbusy hc
  · rintro dest ranges rt i ⟨hc, hfn, hbusy⟩ hp hd hdest
    exact ckpt_suspends hfn hbusy hc hp hd hdest
  · rintro src l i images ⟨hc, hfn, hbusy⟩ hl hne hall
    exact restore_suspends hfn hbusy hc hl hne hall
  · intro lci target route c b0 b l i t hc hfn hchip hbusy hinc hlock hpos ht hrd0 hn hrd hblock hmods
    exact vcMigrate_suspends hc hfn hchip hbusy hinc hlock hpos ht hrd0 hn hrd hblock hmods
  · intro lq rec b d lci handle a k v hfront hq hchip hp hop hhdr hrec hcpl hfn hacc
    exact exec_launchPacket_accepted hfront hq hchip hp hop hhdr hrec hcpl hfn hacc

end Sys2Proof.Machine
end

section
/-! SUPPORT. Writes of a function's registers (18 R455 to R457, 14 R374, R376, 17 R453), the power events (18 R463, R470, R472), device
interfaces and resets (15 R409), and the statement O53. -/

namespace Sys2Proof.Machine

variable {s : State}

/-! ### Queues and rings -/

/-- A queue's new tail is stored, and the queue polled (18 R457). -/
theorem exec_queueTailWrite {fn : Fn} {q : QSel} {tail : Word} {d : QDesc} (hd : s.queue? fn q = some d) :
    exec (.queueTailWrite fn q tail) s = .next ((s.setQueue fn q { d with tail := tail.toNat }).pollQueue fn q) := by
  change execQueueTailWrite fn q tail s = _
  simp only [execQueueTailWrite, hd]

/-- A write of another field of a PF's queue resets it: on where its size is one of a ring (18 R456). -/
theorem exec_queueDescriptorReset_pf {q : QSel} {base erra : DWord} {size : BitVec 8} {d : QDesc} (hd : s.queue? .pf q = some d) :
    exec (.queueDescriptorReset .pf q base size erra) s = .next (s.setQueue .pf q { d with
      base := base.toNat, size := size.toNat, erra := erra.toNat, head := d.tail,
      state := if 6 ≤ size.toNat ∧ size.toNat ≤ 16 then 1 else 0 }) := by
  change execQueueDescriptorReset .pf q base size erra s = _
  simp only [execQueueDescriptorReset, hd, Bool.and_eq_true, decide_eq_true_eq]

/-- RTAIL within the reply ring, or of a ring that is off, is stored, and ends a halt (14 R376; that it ends a halt is log 62's). -/
theorem exec_rtailWrite {lci : BitVec 8} {rtail : Word} {c : Chip} (hc : s.chip? lci.toNat = some c)
    (hfits : c.svc.repOn = false ∨ ringUsed rtail.toNat c.svc.rhead ≤ 2 ^ c.svc.rsize) :
    exec (.rtailWrite lci rtail) s =
      .next (s.modChip lci.toNat fun c => { c with svc := { c.svc with rtail := rtail.toNat, halted := false } }) := by
  change execRtailWrite lci rtail s = _
  have hin : (c.svc.repOn && decide (2 ^ c.svc.rsize < ringUsed rtail.toNat c.svc.rhead)) = false := by
    rcases hfits with h | h
    · rw [h, Bool.false_and]
    · rw [decide_eq_false (Nat.not_lt.mpr h), Bool.and_false]
  simp only [execRtailWrite, hc, hin, Bool.false_eq_true, if_false]

/-- A reply record that is reached, and not poisoned, is applied (14 R376). -/
theorem exec_serviceReply {lci : BitVec 8} {c : Chip} {a : Nat} {k : Cls} (hc : s.chip? lci.toNat = some c) (hr : c.replies = true)
    (hreach : s.reach lci.toNat (ringAddr c.svc.rbase c.svc.rsize 32 c.svc.rhead) false = .at_ a k)
    (hgood : s.peekBad lci.toNat a 32 = false) :
    exec (.serviceReply lci) s = .next ((s.modChip lci.toNat fun c => { c with
      svc := { c.svc with rhead := (c.svc.rhead + 1) % 2 ^ 32 } }).replyRecord lci.toNat c (s.peek lci.toNat a 32 k)) := by
  change execServiceReply lci s = _
  simp only [execServiceReply, hc, hr, hreach, hgood, Bool.not_true, Bool.false_eq_true, if_false]

/-! ### Counters and the register page -/

/-- A bank's holder chooses what a counter counts, of the selects that are listed (17 R453). -/
theorem exec_counterSelectWrite {fn : Fn} {bank : BitVec 7} {ctr : BitVec 4} {sel : BitVec 16} :
    let b := smGet CtrBank.init s.mod.banks bank.toNat
    b.holder = some fn → sel.toNat ≤ 0xF →
      exec (.counterSelectWrite fn bank ctr sel) s = .next (s.modMod fun m => { m with
        banks := smSet CtrBank.init m.banks bank.toNat { b with sel := smSet 0 b.sel ctr.toNat sel.toNat } }) := by
  intro b hh hsel
  change execCounterSelectWrite fn bank ctr sel s = _
  simp only [b] at hh
  simp only [execCounterSelectWrite, hh, Nat.not_lt.mpr hsel, ne_eq, not_true, decide_false, Bool.or_self, Bool.false_eq_true, if_false, b]

/-- The PF's page takes a write byte by byte, when firmware answers; a 1 in ARM arms the ring (18 R455, 15 R398). -/
theorem exec_registerWrite_pf {off : BitVec 16} {data : List Byte} (hready : s.fwReady = true) :
    let v := (((data.zipIdx).foldl (fun (v : State) p => v.regByte .pf (off.toNat + p.2) p.1) s).regDone .pf off.toNat data.length).badDbgcmd
      .pf off.toNat data
    exec (.registerWrite .pf off data) s = .next (if off.toNat ≤ 0x89 ∧ 0x89 < off.toNat + data.length ∧
      (data.getD (0x89 - off.toNat) 0).getLsbD 0 = true then v.armRing .pf else v) := by
  intro v
  change execRegisterWrite .pf off data s = _
  simp only [execRegisterWrite, hready, Bool.and_self, Bool.not_true, Bool.false_eq_true, if_false, Bool.and_eq_true, decide_eq_true_eq,
    and_assoc, v]

/-! ### Power and interfaces -/

/-- POWER_GOOD with a good mask ROM retires what failed its tests, and with a bad one holds the module in reset (18 R463). -/
theorem exec_powerGood {cl ch : List Nat} (hoff : s.hub.power = .off) :
    exec (.powerGood true cl ch) s = .next (ch.foldl (fun v k => if k < 1024 then v.retireChannel k else v)
      (cl.foldl (fun v k => v.retireCluster k) { (s.modHub fun h => { h with power := .p0 }) with written := [] })) ∧
    exec (.powerGood false cl ch) s = .next (s.modHub fun h => { h with power := .heldInReset }) := by
  have hgood : execPowerGood true cl ch s = exec (.powerGood true cl ch) s := rfl
  have hbad : execPowerGood false cl ch s = exec (.powerGood false cl ch) s := rfl
  rw [← hgood, ← hbad]
  constructor <;> simp only [execPowerGood, hoff, ne_eq, not_true, Bool.not_true, Bool.not_false, Bool.false_eq_true, if_false, if_true]

/-- POWER_COMMAND to P1 takes effect when firmware answers (18 R472). -/
theorem exec_powerCommand_p1 (hready : s.fwReady = true) :
    exec (.powerCommand .p1) s = .next (s.modHub fun h => { h with power := .p1 }) := by
  change execPowerCommand .p1 s = _
  simp only [execPowerCommand, hready, Bool.not_true, Bool.false_eq_true, if_false]

/-- LOCK moves an unlocked interface to CONFIG_LOCKED (15 R409). -/
theorem exec_tdispMessage_lock {lci : BitVec 8} {c : Chip} (hc : s.chip? lci.toNat = some c) (ht : c.ident.tdi = 0) :
    exec (.tdispMessage lci .lock) s = .next (s.setTdi lci.toNat 1) := by
  change execTdispMessage lci .lock s = _
  simp only [execTdispMessage, hc, ht, if_true]

/-- Settles O53: each write and event by its own rule; arming, the power limit, the loss of power and the PF's reset (log 64) have
no condition. -/
theorem registerAndPowerEvents : Obligations.RegisterAndPowerEvents := by
  intro fn s
  refine ⟨fun _ _ _ => exec_queueTailWrite, fun _ _ _ _ _ => exec_queueDescriptorReset_pf, rfl, fun _ _ _ => exec_rtailWrite,
    fun _ _ _ _ => exec_serviceReply, fun _ _ _ => exec_counterSelectWrite, ?_, fun _ _ => exec_powerGood, fun _ => rfl, rfl,
    exec_powerCommand_p1, fun _ _ => exec_tdispMessage_lock, rfl⟩
  rintro off data hready rfl
  exact exec_registerWrite_pf hready

end Sys2Proof.Machine
end

section
/-! SUPPORT. The worked encodings of 06, 08, 09, 10, 11, 20 and 21 decode, and the statement O8. -/

namespace Sys2Proof

/-- Settles O8: each word evaluates to its instruction, whose fields are then read off. -/
theorem workedEncodingsDecode : Obligations.WorkedEncodingsDecode := by
  refine ⟨?iaddI, ?fadd, ?ffma, ?call, ?ld, ?mmaq, ?perm, ?pgreq, ?trapSvc⟩
  case iaddI => exact ⟨_, rfl, rfl, rfl, rfl⟩
  case fadd => exact ⟨_, rfl, rfl, rfl, rfl, rfl, rfl⟩
  case ffma => exact ⟨_, rfl, rfl, rfl, rfl, rfl, rfl, rfl⟩
  case call => exact ⟨_, rfl, rfl, rfl⟩
  case ld => exact ⟨_, rfl, rfl, rfl, rfl, rfl, rfl, rfl⟩
  case mmaq => exact ⟨_, rfl, rfl, rfl, rfl, rfl, rfl, rfl⟩
  case perm => exact ⟨_, rfl, rfl, rfl, rfl⟩
  case pgreq => exact ⟨_, rfl, rfl, rfl, rfl, rfl⟩
  case trapSvc => exact ⟨_, rfl, rfl, rfl⟩

end Sys2Proof
end
